-- ==== Sys2Proof/Word.lean ====
section
/-! DEFINITION. Words, saturating counters and the sparse tables that hold numbered things. -/
namespace Sys2Proof

abbrev Byte := BitVec 8
abbrev W32 := BitVec 32
abbrev W64 := BitVec 64

/-- One more, held at the largest value of `w` bits: the saturating counters of the manual. -/
def satInc (w n : Nat) : Nat := min (n + 1) (2 ^ w - 1)

/-- `k` more, held at the largest value of `w` bits. -/
def satAdd (w n k : Nat) : Nat := min (n + k) (2 ^ w - 1)

/-- Bits `[lo + w - 1 : lo]` of a number. -/
def bits (n lo w : Nat) : Nat := (n >>> lo) % 2 ^ w

/-- Bit `i` of a number. -/
def bitAt (n i : Nat) : Bool := n.testBit i

/-- `true` as 1. -/
def b2n (b : Bool) : Nat := if b then 1 else 0

/-- Little-endian bytes of a number, `len` of them (R5). -/
def leBytes (len n : Nat) : List Nat := (List.range len).map fun i => bits n (8 * i) 8

/-- The number that a list of byte values spells, little-endian (R5). -/
def ofLeBytes : List Nat → Nat
  | [] => 0
  | b :: bs => b + 256 * ofLeBytes bs

/-- A number read as a signed two's complement value of `w` bits. -/
def toSigned (w n : Nat) : Int := if n % 2 ^ w < 2 ^ (w - 1) then (n % 2 ^ w : Nat) else (n % 2 ^ w : Nat) - (2 ^ w : Nat)

/-- A sparse table: numbered entries in rising order of their number. A number that is not listed has no entry. -/
abbrev Tbl (α : Type) := List (Nat × α)

namespace Tbl

/-- The entry numbered `k`. -/
def find {α : Type} : Tbl α → Nat → Option α
  | [], _ => none
  | (i, a) :: t, k => if i = k then some a else find t k

/-- The entry numbered `k`, or `d` where none is listed. -/
def get {α : Type} (t : Tbl α) (d : α) (k : Nat) : α := (find t k).getD d

/-- Write entry `k`, keeping the order. -/
def set {α : Type} : Tbl α → Nat → α → Tbl α
  | [], k, a => [(k, a)]
  | (i, b) :: t, k, a =>
    if k < i then (k, a) :: (i, b) :: t
    else if k = i then (k, a) :: t
    else (i, b) :: set t k a

/-- Remove entry `k`. -/
def erase {α : Type} (t : Tbl α) (k : Nat) : Tbl α := t.filter fun p => p.1 ≠ k

/-- Is an entry numbered `k` listed? -/
def has {α : Type} (t : Tbl α) (k : Nat) : Bool := (find t k).isSome

/-- The numbers listed. -/
def keys {α : Type} (t : Tbl α) : List Nat := t.map (·.1)

/-- The entries listed. -/
def vals {α : Type} (t : Tbl α) : List α := t.map (·.2)

/-- Apply `f` to every listed entry. -/
def mapV {α : Type} (f : Nat → α → α) (t : Tbl α) : Tbl α := t.map fun p => (p.1, f p.1 p.2)

end Tbl

end Sys2Proof
end

