-- ==== Sys2Proof/Machine/Flags.lean ====
section
/-! DEFINITION. The sticky numeric flags of a context (R65, R79, R116, R200) and how settings combine. -/
namespace Sys2Proof.Machine

/-- The numeric status flags, in the places of NUM_FLAGS (R200). -/
structure NumFlags where
  subnFlushed : Bool := false
  valOvf : Bool := false
  valInv : Bool := false
  accOvf : Bool := false
  accNan : Bool := false
  accInv : Bool := false
  permRange : Bool := false
deriving DecidableEq, Repr

/-- No flag set. -/
def noFlags : NumFlags := {}

/-- Settings combine by logical OR (R65). -/
def orFlags (a b : NumFlags) : NumFlags :=
  { subnFlushed := a.subnFlushed || b.subnFlushed, valOvf := a.valOvf || b.valOvf, valInv := a.valInv || b.valInv,
    accOvf := a.accOvf || b.accOvf, accNan := a.accNan || b.accNan, accInv := a.accInv || b.accInv,
    permRange := a.permRange || b.permRange }

def flSubn : NumFlags := { subnFlushed := true }
def flValOvf : NumFlags := { valOvf := true }
def flValInv : NumFlags := { valInv := true }
def flAccOvf : NumFlags := { accOvf := true }
def flAccNan : NumFlags := { accNan := true }
def flAccInv : NumFlags := { accInv := true }
def flPerm : NumFlags := { permRange := true }

/-- `f` when `b`, else nothing. -/
def flIf (b : Bool) (f : NumFlags) : NumFlags := if b then f else noFlags

/-- The layout of NUM_FLAGS (R200): bit 0 SUBN_FLUSHED up to bit 6 PERM_RANGE. -/
def flagsWord (f : NumFlags) : Nat :=
  b2n f.subnFlushed + 2 * b2n f.valOvf + 4 * b2n f.valInv + 8 * b2n f.accOvf + 16 * b2n f.accNan + 32 * b2n f.accInv
    + 64 * b2n f.permRange

/-- Clear the flags whose bit of a written word is 1 (W1C, R6, R200). -/
def clearFlags (f : NumFlags) (w : Nat) : NumFlags :=
  { subnFlushed := f.subnFlushed && !bitAt w 0, valOvf := f.valOvf && !bitAt w 1, valInv := f.valInv && !bitAt w 2,
    accOvf := f.accOvf && !bitAt w 3, accNan := f.accNan && !bitAt w 4, accInv := f.accInv && !bitAt w 5,
    permRange := f.permRange && !bitAt w 6 }

/-- Dot-product places report a value overflow as ACC_OVF and an invalid operation as ACC_INV (R65, R75, R79). -/
def asAcc (f : NumFlags) : NumFlags :=
  { f with accOvf := f.accOvf || f.valOvf, valOvf := false, accInv := f.accInv || f.valInv, valInv := false }

/-- Collectives report as VAL_OVF and VAL_INV what the dot product reports as ACC_OVF and ACC_INV (R304). -/
def asVal (f : NumFlags) : NumFlags :=
  { f with valOvf := f.valOvf || f.accOvf, accOvf := false, valInv := f.valInv || f.accInv, accInv := false }

end Sys2Proof.Machine
end

