-- ==== Sys2Proof/Machine/Fp.lean ====
section
/-! DEFINITION. Tensor number formats (R48-R66): codes, values, exact arithmetic on them, rounding and conversion. -/
namespace Sys2Proof.Machine

/-- The formats of R48. -/
inductive Fmt where
  | fp32 | bf16 | fp16 | e4m3 | e5m2 | mxE4m3 | mxE5m2 | mxE3m2 | mxE2m3 | mxE2m1 | t64
deriving DecidableEq, Repr

/-- The format a 4-bit code names; 0xA to 0xE are reserved (R48). -/
def fmtOfCode : Nat → Option Fmt
  | 0x0 => some .fp32
  | 0x1 => some .bf16
  | 0x2 => some .fp16
  | 0x3 => some .e4m3
  | 0x4 => some .e5m2
  | 0x5 => some .mxE4m3
  | 0x6 => some .mxE5m2
  | 0x7 => some .mxE3m2
  | 0x8 => some .mxE2m3
  | 0x9 => some .mxE2m1
  | 0xF => some .t64
  | _ => none

def fmtCode : Fmt → Nat
  | .fp32 => 0x0
  | .bf16 => 0x1
  | .fp16 => 0x2
  | .e4m3 => 0x3
  | .e5m2 => 0x4
  | .mxE4m3 => 0x5
  | .mxE5m2 => 0x6
  | .mxE3m2 => 0x7
  | .mxE2m3 => 0x8
  | .mxE2m1 => 0x9
  | .t64 => 0xF

def isMx : Fmt → Bool
  | .mxE4m3 | .mxE5m2 | .mxE3m2 | .mxE2m3 | .mxE2m1 => true
  | _ => false

/-- Exponent field width (R49). -/
def expBits : Fmt → Nat
  | .fp32 => 8
  | .bf16 => 8
  | .fp16 => 5
  | .e4m3 | .mxE4m3 => 4
  | .e5m2 | .mxE5m2 => 5
  | .mxE3m2 => 3
  | .mxE2m3 => 2
  | .mxE2m1 => 2
  | .t64 => 11

/-- Mantissa field width (R49). -/
def manBits : Fmt → Nat
  | .fp32 => 23
  | .bf16 => 7
  | .fp16 => 10
  | .e4m3 | .mxE4m3 => 3
  | .e5m2 | .mxE5m2 => 2
  | .mxE3m2 => 2
  | .mxE2m3 => 3
  | .mxE2m1 => 1
  | .t64 => 52

/-- Exponent bias (R49). -/
def fmtBias : Fmt → Nat
  | .fp32 => 127
  | .bf16 => 127
  | .fp16 => 15
  | .e4m3 | .mxE4m3 => 7
  | .e5m2 | .mxE5m2 => 15
  | .mxE3m2 => 3
  | .mxE2m3 => 1
  | .mxE2m1 => 1
  | .t64 => 1023

/-- Element width in bits (R48). -/
def fmtWidth (f : Fmt) : Nat := 1 + expBits f + manBits f

/-- Formats with an infinity (R50, R51). -/
def hasInf : Fmt → Bool
  | .fp32 | .bf16 | .fp16 | .e5m2 | .mxE5m2 | .t64 => true
  | _ => false

/-- The code of the largest finite value, sign bit 0 (R50, R51). -/
def maxFiniteCode : Fmt → Nat
  | .fp32 => 0x7F7FFFFF
  | .bf16 => 0x7F7F
  | .fp16 => 0x7BFF
  | .e4m3 | .mxE4m3 => 0x7E
  | .e5m2 | .mxE5m2 => 0x7B
  | .mxE3m2 => 0x1F
  | .mxE2m3 => 0x1F
  | .mxE2m1 => 0x7
  | .t64 => 0x7FEFFFFFFFFFFFFF

/-- The canonical quiet NaN (R50, R57). The MX element formats without a NaN never ask for it. -/
def canonicalNan : Fmt → Nat
  | .fp32 => 0x7FC00000
  | .bf16 => 0x7FC0
  | .fp16 => 0x7E00
  | .e4m3 | .mxE4m3 => 0x7F
  | .e5m2 | .mxE5m2 => 0x7E
  | .t64 => 0x7FF8000000000000
  | .mxE3m2 | .mxE2m3 | .mxE2m1 => 0

/-- The sign bit in its place. -/
def signBit (f : Fmt) (neg : Bool) : Nat := if neg then 2 ^ (fmtWidth f - 1) else 0

/-- The code of an infinity (R50). -/
def infCode (f : Fmt) (neg : Bool) : Nat := signBit f neg + (2 ^ expBits f - 1) * 2 ^ manBits f

/-- What a code stands for: a NaN (signalling or quiet), an infinity, or the exact number (-1)^neg * m * 2^e. -/
inductive Val where
  | nan (signalling : Bool)
  | inf (neg : Bool)
  | fin (neg : Bool) (m : Nat) (e : Int)
deriving DecidableEq, Repr

/-- The value of a code (R49-R51, R58). Every NaN code of an MX element is quiet, and E4M3 has quiet NaNs only. -/
def decodeFp (f : Fmt) (c : Nat) : Val :=
  let mb := manBits f
  let m := c % 2 ^ mb
  let e := bits c mb (expBits f)
  let neg := bitAt c (fmtWidth f - 1)
  let top := 2 ^ expBits f - 1
  if (f = .e4m3 ∨ f = .mxE4m3) ∧ e = top ∧ m = 7 then .nan false
  else if hasInf f ∧ e = top then
    if m = 0 then .inf neg else .nan (f ≠ .mxE5m2 && !bitAt m (mb - 1))
  else if e = 0 then .fin neg m (1 - (fmtBias f : Int) - mb)
  else .fin neg (2 ^ mb + m) ((e : Int) - fmtBias f - mb)

/-- Is the code subnormal in its own format (non-zero, exponent field 0)? -/
def isSubnormalCode (f : Fmt) (c : Nat) : Bool :=
  decide (bits c (manBits f) (expBits f) = 0 ∧ c % 2 ^ manBits f ≠ 0)

/-- SUBN applies to FP32, BF16, FP16, E4M3 and E5M2 only (R60). -/
def subnApplies : Fmt → Bool
  | .fp32 | .bf16 | .fp16 | .e4m3 | .e5m2 => true
  | _ => false

/-- Read an operand under SUBN: a subnormal of its own format reads as zero of its sign and sets SUBN_FLUSHED (R60). -/
def readFp (f : Fmt) (subn : Bool) (c : Nat) : Val × NumFlags :=
  if subn && subnApplies f && isSubnormalCode f c then (.fin (bitAt c (fmtWidth f - 1)) 0 0, flSubn)
  else (decodeFp f c, noFlags)

def isNanV : Val → Bool
  | .nan _ => true
  | _ => false

def isSnanV : Val → Bool
  | .nan s => s
  | _ => false

def isInfV : Val → Bool
  | .inf _ => true
  | _ => false

def isZeroV : Val → Bool
  | .fin _ 0 _ => true
  | _ => false

def negOf : Val → Bool
  | .nan _ => false
  | .inf n => n
  | .fin n _ _ => n

/-- Change of sign; a NaN stays as it is. -/
def negV (b : Bool) : Val → Val
  | .nan s => .nan s
  | .inf n => .inf (n != b)
  | .fin n m e => .fin (n != b) m e

/-- m * 2^e compared with n * 2^d, by magnitude. -/
def magLt (m : Nat) (e : Int) (n : Nat) (d : Int) : Bool :=
  let lo := min e d
  decide (m * 2 ^ (e - lo).toNat < n * 2 ^ (d - lo).toNat)

/-- Divide by 2^k, rounding to nearest, ties to even. -/
def shiftRne (m k : Nat) : Nat :=
  let q := m >>> k
  let r := m % 2 ^ k
  if k = 0 then m
  else if 2 * r > 2 ^ k then q + 1
  else if 2 * r = 2 ^ k then q + q % 2
  else q

/-- Round to `p` significant bits, ties to even, with unbounded exponent range (R62). -/
def roundSig (p m : Nat) (e : Int) : Nat × Int :=
  let len := Nat.log2 m + 1
  if m = 0 ∨ len ≤ p then (m, e) else (shiftRne m (len - p), e + (len - p : Nat))

/-- Round to a multiple of 2^lo, ties to even. -/
def roundGrid (lo : Int) (m : Nat) (e : Int) : Nat × Int :=
  if lo ≤ e then (m, e) else (shiftRne m (lo - e).toNat, lo)

/-- Exponent of the smallest normal value. -/
def minNormalExp (f : Fmt) : Int := 1 - (fmtBias f : Int)

/-- Exponent of the smallest subnormal value. -/
def minSubExp (f : Fmt) : Int := 1 - (fmtBias f : Int) - manBits f

/-- The code of a value that the format holds exactly. -/
def encodeFp (f : Fmt) (neg : Bool) (m : Nat) (e : Int) : Nat :=
  let mb := manBits f
  if m = 0 then signBit f neg
  else
    let top : Int := (Nat.log2 m : Int) + e
    if top < minNormalExp f then signBit f neg + (m * 2 ^ (e - minSubExp f).toNat) / 2 ^ (minSubExp f - e).toNat
    else
      let scaled := (m * 2 ^ mb) / 2 ^ Nat.log2 m
      signBit f neg + (top + fmtBias f).toNat * 2 ^ mb + (scaled - 2 ^ mb)

/-- The result of an overflow (R63). -/
def overflowResult (f : Fmt) (neg ovfm : Bool) : Nat :=
  if !ovfm then signBit f neg + maxFiniteCode f
  else if hasInf f then infCode f neg else canonicalNan f

/-- Does a magnitude exceed the largest finite value of the format? -/
def overMax (f : Fmt) (m : Nat) (e : Int) : Bool :=
  match decodeFp f (maxFiniteCode f) with
  | .fin _ mm me => magLt mm me m e
  | _ => false

/-- Round an exact non-zero number into a format: overflow by OVFM, tininess after rounding flushed under SUBN, otherwise one
rounding of the exact value onto the subnormal grid (R60, R62, R63). -/
def roundInto (f : Fmt) (subn ovfm neg : Bool) (m : Nat) (e : Int) : Nat × NumFlags :=
  if m = 0 then (signBit f neg, noFlags)
  else
    let r := roundSig (manBits f + 1) m e
    if overMax f r.1 r.2 then (overflowResult f neg ovfm, flValOvf)
    else if magLt r.1 r.2 1 (minNormalExp f) then
      if subn && subnApplies f then (signBit f neg, flSubn)
      else
        let g := roundGrid (minSubExp f) m e
        (encodeFp f neg g.1 g.2, noFlags)
    else (encodeFp f neg r.1 r.2, noFlags)

/-- convert of R63 for a value already read: NaN, infinity, zero, else rounding. -/
def convertVal (f : Fmt) (subn ovfm : Bool) : Val → Nat × NumFlags
  | .nan s => (canonicalNan f, flIf s flValInv)
  | .inf n => if hasInf f then (infCode f n, noFlags) else (overflowResult f n ovfm, flValOvf)
  | .fin n m e => roundInto f subn ovfm n m e

/-- convert of R63, from a source code: the input flush, then the conversion. -/
def convertCode (src dst : Fmt) (subn ovfm : Bool) (c : Nat) : Nat × NumFlags :=
  let x := readFp src subn c
  let r := convertVal dst subn ovfm x.1
  (r.1, orFlags x.2 r.2)

/-- Result of an exact vector or dot-product operation: a NaN that may be an invalid operation, or a value. -/
structure Op where
  val : Val
  invalid : Bool
deriving DecidableEq, Repr

/-- Exact sum (R55): signed zeros as IEEE 754, opposite infinities invalid, a signalling NaN invalid. -/
def addV (a b : Val) : Op :=
  match a, b with
  | .nan s, .nan t => ⟨.nan false, s || t⟩
  | .nan s, _ => ⟨.nan false, s⟩
  | _, .nan t => ⟨.nan false, t⟩
  | .inf n, .inf k => if n = k then ⟨.inf n, false⟩ else ⟨.nan false, true⟩
  | .inf n, .fin _ _ _ => ⟨.inf n, false⟩
  | .fin _ _ _, .inf k => ⟨.inf k, false⟩
  | .fin n m e, .fin k l d =>
    let lo := min e d
    let x : Int := (if n then -1 else 1) * (m * 2 ^ (e - lo).toNat : Nat) + (if k then -1 else 1) * (l * 2 ^ (d - lo).toNat : Nat)
    if x = 0 then ⟨.fin (if m = 0 ∧ l = 0 then n && k else false) 0 0, false⟩
    else ⟨.fin (decide (x < 0)) x.natAbs lo, false⟩

/-- Exact product (R55): infinity times zero invalid. -/
def mulV (a b : Val) : Op :=
  match a, b with
  | .nan s, .nan t => ⟨.nan false, s || t⟩
  | .nan s, _ => ⟨.nan false, s⟩
  | _, .nan t => ⟨.nan false, t⟩
  | .inf n, .inf k => ⟨.inf (n != k), false⟩
  | .inf n, .fin k l _ => if l = 0 then ⟨.nan false, true⟩ else ⟨.inf (n != k), false⟩
  | .fin n m _, .inf k => if m = 0 then ⟨.nan false, true⟩ else ⟨.inf (n != k), false⟩
  | .fin n m e, .fin k l d => ⟨.fin (n != k) (m * l) (e + d), false⟩

/-- Is a < b, in the order with -0 < +0 (R56)? Neither is a NaN. -/
def ltTotal (a b : Val) : Bool :=
  match a, b with
  | .nan _, _ => false
  | _, .nan _ => false
  | .inf n, .inf k => n && !k
  | .inf n, .fin _ _ _ => n
  | .fin _ _ _, .inf k => !k
  | .fin n m e, .fin k l d =>
    if n && !k then true
    else if !n && k then false
    else if n then magLt l d m e
    else magLt m e l d

/-- Numerical equality, with -0 = +0 (R56); false with a NaN. -/
def eqV (a b : Val) : Bool :=
  match a, b with
  | .inf n, .inf k => n = k
  | .fin n m e, .fin k l d => (m = 0 && l = 0) || (n = k && !magLt m e l d && !magLt l d m e)
  | _, _ => false

/-- Numerical less-than, with -0 = +0 (R56); false with a NaN. -/
def ltV (a b : Val) : Bool := !eqV a b && ltTotal a b

/-- The exponent emax of an MX element (R64). -/
def mxEmax : Fmt → Int
  | .mxE4m3 => 8
  | .mxE5m2 => 15
  | .mxE3m2 => 4
  | _ => 2

/-- RNE into an MX element with saturation; subnormals are kept and no flag is set (R64). -/
def mxElement (f : Fmt) (neg : Bool) (m : Nat) (e : Int) : Nat := (roundInto f false false neg m e).1

/-- The larger magnitude of two numbers. -/
def magMax (a b : Nat × Int) : Nat × Int := if magLt a.1 a.2 b.1 b.2 then b else a

/-- convert_to_mx of R64: the scale byte, the element codes and the flags. -/
def convertToMx (src elem : Fmt) (subn : Bool) (codes : List Nat) : Nat × List Nat × NumFlags :=
  let vs := codes.map (decodeFp src)
  if vs.any fun v => isNanV v || isInfV v then
    (0xFF, codes.map (fun _ => 0), orFlags (flIf (vs.any isSnanV) flValInv) (flIf (vs.any isInfV) flValOvf))
  else
    let rs := codes.map (readFp src subn)
    let fl := rs.foldl (fun a r => orFlags a r.2) noFlags
    let amax := rs.foldl (fun a r => match r.1 with | .fin _ m e => magMax a (m, e) | _ => a) (0, 0)
    if amax.1 = 0 then (0, rs.map (fun r => signBit elem (negOf r.1)), fl)
    else
      let lg : Int := (Nat.log2 amax.1 : Int) + amax.2
      let c : Int := max 0 (min 254 (lg - mxEmax elem + 127))
      (c.toNat, rs.map (fun r => match r.1 with
        | .fin n m e => mxElement elem n m (e + (127 - c))
        | _ => 0), fl)

/-- The exact value of an MX element under its scale (R53, R64): scale 0xFF is NaN, quiet. -/
def mxValue (f : Fmt) (scale code : Nat) : Val :=
  if scale = 0xFF then .nan false
  else match decodeFp f code with
    | .fin n m e => .fin n m (e + ((scale : Int) - 127))
    | v => v

/-- Bytes of one element of the scalar formats; MX elements are counted in bits (R48, R54). -/
def elemBytes (f : Fmt) : Nat := fmtWidth f / 8

/-- Is an element code a zero of its format (R193)? -/
def isZeroCode (f : Fmt) (c : Nat) : Bool := decide (c % 2 ^ (fmtWidth f - 1) = 0)

/-- An encoding as a signed integer ordered like its value, both zeros 0 (R102). -/
def ordCode (f : Fmt) (c : Nat) : Int :=
  let m : Nat := c % 2 ^ (fmtWidth f - 1)
  if bitAt c (fmtWidth f - 1) then -(m : Int) else m

end Sys2Proof.Machine
end

