-- ==== Sys2Proof/Machine/Dot.lean ====
section
/-! DEFINITION. The dot product, bit for bit (R67-R80, R85, R86): products, runs, totals, precision passes, MEANVAR and the
conversion at CLOSE. -/
namespace Sys2Proof.Machine

/-- A binary32 result of R69 or R71: the code and the flags it sets, in dot-product places (ACC_OVF, ACC_INV). -/
def toB32 (subn : Bool) (o : Op) : Nat × NumFlags :=
  let r := convertVal .fp32 subn true o.val
  (r.1, orFlags (flIf o.invalid flAccInv) (asAcc r.2))

/-- One product of R69 from two values already read: exact, then placed in binary32. -/
def productVal (subn : Bool) (a b : Val) : Nat × NumFlags := toB32 subn (mulV a b)

/-- The sum of R71 and R74: a NaN operand gives NaN and raises no flag, a signalling one (a loaded tile's) included. -/
def addQuiet (a b : Val) : Op := if isNanV a || isNanV b then ⟨.nan false, false⟩ else addV a b

/-- Run addition of R71 on two binary32 codes. -/
def add32 (subn : Bool) (x y : Nat) : Nat × NumFlags := toB32 subn (addQuiet (decodeFp .fp32 x) (decodeFp .fp32 y))

/-- T64 addition of R74: RNE, overflow to infinity with ACC_OVF, never flushed. -/
def add64 (x y : Nat) : Nat × NumFlags :=
  let o := addQuiet (decodeFp .t64 x) (decodeFp .t64 y)
  let r := convertVal .t64 false true o.val
  (r.1, orFlags (flIf o.invalid flAccInv) (asAcc r.2))

/-- A run sum scaled by 2^f, exactly, in T64 (R73). -/
def promote (run : Nat) (f : Int) : Nat :=
  match decodeFp .fp32 run with
  | .fin n m e => (convertVal .t64 false true (.fin n m (e + f))).1
  | v => (convertVal .t64 false true v).1

/-- Rounding toward zero to 8 significant bits and to the grid 2^-133 (R76). -/
def truncBf16 (m : Nat) (e : Int) : Nat × Int :=
  let cut := max (e + (Nat.log2 m + 1 : Nat) - 8) (-133)
  if m = 0 ∨ cut ≤ e then (m, e) else (m >>> (cut - e).toNat, cut)

/-- Exact difference of two magnitudes, the first at least the second. -/
def magSub (a b : Nat × Int) : Nat × Int :=
  let lo := min a.2 b.2
  (a.1 * 2 ^ (a.2 - lo).toNat - b.1 * 2 ^ (b.2 - lo).toNat, lo)

/-- The three BF16 parts of an FP32 value (R76); a part is absent for infinities and NaN. -/
def splitVal (v : Val) : Val × Option Val × Option Val :=
  match v with
  | .fin n m e =>
    let hi := truncBf16 m e
    let ra := magSub (m, e) hi
    let mid := truncBf16 ra.1 ra.2
    let rb := magSub ra mid
    let lo := truncBf16 rb.1 rb.2
    (.fin n hi.1 hi.2, some (.fin n mid.1 mid.2), some (.fin n lo.1 lo.2))
  | v => (v, none, none)

/-- The operands of the term at position `q` of pass `p` (R77): which k, which part of A and which part of B. -/
def passPosition (p q : Nat) : Nat × Nat × Nat :=
  match p with
  | 1 => (q, 0, 0)
  | 2 => (q / 2, if q % 2 = 0 then (0, 1) else (1, 0))
  | _ => (q / 3, if q % 3 = 0 then (0, 2) else if q % 3 = 1 then (1, 1) else (2, 0))

/-- Part number `i` (0 hi, 1 mid, 2 lo) of an FP32 value. -/
def partOf (v : Val) (i : Nat) : Option Val :=
  let s := splitVal v
  if i = 0 then some s.1 else if i = 1 then s.2.1 else s.2.2

/-- What one MMA element needs (R78): operand codes by k, block scales by block, presence by k. -/
structure Terms where
  fmt : Fmt
  passes : Nat
  bigK : Nat
  subn : Bool
  a : Nat → Nat
  b : Nat → Nat
  sa : Nat → Nat
  sb : Nat → Nat
  present : Nat → Bool

/-- Passes 2 and 3 add nothing at a k where either operand is an infinity or NaN: its middle and low parts are absent (R76, R77). -/
def passFinite (p : Nat) (x y : Val) : Bool := p ≤ 1 || ((splitVal x).2.1.isSome && (splitVal y).2.1.isSome)

/-- The term at position `q` of pass `p`: its binary32 product, or absent (R68, R69, R76, R77). -/
def termAt (t : Terms) (p q : Nat) : Option (Nat × NumFlags) :=
  let pos := passPosition p q
  if !t.present pos.1 then none
  else
    let x := readFp t.fmt t.subn (t.a pos.1)
    let y := readFp t.fmt t.subn (t.b pos.1)
    let fl := orFlags x.2 y.2
    if t.fmt = .fp32 then
      if !passFinite p x.1 y.1 then none
      else match partOf x.1 pos.2.1, partOf y.1 pos.2.2 with
      | some u, some v => let r := productVal t.subn u v; some (r.1, orFlags fl r.2)
      | _, _ => none
    else let r := productVal t.subn x.1 y.1; some (r.1, orFlags fl r.2)

/-- Step 2 (R70): the sum of one run, none where it has no present term. -/
def runSum (t : Terms) (p r n : Nat) : Option (Nat × NumFlags) :=
  (List.range (min 32 (n - 32 * r))).foldl
    (fun acc i => match termAt t p (32 * r + i) with
      | none => acc
      | some x => match acc with
        | none => some x
        | some s => let y := add32 t.subn s.1 x.1; some (y.1, orFlags (orFlags s.2 x.2) y.2)) none

/-- Does run `r` of pass `p` hold a present term? (Used where a NaN scale forms no product, R73.) -/
def runPresent (t : Terms) (p r n : Nat) : Bool :=
  (List.range (min 32 (n - 32 * r))).any fun i => (t.present (passPosition p (32 * r + i)).1)

/-- One run of R78 with its scale exponent: the promoted T64 value. -/
def runValue (t : Terms) (p r n : Nat) : Option (Nat × NumFlags) :=
  if isMx t.fmt && (t.sa r = 0xFF || t.sb r = 0xFF) then
    if runPresent t p r n then some (canonicalNan .t64, noFlags) else none
  else
    match runSum t p r n with
    | none => none
    | some s => some (promote s.1 (if isMx t.fmt then (t.sa r : Int) + t.sb r - 254 else 0), s.2)

/-- A total: EMPTY or a T64 code (R74). -/
abbrev Total := Option Nat

/-- Add a promoted value to a total (R74). -/
def addTotal (tot : Total) (v : Nat) : Total × NumFlags :=
  match tot with
  | none => (some v, noFlags)
  | some x => let r := add64 x v; (some r.1, r.2)

/-- Positions of pass `p` (R77). -/
def passLength (p bigK : Nat) : Nat := p * bigK

/-- All runs of one pass entering the total in ascending order (R74, R77). -/
def passInto (t : Terms) (p : Nat) (tot : Total) : Total × NumFlags :=
  let n := passLength p t.bigK
  (List.range ((n + 31) / 32)).foldl
    (fun acc r => match runValue t p r n with
      | none => acc
      | some v => let s := addTotal acc.1 v.1; (s.1, orFlags acc.2 (orFlags v.2 s.2))) (tot, noFlags)

/-- The contribution of one MMA to one element: mma_element of R78. -/
def mmaElement (t : Terms) (tot : Total) : Total × NumFlags :=
  (List.range t.passes).foldl (fun acc p => let r := passInto t (p + 1) acc.1; (r.1, orFlags acc.2 r.2)) (tot, noFlags)

/-- Conversion of a total at CLOSE (R75, R86): an EMPTY total is +0. -/
def closeConvert (dst : Fmt) (subn ovfm : Bool) (tot : Total) : Nat × NumFlags :=
  match tot with
  | none => (0, noFlags)
  | some c =>
    match decodeFp .t64 c with
    | .nan _ => (canonicalNan dst, flAccNan)
    | v => if dst = .t64 then (c, noFlags) else let r := convertVal dst subn ovfm v; (r.1, asAcc r.2)

/-- A MEANVAR element: count, mean and M2, all T64 (R81, R85). -/
structure MeanVar where
  count : Nat := 0
  mean : Nat := 0
  m2 : Nat := 0
deriving DecidableEq, Repr

/-- One T64 operation rounded by RNE; an invalid operation gives NaN and ACC_INV (R85). -/
def t64Op (o : Op) : Nat × NumFlags := ((convertVal .t64 false true o.val).1, flIf o.invalid flAccInv)

def neg64 (c : Nat) : Nat := (c + 2 ^ 63) % 2 ^ 64

/-- Exact quotient of T64 values for RNE, with the remainder kept as a sticky bit. The divisor is not zero here (a count of
at least 1); 0/0 and infinity/infinity are invalid. -/
def divV (a b : Val) : Op :=
  match a, b with
  | .nan s, .nan t => ⟨.nan false, s || t⟩
  | .nan s, _ => ⟨.nan false, s⟩
  | _, .nan t => ⟨.nan false, t⟩
  | .inf _, .inf _ => ⟨.nan false, true⟩
  | .inf n, .fin k _ _ => ⟨.inf (n != k), false⟩
  | .fin n _ _, .inf k => ⟨.fin (n != k) 0 0, false⟩
  | .fin n m e, .fin k l d =>
    if l = 0 then (if m = 0 then ⟨.nan false, true⟩ else ⟨.inf (n != k), false⟩)
    else if m = 0 then ⟨.fin (n != k) 0 0, false⟩
    else
      let sh := 64 + Nat.log2 l
      let q := (m * 2 ^ sh) / l
      let r := (m * 2 ^ sh) % l
      ⟨.fin (n != k) (2 * q + (if r = 0 then 0 else 1)) (e - d - (sh : Int) - 1), false⟩

def t64Add (x y : Nat) : Nat × NumFlags := t64Op (addV (decodeFp .t64 x) (decodeFp .t64 y))
def t64Sub (x y : Nat) : Nat × NumFlags := t64Add x (neg64 y)
def t64Mul (x y : Nat) : Nat × NumFlags := t64Op (mulV (decodeFp .t64 x) (decodeFp .t64 y))
def t64Div (x y : Nat) : Nat × NumFlags := t64Op (divV (decodeFp .t64 x) (decodeFp .t64 y))

/-- The exact integer `n` in T64. -/
def t64OfNat (n : Nat) : Nat := encodeFp .t64 false n 0

/-- meanvar_update of R85 with one element already converted to T64. A NaN from an opposite-infinity difference sets ACC_INV
once; NaN that propagates sets nothing. -/
def meanVarUpdate (s : MeanVar) (x : Nat) : MeanVar × NumFlags :=
  let cnt := s.count + 1
  let d := t64Sub x s.mean
  let q := t64Div d.1 (t64OfNat cnt)
  let mean := t64Add s.mean q.1
  let d2 := t64Sub x mean.1
  let p := t64Mul d.1 d2.1
  let m2 := t64Add s.m2 p.1
  ({ count := cnt, mean := mean.1, m2 := m2.1 },
    orFlags d.2 (orFlags q.2 (orFlags mean.2 (orFlags d2.2 (orFlags p.2 m2.2)))))

/-- One MEANVAR term (R85): the input flush, the exact conversion to T64, the update. A signalling NaN sets ACC_INV. -/
def meanVarTerm (f : Fmt) (subn : Bool) (c : Nat) (s : MeanVar) : MeanVar × NumFlags :=
  let x := readFp f subn c
  let v := convertVal .t64 false true x.1
  let r := meanVarUpdate s v.1
  (r.1, orFlags x.2 (orFlags (asAcc v.2) r.2))

/-- MEANVAR at CLOSE (R85, R86): mean and population variance; both canonical NaN, without a flag, for an empty element. -/
def meanVarClose (dst : Fmt) (subn ovfm : Bool) (s : MeanVar) : Nat × Nat × NumFlags :=
  if s.count = 0 then (canonicalNan dst, canonicalNan dst, noFlags)
  else
    let var := t64Div s.m2 (t64OfNat s.count)
    let a := closeConvert dst subn ovfm (some s.mean)
    let b := closeConvert dst subn ovfm (some var.1)
    (a.1, b.1, orFlags var.2 (orFlags a.2 b.2))

end Sys2Proof.Machine
end

