-- ==== Sys2Proof/Types.lean ====
section
/-! DEFINITION. The small named sets and records that commands and state share. -/
namespace Sys2Proof

/-- A pan, by bits [23:0] of its address (R9): DIE_SLOT, UNIT_KIND, UNIT_INDEX and H7D; the module position is the module's own. -/
abbrev Pan := Nat

/-- The STATE codes of a pan's status word (R17). -/
inductive PState where
  | off | reset | init | ready | busy | calib | spare | fault | retired
  deriving DecidableEq, Repr

/-- The code of a pan state (R17). -/
def PState.code : PState → Nat
  | .off => 0 | .reset => 1 | .init => 2 | .ready => 3 | .busy => 4 | .calib => 5 | .spare => 6 | .fault => 7 | .retired => 8

/-- The sources of the tide (R28); `none` where no source is selected. -/
inductive TideSrc where
  | none | ptp | tideIn | beacon
  deriving DecidableEq, Repr

/-- The states of the tide unit (R34). -/
inductive TideState where
  | acquire | locked | holdover | lost
  deriving DecidableEq, Repr

/-- The states of a context (R235). -/
inductive CtxState where
  | absent | creating | active | teardown | quarantine | restoring
  deriving DecidableEq, Repr

/-- The code of a context state (R235). -/
def CtxState.code : CtxState → Nat
  | .absent => 0 | .creating => 1 | .active => 2 | .teardown => 3 | .quarantine => 4 | .restoring => 5

/-- Why a context is torn down (R235, R250). -/
inductive TdReason where
  | fault | removed | replaced
  deriving DecidableEq, Repr

/-- The phases of a context (R214). -/
inductive Phase where
  | none | generate | learn
  deriving DecidableEq, Repr

/-- What the MACsec check finds of a frame that comes in: it passes, it is unprotected or on an unknown secure channel, or its ICV fails (R286). -/
inductive MacsecIn where
  | valid | unprotected | forged
  deriving DecidableEq, Repr

/-- A Neighbor Discovery message that comes in (R288; RFC 4861): a solicitation with its target, its source address (0: unspecified) and the source's link-layer address;
an advertisement with its target, the target's link-layer address, and its Solicited and Override flags. -/
inductive NdMsg where
  | solicit (target src : Nat) (mac : Option Nat)
  | advert (target : Nat) (mac : Option Nat) (solicited override_ : Bool)
  deriving DecidableEq, Repr

end Sys2Proof
end

