-- ==== Sys2Proof/Machine/EngineState.lean ====
section
/-! DEFINITION. The state of matrix engines, vector engines and raker cores (04 to 07). -/
namespace Sys2Proof.Machine

/-- The program that issued a piece of work: its phase and the weight buffer it is bound to (R215, R219). -/
structure Issuer where
  core : Nat := 0
  phase : Phase := .none
  bound : Nat := 0
  deriving DecidableEq, Repr

/-- A tile command record (R89), its fields as numbers. -/
structure TileRec where
  op : Nat := 0
  handle : Nat := 0
  fmt : Nat := 0
  passes : Nat := 0
  subn : Bool := false
  ovfm : Bool := false
  mode : Nat := 0
  cls : Nat := 0
  die : Nat := 0
  me : Nat := 0
  ag : Nat := 0
  k : Nat := 0
  a0 : Nat := 0
  a1 : Nat := 0
  pitch0 : Nat := 0
  pitch1 : Nat := 0
  sa : Nat := 0
  sb : Nat := 0
  saPitch : Nat := 0
  sbPitch : Nat := 0
  kmask : Nat := 0
  rowMask : Nat := 0
  colMask : Nat := 0
  shA : Nat := 0
  shB : Nat := 0
  shFmt : Nat := 0
  shAPitch : Nat := 0
  shBPitch : Nat := 0
  deriving DecidableEq, Repr

/-- An accepted, incomplete tile command (R88, R95). -/
structure TileCmd where
  seq : Nat
  ctx : Nat
  who : Issuer := {}
  r : TileRec
  /-- The group it acts on, once placed. -/
  ag : Nat := 0
  running : Bool := false
  /-- The drain lane of a CLOSE (R95). -/
  lane : Nat := 0
  /-- Accepted in a LEARN phase (R193). -/
  inLearn : Bool := false
  /-- The granules it is bound to while it runs (R169). -/
  grans : List Nat := []
  /-- The operand bytes as they stood when an MMA entered the array, by context address (R99). -/
  old : List Host.Cell := []
  deriving DecidableEq, Repr

/-- The states of an accumulation group (R81). -/
inductive AgState where
  | closed | open_ | draining
  deriving DecidableEq, Repr

/-- An accumulation group (R81, R82): owner and handle from its INIT's binding until it is CLOSED. -/
structure Ag where
  st : AgState := .closed
  /-- The context and handle that bound it, or none. -/
  owner : Option (Nat × Nat) := none
  mode : Nat := 0
  /-- T64 totals by element 64 i + j; an element not listed is EMPTY. -/
  tot : Tbl Nat := []
  mv : Tbl MeanVar := []
  /-- A flush occurred in an MMA into the group (R193). -/
  flushed : Bool := false
  deriving DecidableEq, Repr

/-- A sample in the gauge buffer (R100, R101): the command, K', and the operand bytes copied, by context address. -/
structure Sample where
  cmd : TileCmd
  kp : Nat
  mem : List Host.Cell
  deriving DecidableEq, Repr

/-- Gauge statistics of one class (R196, R201). -/
structure GaugeStat where
  samples : Nat := 0
  mismatch : Nat := 0
  skip : Nat := 0
  defer : Nat := 0
  maxdist : Nat := 0
  deriving DecidableEq, Repr

/-- A matrix engine. -/
structure Me where
  /-- Accepted, incomplete commands in the order accepted, at most 32 (R95). -/
  q : List TileCmd := []
  ag : Tbl Ag := []
  gaugeCnt : Nat := 0
  /-- The count has reached 2^n and the next MMA into a SUM group is to be sampled (R100). -/
  gaugeDue : Bool := false
  /-- The sample due has been put off and counted in DEFER (R100). -/
  gaugeLate : Bool := false
  sample : Option Sample := none
  stat : Tbl GaugeStat := []
  deriving DecidableEq, Repr

/-- A handle of a context (R90): the engine and group it is bound to, its mode, and commands held for it. -/
structure Handle where
  bound : Option (Nat × Nat) := none
  mode : Nat := 0
  /-- A CLOSE of the bound group has been accepted. -/
  closing : Bool := false
  held : List TileCmd := []
  deriving DecidableEq, Repr

/-- A launched stream (R107, R133). -/
structure Stream where
  ctx : Nat
  seq : Nat
  who : Issuer := {}
  addr : Nat
  /-- Byte offset of the next instruction. -/
  off : Nat := 0
  n : Nat := 0
  db : Nat := 0
  a : List Nat := []
  /-- END has issued. -/
  ended : Bool := false
  deriving DecidableEq, Repr

/-- A vector engine (R104). Registers not listed are zero. -/
structure Ve where
  v : Tbl Nat := []
  m : Tbl Nat := []
  vl : Nat := 0
  a : Tbl Nat := []
  n : Nat := 0
  db : Nat := 0
  run : Option Stream := none
  /-- The waiting stream that its arbiter has granted (R107, R238). -/
  next : Option Stream := none
  q : List Stream := []
  deriving DecidableEq, Repr

/-- What a waiting raker core waits for (R132, R135, R299). -/
inductive RkWait where
  | cmd (seq rd : Nat)
  | fence
  | exit (code : Nat)
  | tide (num phase : Nat)
  | skeyr (id : Nat)
  | coll (id : Nat)
  deriving DecidableEq, Repr

/-- A running program (R129). -/
structure Prog where
  ctx : Nat
  idx : Nat
  phase : Phase
  step : Nat
  bound : Nat
  deriving DecidableEq, Repr

/-- A raker core: registers, local memory by offset from 0xFFFF_FFFF_FFFC_0000, reservation, and the program bound (R126 to R136). -/
structure Rk where
  prog : Option Prog := none
  /-- The address of the instruction the core last began. -/
  pc : Nat := 0
  /-- The address of the instruction that follows it. -/
  npc : Nat := 0
  x : Tbl Nat := []
  f : Tbl Nat := []
  fcsr : Nat := 0
  cycle : Nat := 0
  instret : Nat := 0
  /-- The digest of the machine-mode firmware that the core took at its program's start, 0 while it runs none (R354). -/
  fw : Nat := 0
  loc : List Host.Cell := []
  resv : Option (Nat × Nat) := none
  wait : Option RkWait := none
  /-- Sequence numbers this core issued that are not complete. -/
  issued : List Nat := []
  deriving DecidableEq, Repr

/-- Who made a write that not every reader sees yet (R98, R107, R128). -/
inductive Writer where
  | rk (core : Nat)
  | ve (n : Nat)
  | close (me lane : Nat)
  deriving DecidableEq, Repr

/-- Such a write: its bytes by context address, the bytes that are placed whole together, and the addresses at which another engine's write, placed
meanwhile, is to outlast it (R99, R125). -/
structure Pend where
  who : Writer
  ctx : Nat
  bytes : List (Nat × BitVec 8)
  unit : Nat := 64
  lost : List Nat := []
  deriving DecidableEq, Repr

end Sys2Proof.Machine
end

