-- ==== Sys2Proof/Machine/EventState.lean ====
section
/-! DEFINITION. Event records, the queues that hold them, and the arbiters of shared resources (13, R237 to R243). -/
namespace Sys2Proof.Machine

/-- An event record (R241). MERGED is MERGE_COUNT not 0; DETAIL is the 32 bytes from 0x20 as one little-endian number. -/
structure EventRec where
  code : Nat
  sev : Nat
  test : Bool := false
  gap : Bool := false
  /-- Bits [7:3] of the flags byte, as a record that came as an EVENT message carries them. -/
  rsv : Nat := 0
  ctx : Nat
  mergeCount : Nat := 0
  pan : Nat
  seq : Nat := 0
  tide : Nat
  phase : Nat
  step : Nat := 0
  detail : Nat := 0
  /-- Already sent on the management bus (R243, R364). -/
  mir : Bool := false
  deriving DecidableEq, Repr

/-- A token bucket with its held queue (R243); `none` where it has not been filled yet: it starts full. -/
structure Bucket where
  tokens : Option Nat := none
  held : List EventRec := []
  gap : Bool := false
  deriving DecidableEq, Repr

/-- What a request asks of its arbiter (R238). -/
inductive ReqWhat where
  /-- A transfer of the requester's data; serving it has no effect of its own. -/
  | transfer
  /-- A released event record on the event path. -/
  | event (r : EventRec)
  /-- A migration slot for a granule move or stage, by the waiting request's number. -/
  | slot (n : Nat)
  /-- A waiting INIT of a context, by command sequence number. -/
  | initCmd (ctx seq : Nat)
  /-- A waiting stream of a context, by launch sequence number. -/
  | stream (ctx seq : Nat)
  /-- A waiting collective (R302). -/
  | coll (ctx group seq : Nat)
  deriving DecidableEq, Repr

/-- A waiting request (R239): its class, its context, its cost, and its place in the lane order of R240. In the lane event records of severity 3 and 4 are 1, other
event records 2, teardown traffic 3, the hub's own tables 4, the rake 5; what is not in the lane is 0. -/
structure Req where
  cls : Nat
  ctx : Nat
  cost : Nat
  lane : Nat := 0
  /-- The controller of a memory operation's line. -/
  mc : Pan := 0
  what : ReqWhat := .transfer
  deriving DecidableEq, Repr

/-- The figures of one arbiter (R239) and its waiting requests in the order they came. -/
structure Arb where
  rsvUsed : Nat := 0
  units : Nat := 0
  v : Nat := 0
  s : Tbl Nat := []
  f : Tbl Nat := []
  /-- Classes that were backlogged after the last grant. -/
  backlog : List Nat := []
  /-- The context last served, per class. -/
  last : Tbl Nat := []
  waiting : List Req := []
  deriving DecidableEq, Repr

/-- Classes with a waiting request of their own. -/
def waitClasses (rs : List Req) : List Nat := (List.range 8).filter fun q => rs.any fun r => r.lane = 0 && r.cls = q

/-- An arbiter from which the requests that `f` does not keep are withdrawn; a class left with none is backlogged no longer. -/
def Arb.keep (a : Arb) (f : Req → Bool) : Arb :=
  { a with waiting := a.waiting.filter f, backlog := a.backlog.filter fun q => (waitClasses (a.waiting.filter f)).contains q }

/-- Which arbiter (R238). -/
inductive ArbId where
  | mc (p : Pan)
  | fabric (die : Nat)
  | egress (port : Nat)
  | opPlaces
  | migrSlots
  | inits (me : Nat)
  | streams (ve : Nat)
  | eventPath
  /-- The waiting collectives of a link die (R302). -/
  | colls (die : Nat)
  deriving DecidableEq, Repr

/-- Does the arbiter have a reserved lane of its own (R238)? -/
def ArbId.hasLane : ArbId → Bool
  | .mc _ => true
  | .fabric _ => true
  | .egress _ => true
  | .opPlaces => true
  | _ => false

/-- The number an arbiter is kept under. -/
def ArbId.key : ArbId → Nat
  | .mc p => 16 * p
  | .fabric d => 16 * d + 1
  | .egress p => 16 * p + 2
  | .opPlaces => 3
  | .migrSlots => 4
  | .eventPath => 5
  | .inits m => 16 * m + 6
  | .streams v => 16 * v + 7
  | .colls d => 16 * d + 8

end Sys2Proof.Machine
end

