-- ==== Sys2Proof/Machine/ImageState.lean ====
section
/-! DEFINITION. The records of a Kartile image as the module holds them once decoded. -/
namespace Sys2Proof.Machine

/-- The QoS record (R237). -/
structure QosRec where
  weight : List Nat := [1, 2, 4, 8, 16, 32, 64, 128]
  evtRate : List Nat := List.replicate 8 64
  evtBurst : List Nat := List.replicate 8 32
  mirrorMin : Nat := 2
  deriving DecidableEq, Repr

/-- A class entry of the sluice record (R166). -/
structure SluClass where
  restPref : Nat := 0
  allowT1 : Bool := true
  allowT2 : Bool := true
  sramFirst : Bool := false
  pin : Bool := false
  offload : Bool := false
  prefetch : Bool := false
  depth : Nat := 0
  deriving DecidableEq, Repr

/-- A class entry read from its 32 bits (R166). -/
def sluClassOf (w : Nat) : SluClass :=
  { restPref := bits w 0 1, allowT1 := bitAt w 1, allowT2 := bitAt w 2, sramFirst := bitAt w 3, pin := bitAt w 4,
    offload := bitAt w 5, prefetch := bitAt w 6, depth := bits w 7 4 }

/-- The default class entries, W to H (R167). -/
def sluDefaults : List SluClass := [0xC6, 0xC6, 0x2E, 0x12, 0x02, 0x07, 0x06, 0x0A, 0x17].map sluClassOf

/-- The sluice record (R166). -/
structure SluRec where
  ceilPct : Nat := 50
  retRate : Nat := 32
  classes : List SluClass := sluDefaults
  minOps : List Nat := List.replicate 8 2048
  deriving DecidableEq, Repr

/-- The numeric record: zero-run thresholds, gauge exponent, compare formats and thresholds per class (R103, R194). -/
structure NumRec where
  zrThr : List Nat := List.replicate 9 0
  gaugeN : Nat := 12
  cmpFmt : List Nat := [1, 1, 1, 1, 1, 0, 0, 1, 1]
  gThr : List Nat := [2, 2, 8, 8, 16, 2, 2, 32, 2]
  deriving DecidableEq, Repr

/-- A region record (R233). -/
structure RegionRec where
  base : Nat := 0
  granules : Nat := 1
  tensorId : Nat := 0
  cls : Nat := 0
  recipe : Nat := 0
  layer : Nat := 0xFF
  die : Nat := 0xF
  pair : Nat := 0
  isSealed : Bool := false
  fmt : Nat := 0
  mate : Nat := 0
  sealId : Nat := 0
  sealVer : Nat := 0
  sealTensor : Nat := 0
  rowFirst : Nat := 0
  rowCount : Nat := 0
  colFirst : Nat := 0
  colCount : Nat := 0
  deriving DecidableEq, Repr

/-- A phase-schedule record (R213). -/
structure SchedRec where
  genTides : Nat := 1
  genGrace : Nat := 100
  genSeqs : Nat := 256
  carry : Bool := false
  learnLimit : Nat := 0
  phaseGroup : Nat := 0
  blockAddr : Nat := 0
  deriving DecidableEq, Repr

/-- An entry of an offload plan (R174). -/
structure OffloadRec where
  tensor : Nat := 0
  outTide : Nat := 0
  outPhase : Nat := 0
  backTide : Nat := 0
  backPhase : Nat := 0
  deriving DecidableEq, Repr

/-- A context program: its entry point and the PT_LOAD segments placed in local memory (R129, R131). -/
structure ProgRec where
  entry : Nat := 0
  segs : List (Nat × List Nat) := []
  deriving DecidableEq, Repr

/-- A window entry of a protection domain (R258). -/
structure WindowRec where
  winId : Nat := 0
  rd : Bool := false
  wr : Bool := false
  phaseReopen : Bool := false
  base : Nat := 0
  size : Nat := 64
  deriving DecidableEq, Repr

/-- A stream entry of a protection domain (R258). -/
structure StreamRec where
  stream : Nat := 0
  peerStream : Nat := 0
  peerCtx : Nat := 0
  peerHost : Bool := false
  peerAddr : Nat := 0
  deriving DecidableEq, Repr

/-- A protection-domain record (R258). -/
structure PdRec where
  pdId : Nat := 0
  ports : Nat := 0x7F
  macsecHp : Bool := false
  streams : List StreamRec := []
  windows : List WindowRec := []
  deriving DecidableEq, Repr

/-- A member of a communication group (R297). -/
structure MemberRec where
  position : Nat := 0
  ports : Nat := 0x7E
  addr : Nat := 0
  deriving DecidableEq, Repr

/-- A group record (R297). -/
structure GroupRec where
  groupId : Nat := 0
  axis : Nat := 0xF
  shardTo : Nat := 8
  abortTo : Nat := 24
  members : List MemberRec := []
  deriving DecidableEq, Repr

/-- The torus record (R295). -/
structure TorusRec where
  len : List Nat := [1, 1, 1, 1]
  cut : List Nat := [0, 0, 0, 0]
  deriving DecidableEq, Repr

/-- A port entry (R284). -/
structure PortRec where
  enable : Bool := false
  kr : Bool := false
  rateSel : Nat := 0
  macsec : Bool := false
  keyPrio : Nat := 0
  retrainMax : Nat := 2000
  deriving DecidableEq, Repr

/-- A context record (R232), its parts decoded. -/
structure CtxRec where
  ctx : Nat := 0
  qos : Nat := 0
  rkMask : Nat := 0
  startStep : Nat := 0
  startPos : Nat := 0
  samples : Nat := 0
  sink : Nat := 0
  gen : Option ProgRec := none
  learn : Option ProgRec := none
  /-- Seal sources of the programs: package and version (R131). -/
  genSeal : Option (Nat × Nat) := none
  learnSeal : Option (Nat × Nat) := none
  regions : List RegionRec := []
  sched : Option SchedRec := none
  offload : List OffloadRec := []
  pds : List PdRec := []
  seed : Nat := 0
  deriving DecidableEq, Repr

/-- The harvest record (R320), its protection domain decoded. -/
structure HrvRec where
  buddy0 : Nat := 0
  buddy1 : Nat := 0
  pct : Nat := 25
  hostLog : Bool := false
  spare : Bool := false
  sparePos : Nat := 0
  logKeep : Nat := 64
  nsEvery : Nat := 60000
  areaGranules : Nat := 1
  pd : PdRec := {}
  b0Stream : Nat := 0
  b1Stream : Nat := 0
  hostStream : Nat := 0
  hostWin : Nat := 0
  areaWin : Nat := 0
  deriving DecidableEq, Repr

end Sys2Proof.Machine
end

