-- ==== Sys2Proof/Machine/MemState.lean ====
section
/-! DEFINITION. The state of memory controllers, of granules and of the sluice (08, 09). -/
namespace Sys2Proof.Machine

/-- A memory controller (R146 to R159). -/
structure Mc where
  rate : Nat := 0
  keyReady : Bool := false
  inCalib : Bool := false
  rakeActive : Bool := false
  ueHeld : Bool := false
  ceCnt : Nat := 0
  ueCnt : Nat := 0
  ueAddr : Nat := 0
  ueCtx : Nat := 0xFFFF
  lanesUsed : Nat := 0
  rowsUsed : Nat := 0
  period : Nat := 0
  passPct : Nat := 0
  lateCnt : Nat := 0
  slotsDone : Nat := 0
  failCnt : Nat := 0
  lastUs : Nat := 0
  /-- Consecutive failed calibrations (R151). -/
  fails : Nat := 0
  calibAt : Nat := 0
  /-- When the pass in progress began, and lines read in it (R150). -/
  passAt : Nat := 0
  passLines : Nat := 0
  passLate : Bool := false
  /-- Within the tide: lines with a corrected error by lane, corrected errors, distinct uncorrectable lines (R147). -/
  ceLane : Tbl (List Nat) := []
  ceTide : Nat := 0
  ceRated : Bool := false
  ueLines : List Nat := []
  /-- Repairs scheduled for the next calibration slot (R149). -/
  rowDue : List Nat := []
  laneDue : List Nat := []
  /-- Rows that gave a corrected error in the pass before and in this pass. -/
  cePrev : List Nat := []
  ceThis : List Nat := []
  /-- Lines rewritten after an uncorrectable error, read back at the next chance (R148). -/
  recheck : List Nat := []
  /-- Wrong symbols that a line holds, by line index: which symbols (R146). -/
  bad : Tbl (List Nat) := []
  /-- The context that owned such a line when its error was met, where one did (R148). -/
  badOf : Tbl Nat := []
  deriving DecidableEq, Repr

/-- A repair in the repair list of the configuration flash (R149). -/
structure Repair where
  mc : Pan
  lane : Bool
  what : Nat
  deriving DecidableEq, Repr

/-- Where a copy of a granule lies (R162). -/
inductive Place where
  | sram (die : Nat)
  | t1 (stack : Nat)
  | t2 (pkg : Nat)
  deriving DecidableEq, Repr

/-- What a migration slot works on (R170). -/
inductive MigKind where
  | stage (die : Nat) (prefetch : Bool)
  | work (die : Nat)
  | writeBack (die : Nat)
  | rest (dst : Place)
  | offload (dst : Place)
  | ret (dst : Place)
  deriving DecidableEq, Repr

/-- A migration in progress (R170): its granule, its dirty map as the dirty unit numbers, and whether its last pass has begun. -/
structure Mig where
  ctx : Nat
  gran : Nat
  kind : MigKind
  dirty : List Nat := []
  last : Bool := false
  deriving DecidableEq, Repr

/-- A granule's map entry (R162, R169). What is in flight on a copy follows from the commands and writes that are bound to it. -/
structure Gran where
  rest : Place
  work : Option Nat := none
  staged : List Nat := []
  gen : Nat := 0
  lastDie : Option Nat := none
  lastUse : Tbl Nat := []
  offloaded : Bool := false
  /-- Lies outside REST_PREF only because the preferred tier was full (R171). -/
  overflow : Bool := false
  deriving DecidableEq, Repr

/-- A copy left behind, to be zeroed and freed when its in-flight count reaches zero (R170). -/
structure OldCopy where
  ctx : Nat
  gran : Nat
  place : Place
  /-- The commands still bound to it: engine and command sequence number. -/
  users : List (Nat × Nat) := []
  deriving DecidableEq, Repr

/-- What a request waits for: a migration slot, a granule of staging SRAM, or what is under way with its own granule (R165, R170, R171). -/
inductive MigWait where
  | slot | sram | granule
  deriving DecidableEq, Repr

/-- A request waiting for a granule of staging SRAM, for a migration slot or for its granule, and since when (R165, R170). -/
structure StallReq where
  n : Nat
  ctx : Nat
  gran : Nat
  kind : MigKind
  since : Nat
  wait : MigWait := .sram
  raised : Bool := false
  deriving DecidableEq, Repr

/-- A region on its way out or back in tier offload (R175, R176). -/
structure OffloadSt where
  waiting : List Nat := []
  skipped : Bool := false
  out : Bool := false
  late : Bool := false
  deriving DecidableEq, Repr

/-- A memory operation that holds a place: its class, its context, its place in the lane order (0 for a context's), and the controller of its line (R178). -/
structure MemOp where
  cls : Nat
  ctx : Nat
  lane : Nat := 0
  mc : Pan := 0
  deriving DecidableEq, Repr

/-- The sluice (R160 to R184). -/
structure Sluice where
  policyOk : Bool := false
  deadlineMiss : Bool := false
  noSpace : Bool := false
  offloadSkip : Bool := false
  moves : Nat := 0
  stagedCnt : Nat := 0
  prefetched : Nat := 0
  aborted : Nat := 0
  lateCnt : Nat := 0
  skipCnt : Nat := 0
  stallUs : Nat := 0
  /-- Some request has waited for staging SRAM in the microsecond in progress (R183). -/
  stallNow : Bool := false
  /-- The operations in flight, and the most at any time (R178, R184). -/
  flight : List MemOp := []
  opsPeak : Nat := 0
  /-- Map entries, by context number times 2^43 plus granule number. -/
  map : Tbl Gran := []
  migs : List Mig := []
  old : List OldCopy := []
  stalls : List StallReq := []
  nextReq : Nat := 0
  deriving DecidableEq, Repr

/-- Operations in flight: of a QoS class, of all contexts, in reserved places, and in all (R178, R184). -/
def Sluice.opsQ (s : Sluice) (q : Nat) : Nat := (s.flight.filter fun o => o.lane = 0 && o.cls = q).length
def Sluice.opsCtx (s : Sluice) : Nat := (s.flight.filter fun o => o.lane = 0).length
def Sluice.opsRsv (s : Sluice) : Nat := (s.flight.filter fun o => o.lane ≠ 0).length
def Sluice.opsNow (s : Sluice) : Nat := s.flight.length

end Sys2Proof.Machine
end

