-- ==== Sys2Proof/Machine/ContextState.lean ====
section
/-! DEFINITION. The state of a context: life, faults, teardown, phases, weight pair, numerics, harvest (10, 12, 13, 17). -/
namespace Sys2Proof.Machine

/-- The fault record as the CTX registers hold it (R244, R252). -/
structure FaultRec where
  valid : Bool := false
  cause : Nat := 0
  more : Nat := 0
  pan : Nat := 0
  seq : Nat := 0xFFFFFFFF
  pcValid : Bool := false
  addr : Nat := 0
  detail : Nat := 0
  deriving DecidableEq, Repr

/-- The states of a buffer of the weight pair (R218, R231). -/
inductive BufState where
  | current | previous | waiting | building
  deriving DecidableEq, Repr

def BufState.code : BufState → Nat
  | .current => 0 | .previous => 1 | .waiting => 2 | .building => 3

structure Buf where
  st : BufState
  drained : Bool
  ver : Nat := 0
  deriving DecidableEq, Repr

/-- A phase that has begun and whose programs or work may still run (R215, R228, R229). -/
structure PhaseRun where
  startTide : Nat := 0
  ran : Nat := 0
  flags : NumFlags := {}
  step : Nat := 0
  ver : Nat := 0
  exitCode : Nat := 0
  exitPan : Nat := 0
  /-- The buffer that its programs bind (R219). -/
  bound : Nat := 0
  /-- Named cores whose start is still pending. -/
  pending : List Nat := []
  deriving DecidableEq, Repr

/-- What the hub keeps of one region (R187, R193, R194). -/
structure RegionSt where
  recipe : Nat := 0
  zrun : Nat := 0
  written : Bool := false
  nonzero : Bool := false
  flushed : Bool := false
  deriving DecidableEq, Repr

/-- The drain of a capture to one destination (R324 to R326): 0 BUDDY0, 1 BUDDY1, 2 host. -/
structure Drain where
  dest : Nat
  done : Bool := false
  /-- The tide at which it last got an acknowledgement, or began. -/
  since : Nat := 0
  failed : Bool := false
  /-- The FLUSH whose DONE completes the drain: stream and MSG_ID. -/
  flush : Option (Nat × Nat) := none
  deriving DecidableEq, Repr

/-- A capture of a context (R322 to R326). -/
structure Capture where
  step : Nat := 0
  at_ : Nat := 0
  drains : List Drain := []
  /-- Granules captured and not yet sent to every destination. -/
  unsent : List Nat := []
  /-- Of these, the granules copied into a class H granule before a write, with that granule (R322). -/
  kept : Tbl Nat := []
  /-- Regions that went by harvest and regions that went in the step log, by TENSOR_ID. -/
  harvest : List Nat := []
  log : List Nat := []
  /-- The bytes of the scalar record (R319). -/
  scalar : List Nat := []
  deriving DecidableEq, Repr

/-- Harvest state of a context (R318 to R331, R340). -/
structure HrvSt where
  cap : Option Capture := none
  safeStep : Nat := 0
  /-- Granules written since the previous capture (R323). -/
  written : List Nat := []
  /-- Granules written between the two captures before (R324). -/
  prev : List Nat := []
  /-- How many captures in a row each region has gone by harvest, by TENSOR_ID (R324). -/
  copies : Tbl Nat := []
  /-- Addresses of writes that wait for a capture, each counted once in COW_WAIT (R322). -/
  cowAt : List Nat := []
  lastAt : Nat := 0
  cowWait : Nat := 0
  copyBad : Nat := 0
  restoreStep : Nat := 0
  halt : Nat := 0
  /-- This module's M (its `none` stands for NONE), the other members' by rank, and the READY tides by rank (R329). -/
  m : Option (Option Nat) := none
  ms : Tbl (Option Nat) := []
  ready : Tbl Nat := []
  /-- The state is installed and waits to resume; it starts afresh (R329, R331). -/
  installed : Bool := false
  fresh : Bool := false
  deriving DecidableEq, Repr

/-- A pipeline queue of a context (R309, R310). -/
structure PipeQ where
  group : Nat := 0
  credits : Nat := 0
  /-- Consumer ring: address, slot bytes, slots; and the number of QRECVs issued. -/
  ring : Option (Nat × Nat × Nat) := none
  count : Nat := 0
  prodStall : Nat := 0
  consStall : Nat := 0
  deriving DecidableEq, Repr

/-- A context, numbers 0 to 1,023. -/
structure Ctx where
  st : CtxState := .absent
  qos : Nat := 0
  rec_ : CtxRec := {}
  tdStep : Nat := 0
  tdReason : TdReason := .fault
  tdStart : Nat := 0
  quarEnd : Nat := 0
  /-- A record waiting for the quarantine's end (R235, R249). -/
  next : Option CtxRec := none
  /-- A changed phase schedule, from the next phase start, and a changed offload plan, from the next LEARN start (R236). -/
  schedNext : Option SchedRec := none
  offNext : Option (List OffloadRec) := none
  fault : FaultRec := {}
  ev : Bucket := {}
  sent : Nat := 0
  merged : Nat := 0
  dropped : Nat := 0
  lateDrop : Nat := 0
  lateAll : Nat := 0
  tdUs : Nat := 0
  /-- Next command sequence number, and the numbers accepted and not complete with the core that issued each (R88, R132). -/
  seq : Nat := 0
  open_ : List (Nat × Issuer) := []
  handles : Tbl Handle := []
  step : Nat := 0
  pos : Nat := 0
  flags : NumFlags := {}
  regions : Tbl RegionSt := []
  /-- The phase in force and its parts (R214). -/
  phase : Phase := .none
  gen : Option PhaseRun := none
  /-- The GENERATE phase before it, while work of its programs remains (R215); it is bound to the other buffer. -/
  genPrev : Option PhaseRun := none
  learn : Option PhaseRun := none
  genEnd : Nat := 0
  barrier : Bool := false
  /-- The tide at which the last LEARN phase began, and whether it has been reported late. -/
  learnAt : Nat := 0
  learnLate : Bool := false
  buf0 : Buf := { st := .building, drained := false }
  buf1 : Buf := { st := .previous, drained := true }
  waitTides : Nat := 0
  pairWaitRaised : Bool := false
  /-- Partner accesses refused and not yet returned by a read, and those that reads have returned (R6, R231). -/
  refused : Nat := 0
  refusedGone : Nat := 0
  /-- Sealed regions still to load (R209). -/
  loads : List Nat := []
  created : Nat := 0
  epoch : Nat := 0
  collSeq : Tbl Nat := []
  /-- Draws: step and data position of the last block drawn, per random stream (R319). -/
  draws : Tbl (Nat × Nat) := []
  /-- Layer in progress, direction and the last distinct layer (R177). -/
  layer : Option Nat := none
  dir : Int := 1
  off : Tbl OffloadSt := []
  returning : Bool := false
  hrv : HrvSt := {}
  queues : Tbl PipeQ := []
  deriving DecidableEq, Repr

end Sys2Proof.Machine
end

