-- ==== Sys2Proof/Machine/NetState.lean ====
section
/-! DEFINITION. Skeyr packets, streams, messages and windows, the Ethernet ports, and collectives (14, 15, 16). -/
namespace Sys2Proof.Machine

/-- The Skeyr header (R254), each field as a number. -/
structure SkyHdr where
  typ : Nat
  retx : Bool := false
  solicit : Bool := false
  ece : Bool := false
  syn : Bool := false
  ctx : Nat := 0
  stream : Nat := 0
  winId : Nat := 0
  winGen : Nat := 0
  length : Nat := 0
  psn : Nat := 0
  msgId : Nat := 0
  msgLen : Nat := 0
  offset : Nat := 0
  ackPsn : Nat := 0
  sackBits : Nat := 0
  ts : Nat := 0
  reason : Nat := 0
  info : Nat := 0
  deriving DecidableEq, Repr

/-- A Skeyr packet: its header and its payload bytes (R253). -/
structure Packet where
  h : SkyHdr
  data : List Nat := []
  /-- For a segment of a PERMUTE, where its bytes go, relative to the receiver's DST_ADDR (R308): the header has no field for it (log 38). -/
  dst : Nat := 0
  deriving DecidableEq, Repr

/-- A Skeyr packet in its IPv6 and UDP headers, with its CRC-32C (R253). -/
structure Datagram where
  src : Nat
  dst : Nat
  hop : Nat
  dscp : Nat
  ecn : Nat
  srcPort : Nat
  dstPort : Nat
  /-- The UDP length, which is the IPv6 payload length, and the UDP checksum. -/
  len : Nat
  sum : Nat
  pkt : Packet
  crc : Nat
  deriving DecidableEq, Repr

/-- A line that an access through a window meets with wrong symbols (R147): how far into the access's bytes it lies, its index in the controller that holds it, the
newly wrong symbols, and in the receive area the index of the copy it belongs to (R321). -/
structure MemFind where
  off : Nat
  line : Nat
  wrong : List Nat
  copy : Nat := 0
  deriving DecidableEq, Repr

/-- A packet's arrival: the port, what MACsec found (R261 step 1), the fields of its IPv6 and UDP headers, the header bits that are no field of `SkyHdr`, its CRC-32C as
it came, and its ECN mark. -/
structure Arrival where
  port : Nat := 0
  src : Nat := 0
  dst : Nat := 0
  nextHdr : Nat := 17
  srcPort : Nat := 0
  dstPort : Nat := 0
  /-- Payload length of the IPv6 header, length and checksum of the UDP header. -/
  ipLen : Nat := 0
  udpLen : Nat := 0
  udpSum : Nat := 0
  /-- The frame came under MACsec and passed its ICV check. -/
  macsec : Bool := true
  /-- An unprotected frame, or one on an unknown secure channel (false: one that failed its ICV check). -/
  unprot : Bool := false
  /-- VER; a reserved TYPE, where the packet carries one; the RSV bits of FLAGS, CONTEXT and STREAM as one number (R254, R255). -/
  ver : Nat := 1
  typ : Option Nat := none
  rsv : Nat := 0
  /-- The CRC-32C that follows the payload. -/
  crc : Nat := 0
  ce : Bool := false
  /-- The line with wrong symbols that its bytes meet in memory, if any (R147). -/
  mem : Option MemFind := none
  deriving DecidableEq, Repr

/-- What an outbound message is for. -/
inductive MsgUse where
  | program (core : Nat) (ph : Phase) (bound : Nat)
  | event
  | coll (group seq : Nat)
  | cancel
  | harvest (ctx dest : Nat)
  /-- The READs of a sealing (R206). -/
  | seal_
  deriving DecidableEq, Repr

/-- An outbound message (R265). -/
structure OutMsg where
  typ : Nat
  ctx : Nat
  msgId : Nat
  psn : Nat
  count : Nat
  winId : Nat := 0
  winGen : Nat := 0
  len : Nat := 0
  /-- MSG_LEN of its packets, where it is not `len` (R300). -/
  total : Option Nat := none
  /-- Source of a WRITE or destination of a READ in context memory; `none` where the bytes are in `data`. -/
  addr : Option Nat := none
  data : List Nat := []
  off : Nat := 0
  use_ : MsgUse
  /-- Status and INFO once it has ended (R276). -/
  status : Option (Nat × Nat) := none
  /-- A WRITE that was DONE at departure and failed later, which the next FLUSH reports (R266). -/
  failed : Bool := false
  issuedAt : Nat := 0
  firstAt : Option Nat := none
  lastAt : Nat := 0
  /-- READ: byte ranges placed at the destination. FLUSH: when it was acknowledged is `lastAt`. -/
  got : List (Nat × Nat) := []
  acked : Bool := false
  /-- The egress port it last left on (R282). -/
  port : Nat := 0
  /-- A READ refused with a retry reason: it goes again after RTO (R271). -/
  retry : Bool := false
  /-- Where a PERMUTE's segment goes at its receiver (R308). -/
  dst : Nat := 0
  deriving DecidableEq, Repr

/-- A transmitted packet whose copy is kept in link SRAM (R266, R273). -/
structure OutPkt where
  psn : Nat
  msgId : Nat
  pkt : Packet
  firstAt : Nat
  lastAt : Nat
  rto : Nat
  path : Nat × Nat
  port : Nat
  /-- Refused with a retry reason: it goes again after RTO. -/
  retry : Bool := false
  deriving DecidableEq, Repr

/-- A READ being served from a window (R267). -/
structure ReadServe where
  msgId : Nat
  len : Nat
  next : Nat := 0
  winGen : Nat
  winId : Nat
  /-- The bytes checked and to be served. -/
  data : List Nat
  buf : Option Nat := none
  deriving DecidableEq, Repr

/-- A stream of this module, both directions (R259 to R274). -/
structure Strm where
  known : Bool := false
  e : Nat := 0
  map : List Nat := []
  /-- PSNs marked received whose bytes still wait in the hold buffer (R268, R279). -/
  unplaced : List Nat := []
  lastRx : Option Nat := none
  unack : Nat := 0
  /-- TS of the packet that the next acknowledgement echoes, and the unacknowledged packets' first arrival. -/
  ackTs : Nat := 0
  unackAt : Option Nat := none
  ece : Bool := false
  flushes : List (Nat × Nat) := []
  serves : List ReadServe := []
  nakAt : Tbl Nat := []
  /-- Sending: next PSN and MSG_ID. -/
  psn : Nat := 0
  msg : Nat := 0
  synced : Bool := false
  synPsn : Option Nat := none
  resyncAt : Option Nat := none
  msgs : List OutMsg := []
  pkts : List OutPkt := []
  /-- PSNs of issued messages not yet transmitted. -/
  unsent : List Nat := []
  srtt : Option Nat := none
  rttvar : Nat := 0
  cwnd : Nat := 64
  alpha : Nat := 0
  /-- RTT samples of the last second, with their instants: each is below every later one (R274). -/
  rtts : List (Nat × Nat) := []
  /-- Within the running srtt: when it began, whether a timeout, an ECE mark or a late sample was seen, acknowledgements and marked ones. -/
  winAt : Nat := 0
  timeoutSeen : Bool := false
  eceSeen : Bool := false
  lateSeen : Bool := false
  acks : Nat := 0
  marked : Nat := 0
  /-- Round robin over the paths, packets sent, and paths skipped until that many have been sent. -/
  nextPath : Nat := 0
  sentCnt : Nat := 0
  skip : List ((Nat × Nat) × Nat) := []
  /-- The first message of the incarnation that failed or was cancelled (R268). -/
  firstFail : Option Nat := none
  deriving DecidableEq, Repr

/-- A record of an incomplete inbound message (R265, R438). -/
structure InRec where
  stream : Nat
  msgId : Nat
  typ : Nat
  len : Nat
  firstAt : Nat
  port : Nat := 0
  bytes : Nat := 0
  /-- PSN, OFFSET, LENGTH and SOLICIT of the packets counted. -/
  pkts : List (Nat × Nat × Nat × Bool) := []
  deriving DecidableEq, Repr

/-- An arrived packet waiting in a link die's hold buffer (R277, R279). -/
structure Held where
  die : Nat
  arr : Arrival
  pkt : Packet
  deriving DecidableEq, Repr

/-- A window (R260). -/
structure Win where
  gen : Nat := 0
  open_ : Bool := false
  /-- The generation of its opening in this incarnation of its context (R248). -/
  base : Nat := 0
  deriving DecidableEq, Repr

/-- Port states (R294). -/
inductive PortState where
  | down | an | training | held | up | fault
  deriving DecidableEq, Repr

def PortState.code : PortState → Nat
  | .down => 0 | .an => 1 | .training => 2 | .held => 3 | .up => 4 | .fault => 5

/-- What the module has sent (R253, R288, R378, R390), newest first. -/
inductive Out where
  | sky (port : Nat) (d : Datagram)
  /-- A frame on the management bus: its bytes from the destination address to the FCS. -/
  | mgt (bytes : List Nat)
  /-- An OMP answer as one UDP datagram to an address and port: header, body, TAG. -/
  | omp (addr port : Nat) (bytes : List Nat)
  | delayReq (seq : Nat)
  /-- A solicitation for an address: to its solicited-node group, or to the neighbour itself. -/
  | neighborSolicit (port addr : Nat) (unicast : Bool)
  /-- An advertisement of an address of the module's own, with its Solicited and Override flags. -/
  | neighborAdvert (port addr : Nat) (solicited override_ : Bool)
  deriving DecidableEq, Repr

/-- How far a neighbour is known to be reachable (R288; RFC 4861, 7.3.2). -/
inductive NbrState where
  | incomplete | reachable | stale | delay | probe
  deriving DecidableEq, Repr

/-- An entry of a port's neighbour cache: its state, since when it holds or when it last solicited, the solicitations sent, the link-layer address, and what waits for it. -/
structure Nbr where
  st : NbrState
  at_ : Nat
  tries : Nat := 0
  mac : Nat := 0
  waits : List Out := []
  deriving DecidableEq, Repr

/-- A port (R284 to R294) with its Skeyr counters (R282). -/
structure Port where
  cfg : PortRec := {}
  st : PortState := .down
  rate : Nat := 0
  macsecUp : Bool := false
  rateLow : Bool := false
  loopOk : Bool := false
  reason : Nat := 0
  lanes : Nat := 0
  lastMs : Nat := 0
  corrCw : Nat := 0
  ucw : Nat := 0
  downCnt : Nat := 0
  retrainCnt : Nat := 0
  icvFail : Nat := 0
  unprotDrop : Nat := 0
  pauseRx : Nat := 0
  otherDrop : Nat := 0
  /-- When the retrain in progress began; link losses of the last 60 s; uncorrectable codewords of the tide. -/
  retrainAt : Option Nat := none
  losses : List Nat := []
  ucwTide : Nat := 0
  /-- A service write or an image switch has asked for a retrain; the retrain in progress was asked for so (R290). -/
  want : Bool := false
  service : Bool := false
  /-- MACsec: frames sent under the SA in use and the number of SAKs installed (R285). -/
  pn : Nat := 0
  saks : Nat := 0
  /-- No common ability was found in the last auto-negotiation. -/
  noCommon : Bool := false
  crcErr : Nat := 0
  badHdr : Nat := 0
  unkDrop : Nat := 0
  unknown : Nat := 0
  badAck : Nat := 0
  dupDrop : Nat := 0
  nakTx : Nat := 0
  nakRx : Nat := 0
  retx : Nat := 0
  timeouts : Nat := 0
  cancelTx : Nat := 0
  ceRx : Nat := 0
  retxPeak : Nat := 0
  holdDrop : Nat := 0
  recExpired : Nat := 0
  /-- UNK_RATE budget used in the tide, and packets dropped beyond it (R261, R280). -/
  unkUsed : Nat := 0
  unkOver : Nat := 0
  /-- Data packets sent since the last control packet, at most 8 (R270). -/
  sinceCtl : Nat := 8
  /-- Control packets waiting for their place, with their stream and their UDP source port's number (R270). -/
  ctl : List (Nat × Nat × Packet) := []
  /-- The neighbour cache, by address (R288). -/
  nbrs : Tbl Nbr := []
  deriving DecidableEq, Repr

/-- A collective descriptor (R299). -/
structure CollDesc where
  op : Nat := 0
  fmt : Nat := 0
  subn : Bool := false
  ovfm : Bool := false
  group : Nat := 0
  epoch : Nat := 0
  src : Nat := 0
  dst : Nat := 0
  count : Nat := 0
  root : Nat := 0
  queue : Nat := 0
  slots : Nat := 0
  slotBytes : Nat := 0
  table : Nat := 0
  tableCount : Nat := 0
  inBytes : Nat := 0
  deriving DecidableEq, Repr

/-- Where a collective stands on this member. -/
inductive CollSt where
  /-- Accepted, waiting for an engine (R302), or held for its epoch (R307). -/
  | waiting
  | held
  | running
  /-- Permutation: requested, or reported and waiting for R + 2 (R308). -/
  | requested
  | reported
  | done
  | epochOld
  | aborted
  deriving DecidableEq, Repr

/-- A shard, or part of one: the rank it comes from or goes to, its offset in its sender's contribution, its bytes, and for a PERMUTE where they go (R301, R308). -/
structure Shard where
  rank : Nat
  off : Nat
  bytes : List Nat
  dst : Nat := 0
  deriving DecidableEq, Repr

/-- A collective of a context on a group (R299 to R312). -/
structure Coll where
  ctx : Nat
  group : Nat
  seq : Nat
  d : CollDesc
  who : Issuer := {}
  /-- The group record it was issued under, once an image switch has changed it (R356). -/
  grp : Option GroupRec := none
  st : CollSt := .waiting
  /-- The engine it runs on, 0 to 7, and the link die it was queued on. -/
  engine : Option Nat := none
  die : Nat := 0
  /-- Shards received. -/
  got : List Shard := []
  /-- Shards sent and kept (R312), and this member's own input. -/
  kept : List Shard := []
  /-- QRECV: the length of the data that comes. -/
  inLen : Option Nat := none
  keptUntil : Option Nat := none
  /-- ENTRY and REPORT tides by rank. -/
  entry : Tbl Nat := []
  report : Tbl Nat := []
  /-- Tide at which the present wait for a shard began, the last REREQ, and when WAITING began in ns. -/
  waitTide : Option Nat := none
  rereqTide : Nat := 0
  waitAt : Option Nat := none
  waitsOn : Nat := 0
  /-- The sums of the chunk this member owns have been formed. -/
  summed : Bool := false
  /-- QSEND: its credit has been taken. -/
  sent : Bool := false
  slot : Nat := 0
  reason : Nat := 0
  doneTide : Nat := 0
  deriving DecidableEq, Repr

/-- The counters of a collective engine (R317). -/
structure Ce where
  done : Nat := 0
  aborts : Nat := 0
  lastReason : Nat := 0
  rereq : Nat := 0
  heldBusy : Nat := 0
  waitUs : Nat := 0
  deriving DecidableEq, Repr

/-- A shard or control record held in collective staging until its collective is issued or its epoch comes (R301). -/
structure HeldShard where
  die : Nat
  arr : Arrival
  pkt : Packet
  deriving DecidableEq, Repr

end Sys2Proof.Machine
end

