-- ==== Sys2Proof/Machine/Sha.lean ====
section
/-! DEFINITION. SHA-256 and HMAC-SHA-256 (FIPS 180-4, RFC 2104), over lists of byte values. -/
namespace Sys2Proof.Machine
open Sys2Proof

/-- The round constants of FIPS 180-4. -/
def shaK : List Nat :=
  [0x428a2f98, 0x71374491, 0xb5c0fbcf, 0xe9b5dba5, 0x3956c25b, 0x59f111f1, 0x923f82a4, 0xab1c5ed5,
   0xd807aa98, 0x12835b01, 0x243185be, 0x550c7dc3, 0x72be5d74, 0x80deb1fe, 0x9bdc06a7, 0xc19bf174] ++
  [0xe49b69c1, 0xefbe4786, 0x0fc19dc6, 0x240ca1cc, 0x2de92c6f, 0x4a7484aa, 0x5cb0a9dc, 0x76f988da,
   0x983e5152, 0xa831c66d, 0xb00327c8, 0xbf597fc7, 0xc6e00bf3, 0xd5a79147, 0x06ca6351, 0x14292967] ++
  [0x27b70a85, 0x2e1b2138, 0x4d2c6dfc, 0x53380d13, 0x650a7354, 0x766a0abb, 0x81c2c92e, 0x92722c85,
   0xa2bfe8a1, 0xa81a664b, 0xc24b8b70, 0xc76c51a3, 0xd192e819, 0xd6990624, 0xf40e3585, 0x106aa070] ++
  [0x19a4c116, 0x1e376c08, 0x2748774c, 0x34b0bcb5, 0x391c0cb3, 0x4ed8aa4a, 0x5b9cca4f, 0x682e6ff3,
   0x748f82ee, 0x78a5636f, 0x84c87814, 0x8cc70208, 0x90befffa, 0xa4506ceb, 0xbef9a3f7, 0xc67178f2]

/-- Rotate a 32-bit word right. -/
def shaRot (x n : Nat) : Nat := (x >>> n ||| x <<< (32 - n)) % 2 ^ 32

/-- The message schedule: the next word from the last sixteen, newest first. -/
def shaNext (l : List Nat) : Nat :=
  let w2 := l.getD 1 0
  let w7 := l.getD 6 0
  let w15 := l.getD 14 0
  let w16 := l.getD 15 0
  let s0 := shaRot w15 7 ^^^ shaRot w15 18 ^^^ w15 >>> 3
  let s1 := shaRot w2 17 ^^^ shaRot w2 19 ^^^ w2 >>> 10
  (w16 + s0 + w7 + s1) % 2 ^ 32

/-- The 64 schedule words of a block, newest first. -/
def shaSched : Nat → List Nat → List Nat
  | 0, l => l
  | n + 1, l => shaSched n (shaNext l :: l)

/-- One round on the eight working words. -/
def shaRound (v : List Nat) (kw : Nat × Nat) : List Nat :=
  match v with
  | [a, b, c, d, e, f, g, h] =>
    let t1 := h + (shaRot e 6 ^^^ shaRot e 11 ^^^ shaRot e 25) + (e &&& f ^^^ (e ^^^ (2 ^ 32 - 1)) &&& g) + kw.1 + kw.2
    let t2 := (shaRot a 2 ^^^ shaRot a 13 ^^^ shaRot a 22) + (a &&& b ^^^ a &&& c ^^^ b &&& c)
    [(t1 + t2) % 2 ^ 32, a, b, c, (d + t1) % 2 ^ 32, e, f, g]
  | _ => v

/-- The number that bytes spell, most significant first. -/
def ofBeBytes (l : List Nat) : Nat := l.foldl (fun n b => n * 256 + b % 256) 0

/-- A number as `len` bytes, most significant first. -/
def beBytes (len n : Nat) : List Nat := (leBytes len n).reverse

/-- One block of 64 bytes. -/
def shaBlock (h : List Nat) (blk : List Nat) : List Nat :=
  let w := (List.range 16).map fun i => ofBeBytes ((blk.drop (4 * i)).take 4)
  let ws := (shaSched 48 w.reverse).reverse
  let v := (shaK.zip ws).foldl shaRound h
  (h.zip v).map fun p => (p.1 + p.2) % 2 ^ 32

/-- Split bytes into blocks of 64; `fuel` blocks at most. -/
def shaBlocks : Nat → List Nat → List Nat → List Nat
  | 0, h, _ => h
  | n + 1, h, l => if l.isEmpty then h else shaBlocks n (shaBlock h (l.take 64)) (l.drop 64)

/-- The padded message. -/
def shaPad (l : List Nat) : List Nat :=
  let n := l.length
  l ++ [0x80] ++ List.replicate ((119 - n % 64) % 64) 0 ++ beBytes 8 (8 * n)

/-- The digest as eight words. -/
def shaInit : List Nat := [0x6a09e667, 0xbb67ae85, 0x3c6ef372, 0xa54ff53a, 0x510e527f, 0x9b05688c, 0x1f83d9ab, 0x5be0cd19]

/-- SHA-256, 32 bytes. -/
def sha256 (l : List Nat) : List Nat :=
  let p := shaPad l
  (shaBlocks (p.length / 64) shaInit p).flatMap (beBytes 4)

/-- HMAC-SHA-256, 32 bytes. -/
def hmac256 (key msg : List Nat) : List Nat :=
  let k := if key.length > 64 then sha256 key else key
  let k := k ++ List.replicate (64 - k.length) 0
  sha256 ((k.map (· ^^^ 0x5c)) ++ sha256 ((k.map (· ^^^ 0x36)) ++ msg))

/-- A digest as a number, its first byte lowest. -/
def shaNat (l : List Nat) : Nat := ofLeBytes (sha256 l)

end Sys2Proof.Machine
end

