-- ==== Sys2Proof/Machine/Rsa.lean ====
section
/-! DEFINITION. RSA-3072 (RFC 8017): RSASSA-PSS with SHA-256, MGF1 with SHA-256 and a 32-byte salt (R204, R366), and RSAES-OAEP with SHA-256 and an empty label (R370, R381). -/
namespace Sys2Proof.Machine
open Sys2Proof

/-- Square `k` times modulo `n`. -/
def sqMod (n : Nat) : Nat → Nat → Nat
  | 0, x => x
  | k + 1, x => sqMod n k (x * x % n)

/-- The public operation with exponent 65,537. -/
def rsaPublic (n s : Nat) : Nat := sqMod n 16 s * s % n

/-- The first `len` bytes of MGF1 with SHA-256. -/
def mgf1 (seed : List Nat) (len : Nat) : List Nat :=
  ((List.range ((len + 31) / 32)).flatMap fun i => sha256 (seed ++ beBytes 4 i)).take len

/-- EMSA-PSS verification for a 3,072-bit modulus: `em` is the 384-byte encoded message. -/
def pssOk (msg : List Nat) (em : Nat) : Bool :=
  let e := beBytes 384 em
  let h := (e.drop 351).take 32
  let db := (List.zipWith (fun a b => a ^^^ b) (e.take 351) (mgf1 h 351)).zipIdx.map fun p => if p.2 = 0 then p.1 % 128 else p.1
  e.getD 383 0 = 0xBC && decide (e.getD 0 0 < 128) && (db.take 318).all (· = 0) && db.getD 318 0 = 1 &&
    sha256 (List.replicate 8 0 ++ sha256 msg ++ db.drop 319) = h

/-- Does a signature over `msg` verify under the key with modulus `n`? -/
def sigVerifies (n : Nat) (msg : List Nat) (sig : Nat) : Bool := decide (sig < n) && pssOk msg (rsaPublic n sig)

/-- A key pair of the key store: modulus, private exponent, and the certificate of the public key in DER (R375). -/
structure DevKey where
  n : Nat := 0
  d : Nat := 0
  cert : List Nat := []
  deriving DecidableEq, Repr

/-- `acc` times `x` to the power `e`, modulo `n`, for an exponent of at most the given number of bits. -/
def powMod (n : Nat) : Nat → Nat → Nat → Nat → Nat
  | 0, _, _, acc => acc
  | f + 1, x, e, acc => if e = 0 then acc else powMod n f (x * x % n) (e / 2) (if e % 2 = 1 then acc * x % n else acc)

/-- The private operation. -/
def rsaPrivate (k : DevKey) (x : Nat) : Nat := powMod k.n 3072 x k.d 1

/-- EMSA-PSS encoding with a 32-byte salt, as a number. -/
def pssEncode (msg salt : List Nat) : Nat :=
  let h := sha256 (List.replicate 8 0 ++ sha256 msg ++ salt)
  let db := List.zipWith (fun a b => a ^^^ b) (List.replicate 318 0 ++ 1 :: salt) (mgf1 h 351)
  ofBeBytes ((db.zipIdx.map fun p => if p.2 = 0 then p.1 % 128 else p.1) ++ h ++ [0xBC])

/-- The 384 bytes of a signature over `msg` with a salt. -/
def sigMake (k : DevKey) (msg salt : List Nat) : List Nat := beBytes 384 (rsaPrivate k (pssEncode msg salt))

/-- A message of at most 318 bytes encrypted with RSAES-OAEP under a modulus, with a 32-byte seed. -/
def oaepSeal (n : Nat) (msg seed : List Nat) : List Nat :=
  let db := sha256 [] ++ List.replicate (318 - msg.length) 0 ++ 1 :: msg
  let mdb := List.zipWith (fun a b => a ^^^ b) db (mgf1 seed 351)
  beBytes 384 (rsaPublic n (ofBeBytes (0 :: List.zipWith (fun a b => a ^^^ b) seed (mgf1 mdb 32) ++ mdb)))

/-- The message that a private key decrypts from 384 bytes; none where they are no such encryption. -/
def oaepOpen (k : DevKey) (c : Nat) : Option (List Nat) :=
  let e := beBytes 384 (rsaPrivate k c)
  let mdb := e.drop 33
  let seed := List.zipWith (fun a b => a ^^^ b) ((e.drop 1).take 32) (mgf1 mdb 32)
  let db := List.zipWith (fun a b => a ^^^ b) mdb (mgf1 seed 351)
  let rest := (db.drop 32).dropWhile (· = 0)
  if c < k.n && e.getD 0 0 = 0 && db.take 32 = sha256 [] && rest.headD 0 = 1 then some (rest.drop 1) else none

/-- The SHA-256 of a modulus followed by the exponent as 4 big-endian bytes, as a number (R205, R369). -/
def keyDigest (n : Nat) : Nat := shaNat (beBytes 384 n ++ beBytes 4 65537)

end Sys2Proof.Machine
end

