-- ==== Sys2Proof/Machine/TideState.lean ====
section
/-! DEFINITION. The state of the tide unit and of the clock-domain crossings (02, R28 to R47). -/
namespace Sys2Proof.Machine

/-- What one tide source keeps (R28, R31). -/
structure SrcSt where
  /-- Qualified by its own row of R28. -/
  ok : Bool := false
  /-- Consecutive tides qualified, 65 for more than 64 (R31). -/
  run : Nat := 0
  /-- Its edge lay beyond MAX_OFFSET; it counts as unqualified until 64 tides within (R31). -/
  rej : Bool := false
  within : Nat := 0
  /-- The offset of its last edge against the timebase, in ns. -/
  off : Int := 0
  /-- Good Syncs, pulses in a row or agreeing beacons, whichever the source counts (R28). -/
  count : Nat := 0
  /-- Its last edge on the timebase and the tide number of that edge, where known. -/
  edge : Option Nat := none
  num : Option Nat := none
  deriving DecidableEq, Repr

/-- What the PTP time receiver keeps (R28, R29). -/
structure PtpSt where
  /-- Port state SLAVE, as the best master clock algorithm leaves it. -/
  slave : Bool := false
  lastSync : Option Nat := none
  interval : Nat := 0
  delay : Int := 0
  /-- PTP time minus timebase, from the last complete Sync. -/
  delta : Option Int := none
  /-- A two-step Sync whose Follow_Up has not come: sequence, reception instant, its own correction (R29). -/
  twoStep : Option (Nat × Nat × Nat) := none
  /-- The last complete Sync, sent and received, for the delay exchange. -/
  t1 : Nat := 0
  t2 : Nat := 0
  /-- The Delay_Req on its way: sequence and sending instant. -/
  req : Option (Nat × Nat) := none
  seq : Nat := 0
  /-- The best Announce dataset heard, by its comparison key and its port identity, and when. -/
  master : Option (Nat × Nat × Nat) := none
  deriving DecidableEq, Repr

/-- An action in the schedule table (R36, R37). -/
inductive SchedAct where
  | imageSwitch
  | reset (pan : Pan)
  | retire
  deriving DecidableEq, Repr

/-- The class of an action, which orders actions of one instant (R36). -/
def SchedAct.cls : SchedAct → Nat
  | .reset _ => 1
  | .imageSwitch => 2
  | .retire => 5

structure SchedEntry where
  tide : Nat
  phase : Nat
  act : SchedAct
  deriving DecidableEq, Repr

/-- The tide unit (R45 to R47) with its configuration from the image (R27, R31, R35). -/
structure TideUnit where
  st : TideState := .acquire
  src : TideSrc := .none
  numSet : Bool := false
  beaconTx : Bool := false
  ptp : SrcSt := {}
  tin : SrcSt := {}
  bcn : SrcSt := {}
  ptpRx : PtpSt := {}
  stuck : Bool := false
  stuckSeen : Bool := false
  srcRej : Bool := false
  beaconDup : Bool := false
  num : Nat := 0
  /-- The instant of the last edge on the timebase. -/
  edgeAt : Nat := 0
  /-- The instant at which that edge was counted, and the number taken at the last lock (R31, R151). -/
  countedAt : Nat := 0
  lockNum : Nat := 0
  period : Nat := 0x000F4240
  offset : Int := 0
  /-- The offset still to be slewed out, and when slewing began (R31). -/
  slewLeft : Int := 0
  slewAt : Nat := 0
  holdLimit : Nat := 0x07D0
  holdCnt : Nat := 0
  tideOvr : Nat := 0
  tinMiss : Nat := 0
  tinOow : Nat := 0
  tinGlitch : Nat := 0
  /-- The pulse train on TIDE_IN: last accepted pulse, expected edge, pulses missing in a row (R38). -/
  train : Option Nat := none
  expect : Nat := 0
  missRun : Nat := 0
  refused : Nat := 0
  /-- The schedule table in the order accepted, at most 512 (R36). -/
  sched : List SchedEntry := []
  /-- The beacon sender followed, by position (R43). -/
  bcnFrom : Option Nat := none
  order : List TideSrc := []
  maxOffset : Nat := 2000
  epoch : Nat := 0
  ptpDomain : Nat := 0
  deriving DecidableEq, Repr

/-- One leaf's crossing (R39 to R42, R47). -/
structure Crossing where
  ovr : Bool := false
  clkStop : Bool := false
  flushCnt : Nat := 0
  mergeCnt : Nat := 0
  /-- Records in the receiving queue and records waiting for room, by code and pan. -/
  queue : List (Nat × Pan) := []
  waiting : List (Nat × Pan) := []
  deriving DecidableEq, Repr

/-- What every pan keeps for its status word and its heartbeat (R16, R19); a group's STATE is computed (R18). -/
structure PanSt where
  /-- A leaf's STATE; in a group only `reset` is read: the group's own reset is in progress. -/
  st : PState := .reset
  cause : Nat := 0
  hb : Nat := 0
  hbLate : Bool := false
  deriving DecidableEq, Repr

end Sys2Proof.Machine
end

