-- ==== Sys2Proof/Machine/Xts.lean ====
section
/-! DEFINITION. AES-256-XTS on lines of 64 bytes (IEEE 1619; R152, R153). -/
namespace Sys2Proof.Machine
open Sys2Proof

/-! ### AES-256 -/

/-- One word of the key schedule from the word before, the word eight before and its number. -/
def keyWord (i : Nat) (prev old : List Nat) : List Nat :=
  let t := if i % 8 = 0 then
      xorBytes [subByte (prev.getD 1 0), subByte (prev.getD 2 0), subByte (prev.getD 3 0), subByte (prev.getD 0 0)] [2 ^ (i / 8 - 1), 0, 0, 0]
    else if i % 8 = 4 then prev.map subByte else prev
  xorBytes old t

/-- The key schedule from word 8 on; `ws` holds the words so far, newest first. -/
def keyWords : Nat → Nat → List (List Nat) → List (List Nat)
  | 0, _, ws => ws.reverse
  | n + 1, i, ws => keyWords n (i + 1) (keyWord i (ws.getD 0 []) (ws.getD 7 []) :: ws)

/-- The fifteen round keys of a 32-byte key. -/
def roundKeys (key : List Nat) : List (List Nat) :=
  let ws := keyWords 52 8 ((List.range 8).map fun i => (key.drop (4 * i)).take 4).reverse
  (List.range 15).map fun r => ((ws.drop (4 * r)).take 4).flatten

/-- AES-256 of one block under a 32-byte key. -/
def aes256 (key block : List Nat) : List Nat :=
  let ks := roundKeys key
  let s := ((ks.drop 1).take 13).foldl (fun s k => xorBytes (mixColumns (shiftRows (s.map subByte))) k) (xorBytes block (ks.headD []))
  xorBytes (shiftRows (s.map subByte)) (ks.getLastD [])

/-- The inverse of the substitution box. -/
def invByte (x : Nat) : Nat := sboxRows.flatten.idxOf x

def invShift (s : List Nat) : List Nat := (List.range 16).map fun i => s.getD ((i + 12 * (i % 4)) % 16) 0

/-- MixColumns has order 4. -/
def invMix (s : List Nat) : List Nat := mixColumns (mixColumns (mixColumns s))

/-- The inverse of AES-256. -/
def aes256Inv (key block : List Nat) : List Nat :=
  let ks := (roundKeys key).reverse
  let s := (invShift (xorBytes block (ks.headD []))).map invByte
  let s := ((ks.drop 1).take 13).foldl (fun s k => (invShift (invMix (xorBytes s k))).map invByte) s
  xorBytes s (ks.getLastD [])

/-! ### XTS -/

/-- A key pair: the data key and the tweak key, 32 bytes each, as numbers. -/
structure XtsKey where
  data : Nat := 0
  tweak : Nat := 0
  deriving DecidableEq, Repr

/-- The memory codes of a tweak (R153). -/
inductive XtsMem where
  | tier1 | tier2 | seal_
  deriving DecidableEq, Repr

def XtsMem.code : XtsMem → Nat
  | .tier1 => 1
  | .tier2 => 2
  | .seal_ => 3

/-- The tweak of a line: its index within the memory, then the memory code (R153). -/
def xtsTweak (m : XtsMem) (line : Nat) : Nat := line % 2 ^ 64 + m.code * 2 ^ 64

/-- Multiplication by x of a tweak block as IEEE 1619 numbers its bits. -/
def xtsDouble (t : Nat) : Nat := if t < 2 ^ 127 then 2 * t else (2 * t - 2 ^ 128) ^^^ 0x87

/-- The tweak blocks of the four blocks of a line. -/
def xtsBlocks (k : XtsKey) (tweak : Nat) : List Nat :=
  let t := ofLeBytes (aes256 (leBytes 32 k.tweak) (leBytes 16 tweak))
  [t, xtsDouble t, xtsDouble (xtsDouble t), xtsDouble (xtsDouble (xtsDouble t))]

/-- Every block of a line through a block function between two additions of its tweak block. -/
def xtsLine (f : List Nat → List Nat) (k : XtsKey) (tweak : Nat) (l : List Nat) : List Nat :=
  (xtsBlocks k tweak).zipIdx.flatMap fun x =>
    let t := leBytes 16 x.1
    xorBytes (f (xorBytes ((l.drop (16 * x.2)).take 16) t)) t

/-- A line as a memory holds it, from its plain bytes (R152, R153). -/
def xtsEncrypt (k : XtsKey) (m : XtsMem) (line : Nat) (l : List Nat) : List Nat := xtsLine (aes256 (leBytes 32 k.data)) k (xtsTweak m line) l

/-- A line's plain bytes, from what a memory holds. -/
def xtsDecrypt (k : XtsKey) (m : XtsMem) (line : Nat) (l : List Nat) : List Nat := xtsLine (aes256Inv (leBytes 32 k.data)) k (xtsTweak m line) l

/-- A line of a granule that the sluice moves: decrypted at its source, encrypted again under the destination's key and tweak (R153). -/
def xtsMove (k1 : XtsKey) (m1 : XtsMem) (line1 : Nat) (k2 : XtsKey) (m2 : XtsMem) (line2 : Nat) (l : List Nat) : List Nat :=
  xtsEncrypt k2 m2 line2 (xtsDecrypt k1 m1 line1 l)

end Sys2Proof.Machine
end

