-- ==== Sys2Proof/Machine/HubState.lean ====
section
/-! DEFINITION. The state of the hub die: power, resets, boot and trust, OMP, seal store, management bus, monitors, injection, spares (11, 17 to 23). -/
namespace Sys2Proof.Machine

/-- Pins and supplies (R427 to R431). -/
structure Power where
  pwrEn : Bool := true
  aux : Bool := true
  p54v : Bool := true
  stable : Bool := true
  rails : Bool := true
  /-- The rails are being ramped up (R430). -/
  ramping : Bool := false
  pgOut : Bool := true
  rstN : Bool := true
  slotPins : Nat := 0
  /-- The power-good or reset-release instant of R364. -/
  pgAt : Nat := 0
  deriving DecidableEq, Repr

/-- Why a reset starts: the reasons of EV_RST_UNIT and EV_RST_DIE (R359). -/
inductive RstReason where
  | liveness | clkstop | internal | service | escalated
  deriving DecidableEq, Repr

def RstReason.code : RstReason → Nat
  | .liveness => 1 | .clkstop => 2 | .internal => 3 | .service => 4 | .escalated => 5

/-- A unit, port or die reset in progress. -/
structure RstRun where
  pan : Pan
  reason : RstReason
  at_ : Nat
  deriving DecidableEq, Repr

/-- States of a hub core (R362). -/
inductive HcState where
  | active | standby | loading | fault
  deriving DecidableEq, Repr

def HcState.code : HcState → Nat
  | .active => 0 | .standby => 1 | .loading => 2 | .fault => 3

/-- The reset sequencer, the watchdog and the hub cores (R341 to R362). -/
structure RstSt where
  lastCause : Nat := 0
  running : List RstRun := []
  /-- Leaves whose reset is wanted by a liveness failure and by a stopped clock (R344). -/
  notLive : List Pan := []
  stopped : List Pan := []
  /-- Units that did not come back from their reset: step 4 of R347 puts a spare in their place. -/
  failed : List Pan := []
  unitCnt : Nat := 0
  portCnt : Nat := 0
  dieCnt : Nat := 0
  escalated : Nat := 0
  moduleResets : Nat := 0
  lastPan : Nat := 0xFFFFFFFF
  hc0 : HcState := .active
  hc1 : HcState := .standby
  /-- When each loading core's reset began. -/
  loadAt : Tbl Nat := []
  /-- Consecutive windows each core has missed. -/
  missed : Tbl Nat := []
  handover : Bool := false
  handoverReady : Bool := false
  fwAct : Nat := 0
  fwStby : Nat := 0
  missedWin : Nat := 0
  switchovers : Nat := 0
  lastSilent : Nat := 0xFF
  declared : Nat := 0
  /-- The hub die pan's FAULT latch, and the retirement latch (R148, R357, R402). -/
  hubFault : Bool := false
  retired : Bool := false
  /-- Units that a spare has replaced, by the pan they had, with their own pan state: RETIRED (R17, R22). -/
  replaced : List (Pan × PanSt) := []
  /-- Spares used of each die's factory count (R22), by die. -/
  spareMe : Tbl Nat := []
  spareRk : Tbl Nat := []
  spareCe : Tbl Nat := []
  deriving DecidableEq, Repr

/-- The module record (R368). -/
structure ModuleRec where
  period : Nat := 1000000
  holdLimit : Nat := 2000
  maxOffset : Nat := 2000
  epoch : Nat := 0
  sources : List TideSrc := []
  beaconTx : Bool := false
  ptpDomain : Nat := 0
  calEvery : Nat := 256
  silentTides : Nat := 8
  attach : Bool := false
  calPhase : Nat := 500000
  rake : List Nat := [1, 24, 48, 30]
  ceThresh : Nat := 1024
  repairThr : Nat := 10
  udpPort : Nat := 30211
  entropy : Nat := 16
  mplUs : Nat := 4000
  rtoMin : Nat := 50
  targetDelay : Nat := 20
  unkRate : Nat := 1024
  ompPort : Nat := 30212
  dscp : List Nat := List.replicate 8 0
  modSink : Nat := 0
  powerCap : Nat := 600
  ports : List PortRec := List.replicate 7 {}
  portAddr : List Nat := List.replicate 7 0
  /-- CAK and CKN of each port, from the confidential part. -/
  macKeys : List Nat := List.replicate 7 0
  deriving DecidableEq, Repr

/-- An operator's entry (R377): what names its key, and its roles. -/
structure OperatorRec where
  modulus : Nat := 0
  roles : Nat := 0
  deriving DecidableEq, Repr

/-- A publisher key (R205), by its digest. -/
structure KeyRec where
  index : Nat := 0
  modulus : Nat := 0
  digest : Nat := 0
  program : Bool := false
  deriving DecidableEq, Repr

/-- An adoption set (R333, R368). -/
structure AdoptRec where
  position : Nat := 0
  torus : TorusRec := {}
  /-- Port entries, addresses, CAKs and CKNs. -/
  ports : Option (List PortRec × List Nat × List Nat) := none
  groups : List GroupRec := []
  hrv : HrvRec := {}
  ctxs : List CtxRec := []
  deriving DecidableEq, Repr

/-- The configuration: every record of an image, decoded (R367). -/
structure Kartile where
  mod : ModuleRec := {}
  slu : SluRec := {}
  qos : QosRec := {}
  num : NumRec := {}
  torus : TorusRec := {}
  groups : List GroupRec := []
  hrv : HrvRec := {}
  keys : List KeyRec := []
  ctxs : List CtxRec := []
  adopt : List AdoptRec := []
  operators : List OperatorRec := []
  hubFw : Nat := 0
  rkFw : Nat := 0
  svn : Nat := 0
  svnCommit : Bool := false
  rootN : Nat := 0
  ownerN : Nat := 0
  headerSha : Nat := 0
  hubFwSha : Nat := 0
  rkFwSha : Nat := 0
  /-- The module's position in the torus, or its spare position. -/
  position : Nat := 0
  deriving DecidableEq, Repr

/-- What reading a slot's image finds (R369 to R371): the refusal's reason and directory index, or the configuration. -/
inductive ImageVerdict where
  | refuse (reason dirIndex : Nat)
  | accept (c : Kartile)
  deriving DecidableEq, Repr

/-- An image slot of the configuration flash (R372). -/
structure SlotSt where
  valid : Bool := false
  /-- A writing of the slot has begun, by its erasure, and no check has followed. -/
  writing : Bool := false
  /-- The bytes written since the slot was erased, by offset, not 0xFF. -/
  bytes : List Host.Cell := []
  deriving DecidableEq, Repr

/-- An OMP session (R380 to R382, R417). -/
structure Session where
  op : Nat := 0
  confirmed : Bool := false
  /-- The session key, and the bytes the operator's CONFIRM must sign (R381). -/
  key : List Nat := []
  signed : List Nat := []
  seq : Nat := 0
  /-- The last request accepted, its bytes, with the status and body of its response (R380). -/
  last : Option (List Nat × Nat × List Nat) := none
  bad : Nat := 0
  lastAt : Nat := 0
  ctxSel : Nat := 0
  numSel : Nat := 0
  grpSel : Nat := 0
  rstPan : Nat := 0
  rstDelay : Nat := 2
  /-- Captured words, by register address (R44, R200, R231, R252, R340). -/
  caps : Tbl Nat := []
  /-- The context whose CTX_PAIR was captured, and how many refusals it had counted by then (R6, R231). -/
  pairCtx : Nat := 0
  pairTotal : Nat := 0
  deriving DecidableEq, Repr

/-- Boot, slots, fuses and sessions (R363 to R388). -/
structure SecSt where
  /-- Step of the boot as BOOT_STATE codes it (R388), and whether the ROM has begun: until then the dies are held in reset (R363). -/
  bootState : Nat := 0
  booting : Bool := false
  /-- Boot has been through the configuration check; the module has reported ready (R363). -/
  configured : Bool := false
  ready : Bool := false
  recovery : Bool := false
  bootLate : Bool := false
  slot : Nat := 0
  fallback : Bool := false
  unlock : Nat := 0
  unlockNext : Nat := 0
  /-- Fuses and device constants: ROOT_HASH, OWNER_HASH where blown, the serial, the boot ROM's digest, the identity key and the image key (R369, R375, R376). -/
  rootHash : Nat := 0
  ownerHash : Option Nat := none
  romSha : Nat := 0
  identKey : DevKey := {}
  imageKey : DevKey := {}
  serial : Nat := 0
  minSvn : Nat := 0
  svn : Nat := 0
  slot0 : SlotSt := {}
  slot1 : SlotSt := {}
  select : Nat := 0
  switchPend : Option Nat := none
  /-- The configuration of the slot named by the scheduled switch, checked at the request (R356). -/
  switchCfg : Option Kartile := none
  authFail : Nat := 0
  tagFail : Nat := 0
  glitchVolt : Nat := 0
  glitchClk : Nat := 0
  glitchPend : Option Bool := none
  reason : Nat := 0
  dirIndex : Nat := 0xFFFF
  bootMs : Nat := 0
  /-- The boot attestation report (R363, R376). -/
  report : List Nat := []
  sessions : Tbl Session := []
  /-- Records held until the module sink stream is usable, and whether one was dropped (R364). -/
  hold : List EventRec := []
  holdGap : Bool := false
  sinkUp : Bool := false
  /-- The tier keys exist; the key pairs of tier 1 and of tier 2, as the boot has generated them (R152). -/
  tierKeys : Bool := false
  t1Key : XtsKey := {}
  t2Key : XtsKey := {}
  deriving DecidableEq, Repr

/-- A tensor entry of a seal package (R203). -/
structure TensorRec where
  srcFmt : Nat := 0
  rows : Nat := 1
  cols : Nat := 1
  off : Nat := 0
  len : Nat := 0
  deriving DecidableEq, Repr

/-- A package in the seal store (R202, R207): what its manifest says, the manifest's bytes, and its body as its chunks hold it under the per-device key, in plain
bytes (R152). -/
structure Package where
  id : Nat
  ver : Nat
  kind : Nat := 0
  chunks : Nat := 1
  key : Nat := 0
  tensors : List TensorRec := []
  man : List Host.Cell := []
  body : List Host.Cell := []
  bodyLen : Nat := 0
  deriving DecidableEq, Repr

/-- A sealing in progress (R206). -/
structure SealJob where
  stream : Nat
  winId : Nat
  winGen : Nat
  bytes : Nat
  /-- How far the file has been read, and the manifest's bytes until it is checked. -/
  done : Nat := 0
  man : List Host.Cell := []
  /-- The package, once its manifest has been checked, with what of its body has been written. -/
  pkg : Option Package := none
  reserved : Nat := 0
  deriving DecidableEq, Repr

/-- One copy of the seal store's directory, with its sequence number (R207). -/
structure SealDir where
  seq : Nat := 0
  pkgs : List Package := []
  deriving DecidableEq, Repr

/-- The seal store (R202 to R211): the two copies of its directory, and a sealing in progress. -/
structure SealSt where
  dir0 : SealDir := {}
  dir1 : SealDir := {}
  job : Option SealJob := none
  deriving DecidableEq, Repr

/-- The packages stored: those of the newer copy of the directory (R207). -/
def SealSt.pkgs (s : SealSt) : List Package := if s.dir0.seq < s.dir1.seq then s.dir1.pkgs else s.dir0.pkgs

/-- A frame on the management bus (R393, R394). -/
inductive MgtFrame where
  | heartbeat (pos flags serial tide hb status : Nat)
  | beacon (pos flags serial tide delay : Nat)
  | claim (pos flags serial tide target takeover : Nat)
  | takeover (pos flags serial tide target : Nat)
  | event (pos flags serial tide : Nat) (r : EventRec)
  | capacity (pos flags serial tide : Nat) (words : List Nat)
  | omp (dst msgId frag : Nat) (last : Bool) (bytes : List Nat)
  deriving DecidableEq, Repr

/-- A queued frame (R395): its frame, its deadline in tides, its attempts, its priority. -/
structure MgtQ where
  f : MgtFrame
  deadline : Option Nat := none
  attempts : Nat := 0
  prio : Nat
  deriving DecidableEq, Repr

/-- What the watcher keeps of a position (R352, R392, R393). -/
structure PeerSt where
  serial : Nat := 0
  hb : Nat := 0
  status : Nat := 0
  heard : Bool := false
  /-- A frame has come in the interval in progress. -/
  inInterval : Bool := false
  missing : Nat := 0
  declared : Bool := false
  declaredTide : Nat := 0
  capacity : List Nat := []
  spare : Bool := false
  deriving DecidableEq, Repr

/-- A partial OMP message on the bus (R394). -/
structure Partial where
  src : Nat
  msgId : Nat
  next : Nat := 0
  bytes : List Nat := []
  lastAt : Nat := 0
  /-- Its last fragment has come. -/
  done : Bool := false
  deriving DecidableEq, Repr

/-- The management MAC and the watcher (R389 to R400). -/
structure MgtSt where
  slotId : Nat := 0
  slotBad : Bool := false
  nslot : Nat := 0
  hbK : Nat := 0
  heard : Nat := 0
  txFrames : Nat := 0
  txDiscard : Nat := 0
  collisions : Nat := 0
  excessive : Nat := 0
  late : Nat := 0
  rxFrames : Nat := 0
  fcsErr : Nat := 0
  underrun : Nat := 0
  txThresh : Nat := 0x040
  mirDrop : Nat := 0
  badFrame : Nat := 0
  jamTides : Nat := 0
  posConflict : Nat := 0
  jammed : Bool := false
  /-- The tide in progress is a bus-failure tide: 0 carrier, 1 attempts. -/
  jamNow : Option Nat := none
  queue : List MgtQ := []
  /-- The frame being sent, and the frame waiting for its back-off with the slot times to wait from an instant. -/
  sending : Option MgtQ := none
  /-- When the frame being sent ends, or the last one ended. -/
  txEnd : Nat := 0
  /-- The interval, plus one, whose heartbeat has been queued; the heartbeat and status word settled at the interval's first edge (R392). -/
  hbTide : Nat := 0
  hbVal : Nat := 0
  hbStatus : Nat := 0
  /-- Bus-failure tides of the interval in progress (R397). -/
  jamIn : Nat := 0
  backoff : Option (MgtQ × Nat) := none
  mirror : List EventRec := []
  parts : List Partial := []
  peers : Tbl PeerSt := []
  deriving DecidableEq, Repr

/-- A temperature site (R401, R412). -/
structure Site where
  valid : Bool := false
  failed : Bool := false
  maxC : Option Int := none
  tempC : Int := 0
  /-- The site is reported high; samples at 105 °C or more in a row; failed calibrations in a row. -/
  high : Bool := false
  trip : Nat := 0
  calFails : Nat := 0
  deriving DecidableEq, Repr

/-- A voltage rail (R401, R412). -/
structure Rail where
  warn : Bool := false
  fault : Bool := false
  mv : Nat := 0
  run : Nat := 0
  /-- The tide of the last EV_MON_VOLT, plus one. -/
  raised : Nat := 0
  deriving DecidableEq, Repr

/-- Monitors and operating point (R401 to R407, R412). -/
structure MonSt where
  op : Nat := 0
  target : Nat := 0
  changing : Bool := false
  voltWarn : Bool := false
  capRej : Bool := false
  capSrc : Bool := false
  capW : Nat := 600
  peakW : Nat := 0
  powerW : Nat := 0
  opChanges : Nat := 0
  overTides : Nat := 0
  overRun : Nat := 0
  trips : Nat := 0
  lastSite : Nat := 0
  lastC : Nat := 0
  sites : Tbl Site := []
  rails : Tbl Rail := []
  factory : Tbl Nat := []
  nowCnt : Tbl Nat := []
  /-- Stacks still to retrain in order, the rate they go to, and the one retraining with its rate. -/
  stackQ : List Nat := []
  rate : Nat := 0
  stackNow : Option (Nat × Nat) := none
  /-- The tide, plus one, at which the last stack began. -/
  stackTide : Nat := 0
  raising : Bool := false
  /-- The operating point CCLK runs at. -/
  cclk : Nat := 0
  /-- The last calibration slot's number, and the tide, plus one, it fell in. -/
  slotN : Nat := 0
  slotTide : Nat := 0
  /-- The tide from which CAL_EVERY and the slot phase in force count: that of the last image switch (R151). -/
  slotFrom : Nat := 0
  deriving DecidableEq, Repr

/-- A packet held by injection, released at an instant (R409). -/
structure TstHold where
  at_ : Nat
  arr : Arrival
  pkt : Packet
  deriving DecidableEq, Repr

/-- Perturbation injection (R408 to R413). -/
structure TstSt where
  enable : Bool := false
  active : Bool := false
  /-- Switched off at an edge while packets are still held (R410). -/
  stopping : Bool := false
  allCtx : Bool := false
  seed : Nat := 0
  ctxs : Tbl Nat := []
  fabric : Nat := 0
  mem : Nat := 0
  port : Nat := 0x64
  xing : Nat := 0
  drop : Nat := 0
  reord : Nat := 0x0A
  cnt : Nat := 0
  held : List TstHold := []
  arrivals : Tbl Nat := []
  deriving DecidableEq, Repr

/-- The spare role and the receive area (R320 to R340). -/
structure SpareSt where
  displaced : Bool := false
  adopted : Option Nat := none
  /-- Receive slots: bytes written, by offset; the bytes in use of each slot; the stream that each receives from. -/
  area : List Host.Cell := []
  slot0 : Nat := 0
  slot1 : Nat := 0
  slotFrom : Tbl Nat := []
  areaGranules : Nat := 0
  /-- Copies in the receive area that an uncorrectable error has damaged: slot and copy index (R321). -/
  areaBad : List (Nat × Nat) := []
  destFail : Nat := 0
  areaFull : Nat := 0
  /-- The claim this spare has made: position and takeover tide. Claims heard: position, spare position. -/
  claim : Option (Nat × Nat) := none
  claims : List (Nat × Nat) := []
  /-- The module has left its groups and the spare path has not reinstated it (R35, R313). -/
  groupsLeft : Bool := false
  /-- Positions for which EV_SPR_NONE has been raised. -/
  none_ : List Nat := []
  deriving DecidableEq, Repr

end Sys2Proof.Machine
end

