-- ==== Sys2Proof/Machine/CommandTypes.lean ====
section
/-! DEFINITION. What the commands carry besides plain numbers. -/
namespace Sys2Proof.Machine

/-- Atomic memory operations of the A extension (R126, R127). -/
inductive AmoOp where
  | swap | add | xor | and_ | or_ | min | max | minu | maxu
  deriving DecidableEq, Repr

/-- A raker core's access to a context address (R127); sizes in bytes. -/
inductive RkAccess where
  | load (size : Nat) (signed : Bool) (rd : Nat)
  | fload (size : Nat) (fd : Nat)
  | store (size : Nat) (value : Nat)
  | lr (size rd : Nat)
  | sc (size value rd : Nat)
  | amo (op : AmoOp) (size value rd : Nat)
  deriving DecidableEq, Repr

/-- The faults of R134 that need no context access. -/
inductive RkTrap where
  | illegal | ebreak | local_
  deriving DecidableEq, Repr

/-- Whose line a memory line is, as the hub's owner table says (R148). -/
inductive LineOwner where
  | context (ctx : Nat)
  /-- A context's granule, read as the source of its migration. -/
  | source (ctx gran : Nat)
  /-- A seal package, in the seal store. -/
  | package (id ver : Nat)
  | free
  /-- Hub tables in tier 1, and whether the other copy is bad as well. -/
  | hubTables (both : Bool)
  | linkSram (ctx : Nat)
  /-- A line of the receive area (R321): slot and copy index. -/
  | area (slot copy : Nat)
  deriving DecidableEq, Repr

/-- A place a move can name (R170). -/
inductive MoveTo where
  | work (die : Nat)
  | writeBack
  | rest (p : Place)
  deriving DecidableEq, Repr

/-- An OMP request (R378): the header's fields, the body's bytes, the TAG. -/
structure OmpReq where
  ver : Nat := 1
  flags : Nat := 0
  req : Nat := 0
  session : Nat := 0
  status : Nat := 0
  seq : Nat := 0
  msgId : Nat := 0
  body : List Nat := []
  tag : List Nat := []
  /-- The header's RSV bytes, at 0x05 and from 0x12 on, as one number. -/
  rsv : Nat := 0
  /-- It came in fragments over the management bus, not in a UDP datagram. -/
  bus : Bool := false
  /-- Where it came from, and its answer goes: the IPv6 address and UDP port, or the bus node's MAC address; and what the MACsec check finds of the datagram's frame. -/
  src : Nat := 0
  srcPort : Nat := 0
  mac : MacsecIn := .valid
  deriving DecidableEq, Repr

/-- What the module draws to open a session, of 32 bytes each: its nonce, the session key, the seed of its encryption and the salt of the signature (R381). -/
structure OpenDraw where
  nonce : Nat := 0
  key : Nat := 0
  seed : Nat := 0
  salt : Nat := 0
  deriving DecidableEq, Repr

/-- What a sealed load meets in the seal store (R209, R210): the bytes of the package file that read wrong, by offset, and the chunks that fail their LDPC code. -/
structure SealRead where
  wrong : List (Nat × Nat) := []
  ldpc : List Nat := []
  deriving DecidableEq, Repr

/-- What reading a sealed body back meets (R206 step 4): the bytes that read wrong, by offset in the body. -/
structure SealFound where
  wrong : List (Nat × Nat) := []
  deriving DecidableEq, Repr

/-- A copy of one region, or of the scalar record (TENSOR_ID 0xFFFF), as a restore meets it (R327, R329). -/
structure Copy where
  tensor : Nat
  /-- 0 BUDDY0, 1 BUDDY1, 2 host. -/
  holder : Nat
  /-- The hash of its bytes, by this module or by the holder; the digest it carries; an uncorrectable error met. -/
  sha : Nat
  carried : Nat
  ue : Bool := false
  /-- Its bytes, where fetched whole. -/
  bytes : List Nat := []
  deriving DecidableEq, Repr

/-- The scalar record of a capture (R319). -/
structure ScalarRec where
  step : Nat := 0
  pos : Nat := 0
  seedSha : Nat := 0
  /-- Step and data position of the last block drawn, per random stream. -/
  counters : Tbl (Nat × Nat) := []
  epoch : Nat := 0
  groupSha : Nat := 0
  recipes : Tbl (Nat × Nat) := []
  winGens : Tbl Nat := []
  curBuf : Nat := 0
  version : Nat := 0
  sched : Option SchedRec := none
  /-- SHA-256 of each saved region's captured bytes, by TENSOR_ID. -/
  digests : Tbl Nat := []
  deriving DecidableEq, Repr

end Sys2Proof.Machine
end

