-- ==== Sys2Proof/Syntax.lean ====
section
/-! DEFINITION. The commands of the block: one constructor per row of the opcode table, in the table's order. -/
namespace Sys2Proof
open Sys2Proof.Machine

/-- The commands. What a command carries is what the outside world or the unit that issues it supplies; every other effect comes from the state. -/
inductive Instr where
  | tideEdge (stalled : List Nat) (overrun : List Nat) (watts : Nat)
  | ptpSyncRx (mac : MacsecIn) (domain seq : Nat) (twoStep : Bool) (t1 corr interval : Nat)
  | ptpFollowUpRx (mac : MacsecIn) (domain seq t1 corr : Nat)
  | ptpDelayRespRx (mac : MacsecIn) (domain seq t4 corr : Nat)
  | ptpDelayReqTx
  | ptpSyncTimeout
  | tideInPulse (high : Nat)
  | tideInWindowClose
  | tideStuck
  | tideStuckClear
  | beacon (l : List Nat) (age : Nat)
  | beaconLost
  | sourcePromote
  | slewDone
  | holdoverLimit
  | xingRecordDeliver (leaf : Nat) (arrived : List (Nat × Nat))
  | xingClkstop (leaf flushed : Nat)
  | qcmd (core rd rs1 pc : Nat)
  | init (me : Nat)
  | initDone (me : Nat)
  | mma (me : Nat)
  | mmaDone (me : Nat)
  | close (me : Nat)
  | closeDone (me lane : Nat)
  | gaugeRecompute (me : Nat)
  | qlaunch (core rd rs1 pc : Nat)
  | streamStart (ve : Nat)
  | setvl (ve : Nat)
  | loop (ve : Nat)
  | endS (ve : Nat)
  | add (ve : Nat)
  | mul (ve : Nat)
  | fma (ve : Nat)
  | min (ve : Nat)
  | max (ve : Nat)
  | cmp (ve : Nat)
  | sel (ve : Nat)
  | cvt (ve : Nat)
  | perm (ve : Nat)
  | bcast (ve : Nat)
  | ld (ve : Nat)
  | st (ve : Nat)
  | upd (ve : Nat)
  | rsum (ve : Nat)
  | rsumsq (ve : Nat)
  | rmax (ve : Nat)
  | rmin (ve : Nat)
  | streamComplete (ve : Nat)
  | qwait (core rd num pc : Nat)
  | qtest (core rd num pc : Nat)
  | qfence (core pc : Nat)
  | rkContextAccess (core pc addr : Nat) (acc : RkAccess)
  | fence (core pc : Nat)
  | rkIllegalInstr (core pc : Nat) (trap : RkTrap)
  | programStart (core ctx : Nat)
  | exit (core pc code : Nat)
  | eventCall (core pc a0 a1 : Nat)
  | tideCall (core pc : Nat)
  | waitTide (core pc a0 a1 : Nat)
  | waitTideWake (core : Nat)
  | skeyrWrite (core pc a0 : Nat)
  | skeyrRead (core pc a0 : Nat)
  | skeyrFlush (core pc a0 : Nat)
  | skeyrWait (core pc a0 : Nat)
  | allReduce (core pc a0 : Nat)
  | reduceScatter (core pc a0 : Nat)
  | allGather (core pc a0 : Nat)
  | allToAll (core pc a0 : Nat)
  | broadcast (core pc a0 : Nat)
  | permute (core pc a0 : Nat)
  | barrier (core pc a0 : Nat)
  | qsend (core pc a0 : Nat)
  | qrecv (core pc a0 : Nat)
  | collWait (core pc a0 : Nat)
  | memLineRead (mc line : Nat) (wrong : List Nat) (owner : LineOwner) (seq : Option Nat)
  | memLineWrite (mc line : Nat) (whole : Bool) (wrong : List Nat) (owner : LineOwner) (seq : Option Nat)
  | rakeRead (mc line : Nat) (wrong : List Nat) (owner : LineOwner) (margin : Bool)
  | rakePeriodEnd (mc : Nat)
  | rakeStart (m : OmpReq)
  | calibSlot (margin : List (Nat × Nat)) (siteFail : List Nat) (ring : Nat)
  | calibDone (mc : Nat) (ok : Bool) (us : Nat)
  | stackRetrain
  | cclkRaise
  | stageStart (ctx gran die : Nat) (prefetch : Bool)
  | stageDone (ctx gran die : Nat)
  | moveStart (ctx gran : Nat) (dst : MoveTo)
  | moveSwitch (ctx gran : Nat)
  | oldCopyFree (ctx gran : Nat) (place : Place)
  | sluRequestResume (n : Nat)
  | sluStallTimeout (n : Nat)
  | offloadOut (ctx tensor : Nat)
  | offloadGranule (ctx gran : Nat)
  | returnStart (ctx : Nat)
  | returnDeadline (ctx tensor : Nat)
  | collPeerWait (ctx group seq : Nat)
  | arbiterGrant (arb : ArbId) (transfers : List Req)
  | ctxCreate (ctx : Nat)
  | sealLoadRegion (ctx : Nat) (found : SealRead)
  | ctxCreated (ctx : Nat)
  | firstLearnStart (ctx : Nat)
  | phaseSwitchLearn (ctx : Nat)
  | learnDone (ctx : Nat)
  | swap (ctx : Nat)
  | pairBuilding (ctx : Nat)
  | pairWaitTimeout (ctx : Nat)
  | phaseOverrun (ctx : Nat)
  | learnLate (ctx : Nat)
  | teardownOpsEnded (ctx : Nat)
  | teardownZeroised (ctx : Nat) (bad : List (Nat × Nat))
  | quarantineEnd (ctx : Nat) (index : Option Nat)
  | write (arr : Arrival) (p : Packet)
  | read (arr : Arrival) (p : Packet)
  | readResp (arr : Arrival) (p : Packet)
  | flush (arr : Arrival) (p : Packet)
  | flushAck (arr : Arrival) (p : Packet)
  | ack (arr : Arrival) (p : Packet)
  | sack (arr : Arrival) (p : Packet)
  | nak (arr : Arrival) (p : Packet)
  | cancel (arr : Arrival) (p : Packet)
  | event (arr : Arrival) (p : Packet)
  | reduce (arr : Arrival) (p : Packet)
  | permuteSeg (arr : Arrival) (p : Packet)
  | skyPacketTx (stream : Nat)
  | ackTimer (stream : Nat)
  | rtoExpiry (stream psn : Nat)
  | giveUp (stream psn : Nat)
  | readReissue (stream msgId : Nat)
  | flushResend (stream msgId : Nat)
  | recordExpiry (stream msgId : Nat)
  | resyncWaitEnd (stream : Nat)
  | holdBufferPlace (die : Nat)
  | entry (arr : Arrival) (p : Packet)
  | report (arr : Arrival) (p : Packet)
  | abort (arr : Arrival) (p : Packet)
  | credit (arr : Arrival) (p : Packet)
  | rereq (arr : Arrival) (p : Packet)
  | restore (arr : Arrival) (p : Packet)
  | ready (arr : Arrival) (p : Packet)
  | collectiveStart (engine : Nat)
  | collectiveDone (ctx group seq : Nat)
  | barrierRelease (ctx group seq : Nat)
  | permuteStart (ctx group seq : Nat)
  | epochAdvance (ctx group seq : Nat)
  | shardWaitTimeout (ctx group seq : Nat)
  | shardAbortTimeout (ctx group seq : Nat)
  | shardRelease (ctx group seq : Nat)
  | captureTimer (ctx : Nat)
  | harvestComplete (ctx : Nat)
  | destFailTimeout (ctx dest : Nat)
  | restoreFetchDone (ctx : Nat) (copies : List Copy)
  | restoreResume (ctx : Nat)
  | positionSilent (pos : Nat)
  | spareClaim (pos : Nat)
  | spareTakeover
  | heartbeat (l : List Nat)
  | claim (l : List Nat)
  | takeover (l : List Nat)
  | capacity (l : List Nat)
  | heartbeatSlot
  | mgtFrameTx
  | mgtCollision (late : Bool) (slots : Nat)
  | mgtBackoffExpiry
  | txUnderrun
  | frameDeadline
  | busJammed
  | ompFragment (l : List Nat)
  | fragmentTimeout (src msgId : Nat)
  | portAnDone (port abil : Nat)
  | portTrainingDone (port : Nat)
  | mkaLive (port : Nat)
  | sakRekey (port : Nat)
  | portLinkDown (port : Nat)
  | ucwLimit (port corrected uncorrectable : Nat)
  | portRetrainTimeout (port : Nat) (loopOk : Bool)
  | lnkRetrain (m : OmpReq)
  | neighborSolicitation (mac : MacsecIn) (port : Nat) (m : NdMsg)
  | pauseFrame (port : Nat)
  | otherFrameRx (arr : Arrival)
  | unitReset (pan : Nat) (reason : RstReason)
  | unitResetDone (pan : Nat)
  | unitResetTimeout (pan : Nat)
  | portReset (port : Nat) (reason : RstReason)
  | dieReset (pan : Nat) (reason : RstReason)
  | dieResetDone (pan : Nat) (failed : List Nat)
  | dieResetTimeout (pan : Nat)
  | moduleReset (cause : Nat)
  | rstNAssert
  | rstNRelease
  | hubCoreSilent (core : Nat)
  | hubCoreStandby (core : Nat)
  | hubReloadTimeout (core : Nat)
  | fwHandoverReady
  | handoverDeadline
  | imageSwitch
  | serviceReset (m : OmpReq)
  | serviceResetDue
  | retireRequest (m : OmpReq)
  | retire
  | bootRom (pos : Nat) (untrained : List Nat) (margin : List (Nat × Nat))
  | bootReady (salt : Nat)
  | bootLate
  | identity (m : OmpReq)
  | attest (m : OmpReq) (salt : Nat)
  | panRead (m : OmpReq)
  | openS (m : OmpReq) (d : OpenDraw)
  | confirm (m : OmpReq)
  | closeSession (m : OmpReq)
  | sessionTimeout (session : Nat)
  | regRead (m : OmpReq)
  | regWrite (m : OmpReq)
  | capWrite (m : OmpReq)
  | tstEnable (m : OmpReq)
  | reorderRelease
  | slotWrite (m : OmpReq)
  | slotCheck (m : OmpReq) (pos : Nat)
  | switch (m : OmpReq) (pos : Nat)
  | seal (m : OmpReq)
  | sealCommit (found : SealFound)
  | erase (m : OmpReq)
  | unlock (m : OmpReq)
  | tempSample (readings : List Int)
  | voltSample (readings : List Nat)
  | powerOver
  | glitchDetect (volt : Bool)
  | pwrEnRise
  | powerGood
  | pwrEnFall
  | p54vLoss
  | aux3v3Loss
  | stackRetrainDone
  | portResetTimeout (port : Nat)
  | ptpAnnounceRx (mac : MacsecIn) (domain key source seq : Nat)
  | ecall (core pc a7 : Nat)
  | aux3v3Apply
  | suppliesStable
  deriving DecidableEq, Repr

end Sys2Proof
end

