-- ==== Sys2Proof/Config.lean ====
section
/-! DEFINITION. The free values: constants without a body, for what the spec leaves open. -/
namespace Sys2Proof.Config

/-- Whether a reader that does not wait for a write sees the new bytes of a line (R98, R107, R128), by the model's free-value counter and the line's number. -/
opaque lineNew : Nat → Nat → Bool

/-- A value the spec does not state, by the model's free-value counter. -/
opaque freeNat : Nat → Nat

/-- The row that a line of a controller lies in, by pan and line index: JEDEC parts differ (R149). -/
opaque rowOf : Nat → Nat → Nat

/-- Spare rows and spare lanes a controller of a memory kind leaves the factory with (R149). -/
opaque spareRows : Nat → Nat
opaque spareLanes : Nat → Nat

/-- A draw of the injection unit from 0 to 65,535, by its seed and what it acts on (R409): the spec names no function. -/
opaque draw : Nat → Nat → Nat → Nat → Nat

/-- SHA-256 of the seal store's directory, by the packages it names: the spec gives the directory no layout (R207, R376). -/
opaque sealDirSha : List (Nat × Nat × Nat) → Nat

/-- Nominal mV of the rails whose nominal the spec leaves to other standards, by rail number (R401). -/
opaque railNominal : Nat → Nat

/-- The tier keys' bytes, by the boot that generates them and which of its four keys (R152): no key leaves the package. -/
opaque tierKey : Nat → Nat → Nat

/-- The seal store's key pair, of the device (R152). -/
opaque sealKey : Nat → Nat

/-- Whether a byte of a region in an MX format is a scale, and the offset of the scale of the block that an element byte lies in, by the region's TENSOR_ID and the
byte's offset: the spec places the two arrays only in a region that a seal package fills (R53, R193, R209). -/
opaque mxScale : Nat → Nat → Bool
opaque mxScaleOf : Nat → Nat → Nat

end Sys2Proof.Config
end

