-- ==== Sys2Proof/Machine/PanAddr.lean ====
section
/-! DEFINITION. Pan addresses: their fields, which of them name a pan of the module, and the pans that hold a pan (R8 to R15). -/
namespace Sys2Proof.Machine

/-- Unit kinds (R9). -/
def kME : Nat := 0
def kVE : Nat := 1
def kRK : Nat := 2
def kLP : Nat := 3
def kMC : Nat := 4
def kHC : Nat := 5
def kCE : Nat := 6

/-- Die slots (R8): compute dies are 0 to 3, HBM4 stacks 8 to 15. -/
def dLD0 : Nat := 4
def dLD1 : Nat := 5
def dHD : Nat := 6
def dFD : Nat := 7

/-- The leaf pan of a unit (R9). -/
def leafPan (die kind idx : Nat) : Pan := die * 0x100000 + kind * 0x10000 + idx * 0x100

/-- The kind group of a die (R11). -/
def kindPan (die kind : Nat) : Pan := leafPan die kind 0xFF

/-- The die pan of a die; that of H7 carries H7D (R9, R11). -/
def diePan (die : Nat) : Pan := leafPan die 0xF 0xFF + (if die = 15 then 1 else 0)

/-- The module pan (R11). -/
def modulePan : Pan := 0xFFFF00

/-- The cluster pan (R11). -/
def clusterPan : Pan := 0xFFFFFF00

/-- The hub die pan, whose instance holds most registers. -/
def hubPan : Pan := diePan dHD

def panDie (p : Pan) : Nat := bits p 20 4
def panKind (p : Pan) : Nat := bits p 16 4
def panIdx (p : Pan) : Nat := bits p 8 8

/-- How many units of a kind a die holds (R10). -/
def unitCount (die kind : Nat) : Nat :=
  if die < 4 then (if kind = kME then 8 else if kind = kVE then 4 else if kind = kRK then 16 else if kind = kMC then 1 else 0)
  else if die = dLD0 then (if kind = kLP then 4 else if kind = kCE then 4 else if kind = kMC then 1 else 0)
  else if die = dLD1 then (if kind = kLP then 3 else if kind = kCE then 4 else if kind = kMC then 1 else 0)
  else if die = dHD then (if kind = kHC then 2 else if kind = kMC then 1 else 0)
  else if die = dFD then (if kind = kMC then 17 else 0)
  else if die < 16 then (if kind = kMC then 16 else 0)
  else 0

/-- What an address names: a leaf, a kind group, a die, the module. -/
inductive PanShape where
  | leaf | kind | die | module
  deriving DecidableEq, Repr

/-- The shape of bits [23:0] of an address, or none where they name no pan (R9 to R11, R15). -/
def panShape (p : Pan) : Option PanShape :=
  if bits p 1 7 ≠ 0 then none
  else if bitAt p 0 then (if p = diePan 15 then some .die else none)
  else
    let d := panDie p
    let k := panKind p
    let i := panIdx p
    if i = 0xFF then
      if k = 0xF then (if d = 0xF then some .module else some .die)
      else if 0 < unitCount d k then some .kind else none
    else if i < unitCount d k then some .leaf else none

/-- The outcome of reading a 32-bit pan address (R14, R15). -/
inductive PanRef where
  | invalid            -- breaks R9 to R13: PAN_INVALID
  | remote             -- another module's pan, or a spare position nobody holds: PAN_REMOTE
  | own (p : Pan)      -- a pan of this module
  | cluster            -- the cluster pan
  deriving DecidableEq, Repr

/-- Read a pan address at a module of position `pos` (R15). -/
def panRef (pos a : Nat) : PanRef :=
  let m := bits a 24 8
  let p := bits a 0 24
  if m = 0xFF then (if p = modulePan then .cluster else .invalid)
  else if 71 < m then .invalid
  else match panShape p with
    | none => .invalid
    | some _ => if m = pos then .own p else .remote

/-- The address of a pan of the module at position `pos`. -/
def panFull (pos : Nat) (p : Pan) : Nat := pos * 0x1000000 + p

/-- Every kind and index of a die's units (R10). -/
def dieLeaves (die : Nat) : List Pan :=
  (List.range 7).flatMap fun k => (List.range (unitCount die k)).map fun i => leafPan die k i

/-- Every leaf pan of the module. -/
def allLeaves : List Pan := (List.range 16).flatMap dieLeaves

/-- The leaf pans that a pan is or holds (R24). -/
def leavesOf (p : Pan) : List Pan :=
  match panShape p with
  | some .leaf => [p]
  | some .kind => (List.range (unitCount (panDie p) (panKind p))).map fun i => leafPan (panDie p) (panKind p) i
  | some .die => dieLeaves (panDie p)
  | some .module => allLeaves
  | none => []

/-- The groups that hold a pan, itself left out, from the kind group up to the module pan (R11). -/
def groupsOf (p : Pan) : List Pan :=
  match panShape p with
  | some .leaf => [kindPan (panDie p) (panKind p), diePan (panDie p), modulePan]
  | some .kind => [diePan (panDie p), modulePan]
  | some .die => [modulePan]
  | _ => []

/-- Does pan `g` hold pan `p`, or is it `p`? -/
def panWithin (g p : Pan) : Bool := g = p || (groupsOf p).contains g

/-- The die and index of a link port, by its number 0 = HP, 1 to 6 = PP0 to PP5 (R8, R10). -/
def portPan (port : Nat) : Pan := if port < 4 then leafPan dLD0 kLP port else leafPan dLD1 kLP (port - 4)

/-- The link die of a port. -/
def portDie (port : Nat) : Nat := if port < 4 then dLD0 else dLD1

/-- Matrix engine `m` of 0 to 31, its vector and raker counterparts, by die and index. -/
def mePan (m : Nat) : Pan := leafPan (m / 8) kME (m % 8)
def vePan (v : Nat) : Pan := leafPan (v / 4) kVE (v % 4)
def rkPan (r : Nat) : Pan := leafPan (r / 16) kRK (r % 16)
def cePan (c : Nat) : Pan := leafPan (dLD0 + c / 4) kCE (c % 4)

/-- Every memory controller of the module, 152 of them (R21). -/
def allMC : List Pan := allLeaves.filter fun p => panKind p = kMC

end Sys2Proof.Machine
end

