-- ==== Sys2Proof/Machine/State.lean ====
section
/-! DEFINITION. The state of the block: its queue of commands, the memory of the contexts, and everything else the module holds. -/
namespace Sys2Proof.Machine

/-- Why the block could stop with a fault. The spec gives every command an effect, and a context's fault (R244) is such an effect, so no reason exists: safe. -/
inductive Fault where
  deriving DecidableEq, Repr

/-- Why the model gives a command no meaning. -/
inductive Refusal where
  /-- Raised by `exec` for a command whose meaning is not written: safe, since nothing is claimed of it. -/
  | notModelled (mnemonic : String)
  deriving DecidableEq, Repr

/-- Everything the module holds but the bytes of context memory and the queue of commands. -/
structure Blk where
  /-- What the module has sent, newest first (the model's own record). -/
  out : List Out := []
  /-- The model's own counter of free values (R98, R107, R128). -/
  freeCtr : Nat := 0
  /-- The least severity of an event raised now: not 0 only inside a command that makes a fault record or puts the module pan into FAULT (R242); the model's own. -/
  sevMin : Nat := 0
  /-- The tide timebase, in ns (R26, R32). -/
  now : Nat := 0
  /-- Writes that not every reader sees yet (R98, R107, R128). -/
  pend : List Pend := []
  pwr : Power := {}
  tide : TideUnit := {}
  /-- Crossings by leaf pan (R47). -/
  xing : Tbl Crossing := []
  /-- What a pan keeps for its status word, by pan (R16, R19). -/
  pan : Tbl PanSt := []
  /-- Memory controllers by pan (R157 to R159). -/
  mc : Tbl Mc := []
  repairs : List Repair := []
  slu : Sluice := {}
  /-- Arbiters by `ArbId.key` (R239). -/
  arbs : Tbl Arb := []
  /-- Contexts by number (R252). -/
  ctxs : Tbl Ctx := []
  me : Tbl Me := []
  ve : Tbl Ve := []
  rk : Tbl Rk := []
  /-- Skeyr streams by number (R259). -/
  strm : Tbl Strm := []
  recs : List InRec := []
  held : List Held := []
  /-- The tide of each link die's last EV_XPT_REC_FULL, plus one (R265). -/
  recFull : Tbl Nat := []
  /-- Windows by WIN_ID (R260). -/
  wins : Tbl Win := []
  ports : Tbl Port := []
  colls : List Coll := []
  ces : Tbl Ce := []
  heldShards : List HeldShard := []
  rst : RstSt := {}
  sec : SecSt := {}
  store : SealSt := {}
  mgt : MgtSt := {}
  mon : MonSt := {}
  tst : TstSt := {}
  spare : SpareSt := {}
  /-- The configuration in force (R367). -/
  cfg : Kartile := {}
  /-- The module's own event bucket, and EVENT_SEQ by sink stream (R241, R243). -/
  modEv : Bucket := {}
  evSeq : Tbl Nat := []
  deriving DecidableEq, Repr

/-- The state of the block. -/
structure State where
  /-- Commands waiting, first in first out. -/
  pending : List Instr := []
  /-- Context memory, by context number times 2^64 plus address (R127, R160): rising, no byte 0 listed; an unlisted byte reads 0. -/
  mem : List Host.Cell := []
  /-- Everything else. -/
  b : Blk := {}
  deriving DecidableEq, Repr

/-- The module right after reset (R348): every register at the value R16, R45 to R47, R157 to R159, R182 to R184, R252, R282, R294,
R317, R340, R361, R362, R388, R400, R412, R413 give; where they give none, the value a log entry names. -/
def State.reset : State := {}

end Sys2Proof.Machine
end

