-- ==== Sys2Proof/Machine/Ops.lean ====
section
/-! DEFINITION. The shared operations: context memory, the entries of the tables, time, pans, and the raising of events. -/
namespace Sys2Proof.Machine
open Sys2Proof

/-! ### Memory -/

/-- The key of a context's byte: the context number and the 64-bit address (R127). -/
def memKey (ctx a : Nat) : Nat := ctx * 2 ^ 64 + a % 2 ^ 64

/-- What a byte reads as; one that is not listed reads 0 (R160). -/
def memRead : List Host.Cell → Nat → Nat
  | [], _ => 0
  | (i, x) :: t, k => if i = k then x.toNat else if k < i then 0 else memRead t k

/-- Write one byte, keeping the form: keys rising, no byte 0 listed. -/
def memWrite : List Host.Cell → Nat → Nat → List Host.Cell
  | [], k, v => if v % 256 = 0 then [] else [(k, BitVec.ofNat 8 v)]
  | (i, x) :: t, k, v =>
    if k < i then (if v % 256 = 0 then (i, x) :: t else (k, BitVec.ofNat 8 v) :: (i, x) :: t)
    else if k = i then (if v % 256 = 0 then t else (k, BitVec.ofNat 8 v) :: t)
    else (i, x) :: memWrite t k v

/-- Write bytes at rising keys. -/
def memWriteBytes : List Host.Cell → Nat → List Nat → List Host.Cell
  | m, _, [] => m
  | m, k, b :: bs => memWriteBytes (memWrite m k b) (k + 1) bs

/-- Zero every byte with a key from `lo` up to but not including `hi` (R160, R247). -/
def memZero (m : List Host.Cell) (lo hi : Nat) : List Host.Cell := m.filter fun c => decide (c.1 < lo ∨ hi ≤ c.1)

/-- The form of a memory: keys rising, no byte 0 listed. -/
def memWf : List Host.Cell → Bool
  | [] => true
  | [(_, x)] => x != 0
  | (i, x) :: (j, y) :: t => x != 0 && decide (i < j) && memWf ((j, y) :: t)

/-- `len` bytes from a key. -/
def memBytes (m : List Host.Cell) (k len : Nat) : List Nat := (List.range len).map fun i => memRead m (k + i)

/-! ### The entries of the tables -/

def Blk.ctx (b : Blk) (n : Nat) : Ctx := b.ctxs.get {} n
def Blk.setCtx (b : Blk) (n : Nat) (c : Ctx) : Blk := { b with ctxs := b.ctxs.set n c }
def Blk.modCtx (b : Blk) (n : Nat) (f : Ctx → Ctx) : Blk := b.setCtx n (f (b.ctx n))

def Blk.panSt (b : Blk) (p : Pan) : PanSt := b.pan.get {} p
def Blk.modPan (b : Blk) (p : Pan) (f : PanSt → PanSt) : Blk := { b with pan := b.pan.set p (f (b.panSt p)) }
/-- Set a leaf's STATE (R17). -/
def Blk.setSt (b : Blk) (p : Pan) (st : PState) : Blk := b.modPan p fun x => { x with st := st }
/-- Set STATE on several leaves. -/
def Blk.setSts (b : Blk) (ps : List Pan) (st : PState) : Blk := ps.foldl (fun b p => b.setSt p st) b

def Blk.mcOf (b : Blk) (p : Pan) : Mc := b.mc.get {} p
def Blk.modMc (b : Blk) (p : Pan) (f : Mc → Mc) : Blk := { b with mc := b.mc.set p (f (b.mcOf p)) }

def Blk.meOf (b : Blk) (n : Nat) : Me := b.me.get {} n
def Blk.modMe (b : Blk) (n : Nat) (f : Me → Me) : Blk := { b with me := b.me.set n (f (b.meOf n)) }
def Me.agOf (m : Me) (g : Nat) : Ag := m.ag.get {} g
def Blk.modAg (b : Blk) (n g : Nat) (f : Ag → Ag) : Blk := b.modMe n fun m => { m with ag := m.ag.set g (f (m.agOf g)) }

def Blk.veOf (b : Blk) (n : Nat) : Ve := b.ve.get {} n
def Blk.modVe (b : Blk) (n : Nat) (f : Ve → Ve) : Blk := { b with ve := b.ve.set n (f (b.veOf n)) }

def Blk.rkOf (b : Blk) (n : Nat) : Rk := b.rk.get {} n
def Blk.modRk (b : Blk) (n : Nat) (f : Rk → Rk) : Blk := { b with rk := b.rk.set n (f (b.rkOf n)) }

def Blk.strmOf (b : Blk) (n : Nat) : Strm := b.strm.get {} n
def Blk.setStrm (b : Blk) (n : Nat) (x : Strm) : Blk := { b with strm := b.strm.set n x }
def Blk.modStrm (b : Blk) (n : Nat) (f : Strm → Strm) : Blk := b.setStrm n (f (b.strmOf n))

def Blk.portOf (b : Blk) (n : Nat) : Port := b.ports.get {} n
def Blk.modPort (b : Blk) (n : Nat) (f : Port → Port) : Blk := { b with ports := b.ports.set n (f (b.portOf n)) }

def Blk.winOf (b : Blk) (n : Nat) : Win := b.wins.get {} n
def Blk.modWin (b : Blk) (n : Nat) (f : Win → Win) : Blk := { b with wins := b.wins.set n (f (b.winOf n)) }

def Blk.ceOf (b : Blk) (n : Nat) : Ce := b.ces.get {} n
def Blk.modCe (b : Blk) (n : Nat) (f : Ce → Ce) : Blk := { b with ces := b.ces.set n (f (b.ceOf n)) }

def Blk.xingOf (b : Blk) (p : Pan) : Crossing := b.xing.get {} p
def Blk.modXing (b : Blk) (p : Pan) (f : Crossing → Crossing) : Blk := { b with xing := b.xing.set p (f (b.xingOf p)) }

def Blk.arbOf (b : Blk) (a : ArbId) : Arb := b.arbs.get {} a.key
def Blk.modArb (b : Blk) (a : ArbId) (f : Arb → Arb) : Blk := { b with arbs := b.arbs.set a.key (f (b.arbOf a)) }

def Blk.modTide (b : Blk) (f : TideUnit → TideUnit) : Blk := { b with tide := f b.tide }
def Blk.modRst (b : Blk) (f : RstSt → RstSt) : Blk := { b with rst := f b.rst }
def Blk.modSec (b : Blk) (f : SecSt → SecSt) : Blk := { b with sec := f b.sec }
def Blk.modMgt (b : Blk) (f : MgtSt → MgtSt) : Blk := { b with mgt := f b.mgt }
def Blk.modMon (b : Blk) (f : MonSt → MonSt) : Blk := { b with mon := f b.mon }
def Blk.modSlu (b : Blk) (f : Sluice → Sluice) : Blk := { b with slu := f b.slu }
def Blk.modSpare (b : Blk) (f : SpareSt → SpareSt) : Blk := { b with spare := f b.spare }
def Blk.send (b : Blk) (o : Out) : Blk := { b with out := o :: b.out }

/-- Everything but memory. -/
def State.setB (s : State) (b : Blk) : State := { s with b := b }

/-! ### Time -/

/-- What has been slewed out of an offset by an instant: at most 100 ppm of the time since slewing began (R31). -/
def slewed (t : TideUnit) (now : Nat) : Nat := min t.slewLeft.natAbs ((now - t.slewAt) / 10000)

/-- The tide unit with what has been slewed by an instant taken into its edges: the timebase does not step (R31, R32). -/
def slewTide (t : TideUnit) (now : Nat) : TideUnit :=
  let d : Int := if t.slewLeft < 0 then -(slewed t now : Int) else (slewed t now : Int)
  { t with edgeAt := ((t.edgeAt : Int) + d).toNat, slewLeft := t.slewLeft - d, slewAt := t.slewAt + 10000 * slewed t now }

/-- The instant of the last edge on the disciplined timebase. -/
def Blk.lastEdge (b : Blk) : Nat := (slewTide b.tide b.now).edgeAt

/-- The phase: ns since the last edge on the disciplined timebase, at most period − 1 (R32). -/
def Blk.phase (b : Blk) : Nat := min (b.now - b.lastEdge) (b.tide.period - 1)

/-- Has the timebase reached an instant (R36)? -/
def Blk.due (b : Blk) (t ph : Nat) : Bool := decide (t < b.tide.num ∨ (t = b.tide.num ∧ ph ≤ b.phase))

/-- Has a number of ns passed since `t`? -/
def Blk.past (b : Blk) (t d : Nat) : Bool := decide (t + d ≤ b.now)

/-- MPL in ns (R256, R368). -/
def Blk.mpl (b : Blk) : Nat := b.cfg.mod.mplUs * 1000

/-! ### Pans -/

/-- The module's position: the adopted one, once a spare has taken it (R13, R334). -/
def Blk.pos (b : Blk) : Nat := b.spare.adopted.getD b.cfg.position

/-- A pan's address as records carry it (R9). -/
def Blk.full (b : Blk) (p : Pan) : Nat := panFull b.pos p

/-- A leaf in service: READY, BUSY or CALIB (R17). -/
def inService : PState → Bool
  | .ready => true
  | .busy => true
  | .calib => true
  | _ => false

/-- May the unit take work? -/
def Blk.works (b : Blk) (p : Pan) : Bool := inService (b.panSt p).st

/-- The boot has taken a configuration and the module is out of reset (R363). -/
def Blk.running (b : Blk) : Bool := b.pwr.rails && b.pwr.rstN && b.sec.configured

/-! ### Frames that are not Skeyr's (R285, R286) -/

/-- A frame comes in on a port: it is taken where the port is UP and the frame passes the MACsec check that the port asks for; a HELD port takes nothing but MKA, and
what fails the check is dropped and counted. -/
def Blk.frameIn (b : Blk) (port : Nat) (m : MacsecIn) : Blk × Bool :=
  let p := b.portOf port
  if p.st ≠ .up then (b, false)
  else if !p.cfg.macsec then (b, true)
  else match m with
    | .valid => (b, true)
    | .unprotected => (b.modPort port fun x => { x with unprotDrop := satInc 16 x.unprotDrop }, false)
    | .forged => (b.modPort port fun x => { x with icvFail := satInc 16 x.icvFail }, false)

/-- The packet number that no frame of an SA takes: a new SAK is installed before it (R285). -/
def pnLimit : Nat := 0xC000000000000000

/-- A frame takes a packet number of the SA in use under MACsec, and the key server has a new SAK installed before that number would reach its limit (R285, log 37). -/
def countPn (p : Port) : Port :=
  if !p.cfg.macsec then p else if p.pn + 1 < pnLimit then { p with pn := p.pn + 1 } else { p with pn := 0, saks := p.saks + 1 }

/-- A frame leaves on a port that is UP; a HELD port sends nothing but MKA (R285), a displaced module nothing at all (R335). -/
def Blk.frameOut (b : Blk) (port : Nat) (o : Out) : Blk :=
  if b.spare.displaced || (b.portOf port).st ≠ .up then b else (b.modPort port countPn).send o

/-- What a frame does once it is taken. -/
def Blk.withFrame (b : Blk) (port : Nat) (m : MacsecIn) (f : Blk → Blk) : Blk :=
  let x := b.frameIn port m
  if x.2 then f x.1 else x.1

/-! ### Streams and windows of a domain (R258, R259) -/

/-- Do a context's domains, windows and streams exist? From its creation to teardown step 7 (R247, R259). -/
def ctxLives : CtxState → Bool
  | .absent => false
  | .quarantine => false
  | _ => true

/-- The domains in force, each with its context; the harvest domain belongs to none (R320). -/
def Blk.domains (b : Blk) : List (Option Nat × PdRec) :=
  (b.ctxs.flatMap fun p => if ctxLives p.2.st then p.2.rec_.pds.map fun d => (some p.1, d) else []) ++ [(none, b.cfg.hrv.pd)]

/-- The domain and entry of a stream of this module. -/
def Blk.findStream (b : Blk) (n : Nat) : Option (Option Nat × PdRec × StreamRec) :=
  b.domains.findSome? fun p => (p.2.streams.find? fun e => e.stream = n).map fun e => (p.1, p.2, e)

/-- The domain and entry of a window of this module. -/
def Blk.findWin (b : Blk) (n : Nat) : Option (Option Nat × PdRec × WindowRec) :=
  b.domains.findSome? fun p => (p.2.windows.find? fun e => e.winId = n).map fun e => (p.1, p.2, e)

/-- The ports of a PORTS mask that are trained (R272). -/
def Blk.upPorts (b : Blk) (mask : Nat) : List Nat :=
  (List.range 7).filter fun i => bitAt mask i && decide ((b.portOf i).st = .up)

/-- Can packets leave on a stream? -/
def Blk.streamUp (b : Blk) (n : Nat) : Bool :=
  match b.findStream n with
  | some (_, pd, _) => !(b.upPorts pd.ports).isEmpty
  | none => false

/-! ### Events (R241 to R243) -/

/-- The severity of an event raised alone (R242). -/
def sevOf (code : Nat) : Nat :=
  if code = 0x1003 then 4
  else if code = 0x5002 then 3
  else if [0x5001, 0x5004, 0x5005, 0x5101, 0x5104, 0xB101, 0xB104, 0x1001, 0x300A].contains code then 0
  else if 0x5800 ≤ code ∧ code ≤ 0x5FFF then 0
  else 2

/-- CONTEXT of a module event (R241). -/
def moduleCtx : Nat := 0xFFFF

/-- Which bucket and sink a context's records pass: its own until teardown step 5, the module's from there (R243, R247). -/
def Blk.evKey (b : Blk) (ctx : Nat) : Nat :=
  if ctx = moduleCtx then moduleCtx
  else
    let c := b.ctx ctx
    if !ctxLives c.st || (c.st = .teardown && decide (5 ≤ c.tdStep)) then moduleCtx else ctx

/-- EVT_RATE and EVT_BURST of a class (R237). -/
def Blk.evRate (b : Blk) (q : Nat) : Nat := b.cfg.qos.evtRate.getD q 64
def Blk.evDepth (b : Blk) (q : Nat) : Nat := b.evRate q + b.cfg.qos.evtBurst.getD q 32

/-- The class that a bucket's records count in (R243). -/
def Blk.evClass (b : Blk) (key : Nat) : Nat := if key = moduleCtx then 7 else (b.ctx key).qos

def Blk.bucket (b : Blk) (key : Nat) : Bucket := if key = moduleCtx then b.modEv else (b.ctx key).ev
def Blk.setBucket (b : Blk) (key : Nat) (k : Bucket) : Blk :=
  if key = moduleCtx then { b with modEv := k } else b.modCtx key fun c => { c with ev := k }

/-- Put a request to its arbiter (R239). -/
def Blk.request (b : Blk) (a : ArbId) (r : Req) : Blk := b.modArb a fun x => { x with waiting := x.waiting ++ [r] }

/-- Remove the oldest record of the lowest severity. -/
def dropLowest (l : List EventRec) : List EventRec :=
  let lo := l.foldl (fun m r => min m r.sev) 4
  l.eraseP fun r => r.sev = lo

/-- Remove the oldest record of the lowest severity, those of severity 3 and 4 counting alike (R364). -/
def dropHeld (l : List EventRec) : List EventRec :=
  let lo := l.foldl (fun m r => min m r.sev) 3
  l.eraseP fun r => min r.sev 3 = lo

/-- Mirror a record on the management bus (R243, R395). -/
def Blk.mirror (b : Blk) (r : EventRec) : Blk :=
  if r.sev < b.cfg.qos.mirrorMin || r.mir then b
  else b.modMgt fun m =>
    if m.mirror.length < 32 then { m with mirror := m.mirror ++ [r] }
    else { m with mirror := dropLowest m.mirror ++ [r], mirDrop := satInc 16 m.mirDrop }

/-- Release a record to the event path (R243). -/
def Blk.release (b : Blk) (key : Nat) (r : EventRec) : Blk :=
  let k := b.bucket key
  let r := if k.gap then { r with gap := true } else r
  let b := b.setBucket key { k with gap := false }
  let b := if key = moduleCtx then b else b.modCtx key fun c => { c with sent := satInc 32 c.sent }
  b.request .eventPath { cls := b.evClass key, ctx := key, cost := 1, what := .event r }

/-- Hold a record without a token: fold it, queue it, or drop it (R243). -/
def Blk.holdRec (b : Blk) (key : Nat) (r : EventRec) : Blk :=
  let k := b.bucket key
  if k.held.any fun h => h.code = r.code && h.pan = r.pan then
    let held := k.held.map fun h => if h.code = r.code && h.pan = r.pan then { h with mergeCount := satInc 16 h.mergeCount } else h
    let b := b.setBucket key { k with held := held }
    if key = moduleCtx then b else b.modCtx key fun c => { c with merged := satInc 16 c.merged }
  else if k.held.length < 16 then b.setBucket key { k with held := k.held ++ [r] }
  else
    let b := b.setBucket key { k with gap := true }
    if key = moduleCtx then b else b.modCtx key fun c => { c with dropped := satInc 16 c.dropped }

/-- The stream that carries a bucket's records: a context's SINK_STREAM, or the module sink (R243). -/
def Blk.sinkOf (b : Blk) (key : Nat) : Nat := if key = moduleCtx then b.cfg.mod.modSink else (b.ctx key).rec_.sink

/-- Offer a record to a bucket (R243): severity 3 and 4 go at once; the rest take a token or are held, and are held while the sink fails (R249). -/
def Blk.offer (b : Blk) (key : Nat) (r : EventRec) : Blk :=
  if 3 ≤ r.sev then b.release key r
  else if !b.streamUp (b.sinkOf key) then b.holdRec key r
  else
    let k := b.bucket key
    let t := k.tokens.getD (b.evDepth (b.evClass key))
    if t = 0 then b.holdRec key r
    else (b.setBucket key { k with tokens := some (t - 1) }).release key r

/-- Once the module sink stream is usable, the records held for it are released (R364). -/
def Blk.sinkFlush (b : Blk) : Blk :=
  if b.sec.sinkUp || !b.streamUp b.cfg.mod.modSink then b
  else
    let held := b.sec.hold
    let b := b.setBucket moduleCtx { b.modEv with gap := b.modEv.gap || b.sec.holdGap }
    let b := b.modSec fun x => { x with sinkUp := true, hold := [], holdGap := false }
    held.foldl (fun b r => b.offer (b.evKey r.ctx) r) b

/-- Hold a record raised before the module sink stream is usable (R364). -/
def Blk.bootHold (b : Blk) (r : EventRec) : Blk :=
  let b := b.mirror r
  let r := { r with mir := true }
  b.modSec fun x =>
    if x.hold.length < 64 then { x with hold := x.hold ++ [r] }
    else { x with hold := dropHeld x.hold ++ [r], holdGap := true }

/-- The record of an event that arises now (R241). -/
def Blk.record (b : Blk) (code sev ctx : Nat) (pan : Pan) (detail : Nat) : EventRec :=
  { code := code, sev := sev, test := b.tst.active, ctx := ctx, pan := b.full pan, tide := b.tide.num, phase := b.phase,
    step := if ctx = moduleCtx then 0 else (b.ctx ctx).step % 2 ^ 32, detail := detail }

/-- What raises events together with a fault record, or in the cycle in which the module pan enters FAULT: none of them is of less severity than that gives (R242). -/
def Blk.withSev (b : Blk) (sev : Nat) (f : Blk → Blk) : Blk := { f { b with sevMin := max sev b.sevMin } with sevMin := b.sevMin }

/-- Raise an event of a given severity (R241 to R243, R364). -/
def Blk.raiseSev (b : Blk) (sev code ctx : Nat) (pan : Pan) (detail : Nat) : Blk :=
  let r := b.record code (max sev b.sevMin) ctx pan detail
  let b := b.sinkFlush
  if b.sec.sinkUp then b.offer (b.evKey ctx) r else b.bootHold r

/-- Raise an event. -/
def Blk.raise (b : Blk) (code ctx : Nat) (pan : Pan) (detail : Nat) : Blk := b.raiseSev (sevOf code) code ctx pan detail

/-- Raise a module event from the hub die. -/
def Blk.raiseMod (b : Blk) (code detail : Nat) : Blk := b.raise code moduleCtx hubPan detail

/-- A bucket at a tide edge: EVT_RATE more tokens up to the depth, and held records take them (R243). -/
def Blk.refill (b : Blk) (key : Nat) : Blk :=
  let q := b.evClass key
  let k := b.bucket key
  let t := min (k.tokens.getD (b.evDepth q) + b.evRate q) (b.evDepth q)
  let n := if b.streamUp (b.sinkOf key) then min t k.held.length else 0
  let b := b.setBucket key { k with tokens := some (t - n), held := k.held.drop n }
  (k.held.take n).foldl (fun b r => b.release key r) b

/-! ### Counters of contexts -/

/-- Traffic for a torn-down context (R248). -/
def Blk.lateDrop (b : Blk) (ctx : Nat) : Blk :=
  b.modCtx ctx fun c => { c with lateDrop := satInc 32 c.lateDrop, lateAll := satInc 32 c.lateAll }

/-- A new value for the model's counter of free values. -/
def Blk.spend (b : Blk) : Blk := { b with freeCtr := b.freeCtr + 1 }

end Sys2Proof.Machine
end

