-- ==== Sys2Proof/Machine/Neighbors.lean ====
section
/-! DEFINITION. Neighbor Discovery on the ports: address resolution, answers, and neighbour unreachability detection (R288; RFC 4861). -/
namespace Sys2Proof.Machine
open Sys2Proof

/-- The times between solicitations, for which a neighbour stays reachable, and before a stale one is probed, in ns, and the solicitations sent before a neighbour is given
up: the defaults of RFC 4861, section 10 (PRESUMED, log 37). -/
def ndRetrans : Nat := 1000000000
def ndReach : Nat := 30000000000
def ndDelay : Nat := 5000000000
def ndTries : Nat := 3

/-- The entry of an address in a port's cache. -/
def Blk.nbr (b : Blk) (port addr : Nat) : Option Nbr := (b.portOf port).nbrs.find addr
def Blk.setNbr (b : Blk) (port addr : Nat) (n : Nbr) : Blk := b.modPort port fun p => { p with nbrs := p.nbrs.set addr n }
def Blk.dropNbr (b : Blk) (port addr : Nat) : Blk := b.modPort port fun p => { p with nbrs := p.nbrs.erase addr }

/-- A frame for an address leaves a port: it waits while the address is being resolved; a neighbour that is stale is used, and probed unless it is heard of in time. -/
def Blk.emit (b : Blk) (port addr : Nat) (o : Out) : Blk :=
  match b.nbr port addr with
  | none => (b.setNbr port addr { st := .incomplete, at_ := b.now, tries := 1, waits := [o] }).frameOut port (.neighborSolicit port addr false)
  | some n => match n.st with
    | .incomplete => b.setNbr port addr { n with waits := n.waits ++ [o] }
    | .stale => (b.setNbr port addr { n with st := .delay, at_ := b.now }).frameOut port o
    | _ => b.frameOut port o

/-- A neighbour's link-layer address is known: what waited for it leaves. -/
def Blk.learnNbr (b : Blk) (port addr : Nat) (st : NbrState) (mac : Nat) : Blk :=
  let waits := ((b.nbr port addr).map (·.waits)).getD []
  waits.foldl (fun b o => b.frameOut port o) (b.setNbr port addr { st := st, at_ := b.now, mac := mac })

/-- A solicitation for an address of the module's own: its sender's link-layer address is noted, and it is answered; one without a sender is answered to all nodes. -/
def Blk.ndSolicit (b : Blk) (port target src : Nat) (mac : Option Nat) : Blk :=
  if !b.cfg.mod.portAddr.contains target then b
  else if src = 0 then b.frameOut port (.neighborAdvert port target false true)
  else
    let b := match mac, b.nbr port src with
      | some m, some n => if n.st ≠ NbrState.incomplete ∧ n.mac = m then b else b.learnNbr port src .stale m
      | some m, none => b.learnNbr port src .stale m
      | none, _ => b
    b.emit port src (.neighborAdvert port target true true)

/-- An advertisement of an address in the cache. -/
def Blk.ndAdvert (b : Blk) (port target : Nat) (mac : Option Nat) (solicited override_ : Bool) : Blk :=
  match b.nbr port target with
  | none => b
  | some n =>
    let heard : NbrState := if solicited then .reachable else .stale
    match n.st, mac with
    | .incomplete, none => b
    | .incomplete, some m => b.learnNbr port target heard m
    | _, none => if solicited then b.setNbr port target { n with st := .reachable, at_ := b.now } else b
    | st, some m =>
      if m = n.mac then (if solicited then b.setNbr port target { n with st := .reachable, at_ := b.now } else b)
      else if override_ then b.setNbr port target { n with st := heard, at_ := b.now, mac := m }
      else if st = NbrState.reachable then b.setNbr port target { n with st := .stale, at_ := b.now }
      else b

/-- A Neighbor Discovery message (R288). -/
def Blk.ndRx (b : Blk) (port : Nat) : NdMsg → Blk
  | .solicit target src mac => b.ndSolicit port target src mac
  | .advert target mac solicited override_ => b.ndAdvert port target mac solicited override_

/-- An entry's times: a solicitation that was not answered is repeated, and after the last the neighbour is given up with all that waits for it; a reachable neighbour
grows stale; one that was used stale and has not been heard of is probed. -/
def Blk.ndTimer (b : Blk) (port addr : Nat) (n : Nbr) : Blk :=
  let again := fun (st : NbrState) (tries : Nat) (unicast : Bool) =>
    (b.setNbr port addr { n with st := st, at_ := b.now, tries := tries }).frameOut port (.neighborSolicit port addr unicast)
  let solicit := fun unicast => if n.tries < ndTries then again n.st (n.tries + 1) unicast else b.dropNbr port addr
  match n.st with
  | .incomplete => if b.past n.at_ ndRetrans then solicit false else b
  | .probe => if b.past n.at_ ndRetrans then solicit true else b
  | .delay => if b.past n.at_ ndDelay then again .probe 1 true else b
  | .reachable => if b.past n.at_ ndReach then b.setNbr port addr { n with st := .stale, at_ := b.now } else b
  | .stale => b

/-- The entries of every port. -/
def Blk.ndTick (b : Blk) : Blk := b.ports.foldl (fun b e => e.2.nbrs.foldl (fun b x => b.ndTimer e.1 x.1 x.2) b) b

end Sys2Proof.Machine
end

