-- ==== Sys2Proof/Machine/Torus.lean ====
section
/-! DEFINITION. Coordinates, axis neighbours and the ports that reach them (R13, R289, R295, R296). -/
namespace Sys2Proof.Machine
open Sys2Proof

/-- How many modules a torus holds. -/
def torusSize (t : TorusRec) : Nat := t.len.foldl (· * ·) 1

/-- The coordinates of a position (R13, R295). -/
def coordsOf (t : TorusRec) (pos : Nat) : List Nat :=
  let l := fun i => max 1 (t.len.getD i 1)
  [pos % l 0, pos / l 0 % l 1, pos / (l 0 * l 1) % l 2, pos / (l 0 * l 1 * l 2) % l 3]

/-- The position at coordinates (R13). -/
def posAt (t : TorusRec) (x : List Nat) : Nat :=
  let l := fun j => t.len.getD j 1
  x.getD 0 0 + l 0 * (x.getD 1 0 + l 1 * (x.getD 2 0 + l 2 * x.getD 3 0))

/-- The + neighbour of a position on an axis, and its − neighbour (R296). -/
def plusOf (t : TorusRec) (pos axis : Nat) : Nat :=
  let x := coordsOf t pos
  posAt t (x.set axis ((x.getD axis 0 + 1) % max 1 (t.len.getD axis 1)))
def minusOf (t : TorusRec) (pos axis : Nat) : Nat :=
  let x := coordsOf t pos
  let l := max 1 (t.len.getD axis 1)
  posAt t (x.set axis ((x.getD axis 0 + l - 1) % l))

/-- The peer ports of an axis that is cabled directly (R289). -/
def axisPorts (axis : Nat) : Nat := if axis < 3 then 3 * 2 ^ (1 + 2 * axis) else 0

/-- On a direct torus, the ports that are cabled to a position, where it is an axis neighbour: the axis's + port to the + neighbour, its − port to the − neighbour,
both where they are one module (R289, R296). -/
def cablesTo (t : TorusRec) (me pos : Nat) : Option Nat :=
  let m := ((List.range 3).map fun a =>
    if t.len.getD a 1 ≤ 1 then 0
    else (if plusOf t me a = pos then 2 ^ (1 + 2 * a) else 0) + (if minusOf t me a = pos then 2 ^ (2 + 2 * a) else 0)).sum
  if m = 0 then none else some m

/-- On a direct torus a pair of ports is enabled only for an axis longer than 1 (R289). -/
def pairsOk (t : TorusRec) (attach : Bool) (ports : List PortRec) : Bool :=
  attach || (List.range 3).all fun a => decide (1 < t.len.getD a 1) || (!(ports.getD (1 + 2 * a) {}).enable && !(ports.getD (2 + 2 * a) {}).enable)

end Sys2Proof.Machine
end

