-- ==== Sys2Proof/Machine/Wire.lean ====
section
/-! DEFINITION. Skeyr on the wire: the 48-byte header, CRC-32C, the UDP checksum (R5, R253, R254). -/
namespace Sys2Proof.Machine
open Sys2Proof

/-! ### The header (R254) -/

/-- The 48 bytes of a header, in network byte order; `rsv` holds the RSV bits of FLAGS, of CONTEXT and of STREAM, in that order. -/
def hdrBytes (ver rsv : Nat) (h : SkyHdr) : List Nat :=
  [ver % 16 * 16 + h.typ % 16, b2n h.retx + 2 * b2n h.solicit + 4 * b2n h.ece + 8 * b2n h.syn + 16 * (rsv % 16)] ++
    beBytes 2 (h.ctx % 2 ^ 10 + rsv / 16 % 64 * 2 ^ 10) ++ beBytes 2 (h.stream % 2 ^ 14 + rsv / 1024 % 4 * 2 ^ 14) ++
    beBytes 2 h.winId ++ beBytes 2 h.winGen ++ beBytes 2 h.length ++ beBytes 4 h.psn ++ beBytes 4 h.msgId ++ beBytes 4 h.msgLen ++ beBytes 8 h.offset ++
    beBytes 4 h.ackPsn ++ beBytes 4 h.sackBits ++ beBytes 4 h.ts ++ beBytes 2 h.reason ++ beBytes 2 h.info

/-- A big-endian field of a header's bytes. -/
def beField (l : List Nat) (off len : Nat) : Nat := ofBeBytes ((l.drop off).take len)

/-- A little-endian field of bytes. -/
def fieldAt (l : List Nat) (off n : Nat) : Nat := ofLeBytes ((l.drop off).take n)

/-- VER of a header, and its RSV bits. -/
def hdrVer (l : List Nat) : Nat := beField l 0 1 / 16
def hdrRsv (l : List Nat) : Nat := beField l 1 1 / 16 + beField l 2 2 / 2 ^ 10 * 16 + beField l 4 2 / 2 ^ 14 * 1024

/-- The fields of a header read from its 48 bytes. -/
def hdrAt (l : List Nat) : SkyHdr :=
  let f := beField l 1 1
  { typ := beField l 0 1 % 16, retx := bitAt f 0, solicit := bitAt f 1, ece := bitAt f 2, syn := bitAt f 3, ctx := beField l 2 2 % 2 ^ 10,
    stream := beField l 4 2 % 2 ^ 14, winId := beField l 6 2, winGen := beField l 8 2, length := beField l 0xA 2, psn := beField l 0xC 4,
    msgId := beField l 0x10 4, msgLen := beField l 0x14 4, offset := beField l 0x18 8, ackPsn := beField l 0x20 4, sackBits := beField l 0x24 4,
    ts := beField l 0x28 4, reason := beField l 0x2C 2, info := beField l 0x2E 2 }

/-! ### CRC-32C (R254) -/

/-- One bit of the reflected Castagnoli polynomial. -/
def crcBit (c : Nat) : Nat := if c % 2 = 1 then (c / 2) ^^^ 0x82F63B78 else c / 2

/-- One byte. -/
def crcByte (c x : Nat) : Nat :=
  let c := c ^^^ (x % 256)
  crcBit (crcBit (crcBit (crcBit (crcBit (crcBit (crcBit (crcBit c)))))))

/-- The CRC-32C of bytes: initial value and final XOR 0xFFFF_FFFF. -/
def crc32c (l : List Nat) : Nat := l.foldl crcByte 0xFFFFFFFF ^^^ 0xFFFFFFFF

/-! ### UDP over IPv6 (R253) -/

/-- The sum of 16-bit words in network order; an odd last byte is the high half of its word. -/
def udpWords : List Nat → Nat
  | a :: b :: t => a % 256 * 256 + b % 256 + udpWords t
  | [a] => a % 256 * 256
  | [] => 0

/-- The one's complement of a one's complement sum; the value 0 is sent as 0xFFFF (RFC 768). -/
def udpFold (n : Nat) : Nat :=
  let s := if n = 0 then 0 else if n % 65535 = 0 then 65535 else n % 65535
  if 65535 - s = 0 then 65535 else 65535 - s

/-- The UDP checksum over the IPv6 pseudo-header, the UDP header and the payload (RFC 768, RFC 8200). -/
def udpChecksum (src dst srcPort dstPort : Nat) (payload : List Nat) : Nat :=
  let n := 8 + payload.length
  udpFold (udpWords (beBytes 16 src ++ beBytes 16 dst ++ beBytes 4 n ++ beBytes 4 17 ++ beBytes 2 srcPort ++ beBytes 2 dstPort ++ beBytes 2 n ++ payload))

/-- What the CRC of a packet covers: its header and its payload. -/
def crcCover (ver rsv : Nat) (h : SkyHdr) (data : List Nat) : List Nat := hdrBytes ver rsv h ++ data

/-- The UDP payload: header, payload bytes, CRC-32C most significant byte first (R253, R254). -/
def udpPayload (ver rsv : Nat) (h : SkyHdr) (data : List Nat) (crc : Nat) : List Nat := crcCover ver rsv h data ++ beBytes 4 crc

/-- A packet as the module sends it between two addresses: hop limit 64, ECT(0) (R253). -/
def datagram (src dst dscp srcPort dstPort : Nat) (p : Packet) : Datagram :=
  let crc := crc32c (crcCover 1 0 p.h p.data)
  { src := src, dst := dst, hop := 64, dscp := dscp, ecn := 2, srcPort := srcPort, dstPort := dstPort, len := 8 + 48 + p.data.length + 4,
    sum := udpChecksum src dst srcPort dstPort (udpPayload 1 0 p.h p.data crc), pkt := p, crc := crc }

/-- How a datagram arrives at a port where no MACsec check fails and nothing on its way changes it. -/
def Datagram.arrive (d : Datagram) (port : Nat) : Arrival :=
  { port := port, src := d.src, dst := d.dst, srcPort := d.srcPort, dstPort := d.dstPort, ipLen := d.len, udpLen := d.len, udpSum := d.sum, crc := d.crc }

/-! ### Steps 4 and 5 of R261, as far as the wire's bits tell -/

/-- The header as it stands on the wire: with the TYPE it carries, where that is reserved. -/
def wireHdr (arr : Arrival) (h : SkyHdr) : SkyHdr := { h with typ := arr.typ.getD h.typ }

/-- The CRC-32C fits header and payload (step 4). -/
def crcFits (arr : Arrival) (p : Packet) : Bool := arr.crc = crc32c (crcCover arr.ver arr.rsv (wireHdr arr p.h) p.data)

/-- VER is 1, TYPE not reserved, RSV fields 0 (step 5). -/
def verFits (arr : Arrival) : Bool := arr.ver = 1 && arr.typ.isNone && arr.rsv = 0

end Sys2Proof.Machine
end

