-- ==== Sys2Proof/Machine/Net.lean ====
section
/-! DEFINITION. Sending on Skeyr streams: paths, control packets, messages and their ends (R253 to R276). -/
namespace Sys2Proof.Machine
open Sys2Proof

/-- The link die that homes a stream: LD0 for even numbers, LD1 for odd ones (R259). -/
def homeDie (stream : Nat) : Nat := dLD0 + stream % 2

/-- `a − b` modulo 2^32 (R262). -/
def psnSub (a b : Nat) : Nat := (a + 2 ^ 32 - b % 2 ^ 32) % 2 ^ 32
def psnAdd (a k : Nat) : Nat := (a + k) % 2 ^ 32

/-- Message types (R255). -/
def tWrite : Nat := 1
def tRead : Nat := 2
def tReadResp : Nat := 3
def tFlush : Nat := 4
def tFlushAck : Nat := 5
def tAck : Nat := 6
def tSack : Nat := 7
def tNak : Nat := 8
def tCancel : Nat := 9
def tEvent : Nat := 10
def tReduce : Nat := 11
def tPermute : Nat := 12

/-- Does a TYPE take a PSN (R255)? -/
def sequenced (t : Nat) : Bool := [tWrite, tFlush, tCancel, tEvent, tReduce, tPermute].contains t

/-- NAK reasons (R271). -/
def rGenStale : Nat := 1
def rWinClosed : Nat := 2
def rAccess : Nat := 3
def rBounds : Nat := 4
def rRefused : Nat := 5
def rMemError : Nat := 6
def rNoStream : Nat := 7
def rSynWait : Nat := 8
def rTooFar : Nat := 9
def rBusy : Nat := 10

/-! ### Groups and the ways to their members -/

/-- A group record of this module (R297). -/
def Blk.groupOf (b : Blk) (id : Nat) : Option GroupRec := b.cfg.groups.find? fun g => g.groupId = id

/-- This module's rank in a group, or the member count where it is not a member. -/
def Blk.rankIn (b : Blk) (g : GroupRec) : Nat := g.members.findIdx fun m => m.position = b.pos

def collIs (c : Coll) (ctx group seq : Nat) : Bool := c.ctx = ctx && c.group = group && c.seq = seq

def Blk.findColl (b : Blk) (ctx group seq : Nat) : Option Coll := b.colls.find? fun c => collIs c ctx group seq

/-- The record a collective runs under: its group's, or the one before an image switch that changed it (R356). -/
def Blk.collGroup (b : Blk) (c : Coll) : Option GroupRec := if c.grp.isSome then c.grp else b.groupOf c.group

/-- The group record for a collective's traffic. -/
def Blk.groupFor (b : Blk) (ctx group seq : Nat) : Option GroupRec :=
  match b.findColl ctx group seq with
  | some c => b.collGroup c
  | none => b.groupOf group

/-- The position of the member at a PEER_ADDR, as far as the groups tell it. -/
def Blk.memberAt (b : Blk) (a : Nat) : Option Nat := b.cfg.groups.findSome? fun g => (g.members.find? fun m => m.addr = a).map (·.position)

/-- The ports that lead to a stream's other end: on a direct torus those cabled to it, where it is an axis neighbour (R289, R296); else any. -/
def Blk.cableMask (b : Blk) (stream : Nat) : Nat :=
  if b.cfg.mod.attach then 0x7F
  else match b.findStream stream with
    | some (_, _, e) => ((b.memberAt e.peerAddr).bind fun p => cablesTo b.cfg.torus b.pos p).getD 0x7F
    | none => 0x7F

/-! ### Paths (R272) -/

/-- The paths of a stream over the ports of a mask: a trained port with a UDP source port (R272). -/
def Blk.paths (b : Blk) (stream mask : Nat) : List (Nat × Nat) :=
  match b.findStream stream with
  | none => []
  | some (_, pd, _) =>
    (List.range b.cfg.mod.entropy).flatMap fun u => (b.upPorts (pd.ports &&& mask &&& b.cableMask stream)).map fun p => (p, u)

/-- The next path in round robin, off the skipped ones and off the previous copy's where another exists (R272). -/
def choosePath (st : Strm) (paths : List (Nat × Nat)) (avoid : Option (Nat × Nat)) : Option (Nat × Nat) :=
  let n := paths.length
  let order := (List.range n).filterMap fun i => paths[(st.nextPath + i) % n]?
  let skipped := fun p => st.skip.any fun e => e.1 = p && decide (st.sentCnt < e.2)
  (order.find? fun p => !skipped p && some p ≠ avoid) <|> (order.find? fun p => some p ≠ avoid) <|> order.head?

/-- Account for a packet sent on a path: the round robin moves on (R272). -/
def movePath (st : Strm) (paths : List (Nat × Nat)) (p : Nat × Nat) : Strm :=
  { st with nextPath := (paths.idxOf p + 1) % max 1 paths.length, sentCnt := st.sentCnt + 1,
            skip := st.skip.filter fun e => decide (st.sentCnt + 1 < e.2) }

/-! ### Target records (R265) -/

/-- Records in use on a link die: incomplete inbound messages, a READ's responses among them (R265, R282). -/
def Blk.recsOn (b : Blk) (die : Nat) : Nat :=
  (b.recs.filter fun r => homeDie r.stream = die).length +
  (b.strm.map fun e => if homeDie e.1 = die then (e.2.msgs.filter fun m => m.typ = tRead && m.status.isNone && m.firstAt.isSome).length else 0).sum

/-- EV_XPT_REC_FULL, once per tide (R265). -/
def Blk.recFullEvent (b : Blk) (die : Nat) : Blk :=
  if b.recFull.get 0 die = b.tide.num + 1 then b
  else ({ b with recFull := b.recFull.set die (b.tide.num + 1) }).raise 0x7006 moduleCtx (diePan die) (die - dLD0)

/-- While every record of a die is in use, EV_XPT_REC_FULL is raised once per tide (R265, R280). -/
def Blk.recCheck (b : Blk) (die : Nat) : Blk := if 16384 ≤ b.recsOn die then b.recFullEvent die else b

/-! ### What may leave (R262, R263, R270, R274, R277) -/

/-- Does PSN `p` belong to a message? -/
def msgHas (m : OutMsg) (p : Nat) : Bool := decide (psnSub p m.psn < m.count)

/-- Unacknowledged payload of a stream (R274). -/
def unackedBytes (st : Strm) : Nat := (st.pkts.map fun k => k.pkt.data.length).sum

/-- The lowest PSN not seen acknowledged (R262). -/
def lowUnacked (st : Strm) : Nat :=
  (st.pkts.map (·.psn) ++ st.unsent).foldl (fun m p => if psnSub p m < 2 ^ 31 then m else p) st.psn

/-- The ports that a message may use beside its stream's (R301). -/
def Blk.maskOf (b : Blk) (stream : Nat) (m : OutMsg) : Nat :=
  match m.use_, b.findStream stream with
  | .coll g q, some (_, _, e) => match b.groupFor m.ctx g q with
    | some r => ((r.members.find? fun x => x.addr = e.peerAddr).map (·.ports)).getD 0x7F
    | none => 0x7F
  | _, _ => 0x7F

/-- Bytes in use of a port's retransmission area, of 32 MiB (R277, R282). -/
def Blk.retxBytes (b : Blk) (port : Nat) : Nat :=
  (b.strm.map fun e => ((e.2.pkts.filter fun k => k.port = port).map fun k => k.pkt.data.length).sum).sum

/-- May the next new packet of a stream leave: the SYN is acknowledged, the windows and the port's area have room (R262, R263, R274, R277)? -/
def Blk.mayTx (b : Blk) (st : Strm) (psn len port : Nat) : Bool :=
  decide (st.pkts.length < st.cwnd) && decide (unackedBytes st + len ≤ 8 * 2 ^ 20) && decide (psnSub psn (lowUnacked st) < 4096) &&
  decide (b.retxBytes port + len ≤ 32 * 2 ^ 20)

/-- Bytes that packet `i` of a message carries. -/
def pktLen (m : OutMsg) (i : Nat) : Nat := if m.typ = tFlush || m.typ = tCancel then 0 else min 4096 (m.len - 4096 * i)

/-- May anything leave on a stream: it is there, no SYN waits for its acknowledgement, no resynchronisation runs (R263), and the module is not displaced (R335)? -/
def Blk.mayLeave (b : Blk) (stream : Nat) : Bool :=
  let st := b.strmOf stream
  (b.findStream stream).isSome && st.resyncAt.isNone && st.synPsn.isNone && !b.spare.displaced

/-- The severity of the record that a message carries, 0 for any other message (R241). -/
def msgSev (m : OutMsg) : Nat := if m.typ = tEvent then m.data.getD 2 0 else 0

/-- The message of an unsent packet. -/
def msgOfPsn (st : Strm) (p : Nat) : Option (Nat × OutMsg) := (st.msgs.find? fun m => msgHas m p).map fun m => (p, m)

/-- The next new packet of a stream, with its message: an event record of severity 3 or 4 goes ahead of the others, once the first packet has set the numbers
(R243, R263, R265). -/
def nextNew (st : Strm) : Option (Nat × OutMsg) :=
  (if st.synced then (st.unsent.filterMap (msgOfPsn st)).find? fun x => 3 ≤ msgSev x.2 else none) <|> st.unsent.head?.bind (msgOfPsn st)

/-- May a new packet leave on a path of a port (R262, R274, R277)? -/
def Blk.newFits (b : Blk) (st : Strm) (psn : Nat) (m : OutMsg) (port : Nat) : Bool := b.mayTx st psn (pktLen m (psnSub psn m.psn)) port

/-- The next READ of a stream that has not been issued. -/
def nextRead (st : Strm) : Option OutMsg := st.msgs.find? fun m => m.typ = tRead && m.status.isNone && m.firstAt.isNone

/-- Does data of a stream wait that could leave on a port now: a new packet, a READ, or a READ_RESP? -/
def Blk.waitsOn (b : Blk) (stream port : Nat) : Bool :=
  let st := b.strmOf stream
  let on := fun mask => (b.paths stream mask).any fun p => p.1 = port
  b.mayLeave stream &&
  ((match nextNew st with | some (p, m) => on (b.maskOf stream m) && b.newFits st p m port | none => false) ||
   (match nextRead st with | some m => on (b.maskOf stream m) | none => false) || (!st.serves.isEmpty && on 0x7F))

/-- Does data wait to leave on a port (R270)? -/
def Blk.dataWaits (b : Blk) (port : Nat) : Bool := b.strm.any fun e => b.waitsOn e.1 port

/-- The QoS class that a stream's packets leave in: its context's; those of the harvest domain, which belongs to none, leave in the module's (R253, R278, log 33). -/
def Blk.streamCls (b : Blk) (stream : Nat) : Nat :=
  match b.findStream stream with
  | some (some c, _, _) => (b.ctx c).qos
  | _ => 7

/-- PEER_ADDR of a stream (R259). -/
def Blk.peerAddr (b : Blk) (stream : Nat) : Nat := match b.findStream stream with | some (_, _, e) => e.peerAddr | none => 0

/-- A packet of a stream as it leaves on a port and path: from the port's address to PEER_ADDR, to UDP_PORT, with the DSCP of its class (R253, R272). -/
def Blk.wire (b : Blk) (stream : Nat) (path : Nat × Nat) (p : Packet) : Datagram :=
  datagram (b.cfg.mod.portAddr.getD path.1 0) (b.peerAddr stream) (b.cfg.mod.dscp.getD (b.streamCls stream) 0) (0xC000 + path.2) b.cfg.mod.udpPort p

/-- A packet of a stream leaves on a port and path, for its destination as a neighbour on that port (R272, R288). -/
def Blk.sendSky (b : Blk) (stream : Nat) (path : Nat × Nat) (p : Packet) : Blk :=
  b.emit path.1 (b.peerAddr stream) (.sky path.1 (b.wire stream path p))

/-- Control packets waiting at a port go: all of them while no data waits, else one if none went within the last 8 packets (R270). -/
def Blk.portDrain (b : Blk) (port : Nat) : Blk :=
  match (b.portOf port).ctl with
  | [] => b
  | c :: cs =>
    if !b.dataWaits port then
      (c :: cs).foldl (fun b c => b.sendSky c.1 (port, c.2.1) c.2.2) (b.modPort port fun x => { x with ctl := [], sinceCtl := 0 })
    else if (b.portOf port).sinceCtl < 8 then b
    else (b.modPort port fun x => { x with ctl := cs, sinceCtl := 0 }).sendSky c.1 (port, c.2.1) c.2.2

/-- The control packets of every port go as far as they may: after data has left, or waits no longer (R270). -/
def Blk.drainAll (b : Blk) : Blk := (List.range 7).foldl Blk.portDrain b

/-- A data packet of a stream leaves. -/
def Blk.sendData (b : Blk) (stream : Nat) (path : Nat × Nat) (p : Packet) : Blk :=
  ((b.sendSky stream path p).modPort path.1 fun x => { x with sinceCtl := min 8 (x.sinceCtl + 1) }).drainAll

/-- A header addressed to a stream's other end (R254). -/
def Blk.peerHdr (b : Blk) (stream : Nat) (h : SkyHdr) : SkyHdr :=
  match b.findStream stream with
  | some (_, _, e) => { h with ctx := if e.peerHost then 0 else e.peerCtx, stream := e.peerStream }
  | none => h

/-- Send a control packet on a stream (R270): ACK, SACK, NAK, FLUSH_ACK, READ_RESP are not kept for retransmission. -/
def Blk.sendCtl (b : Blk) (stream : Nat) (h : SkyHdr) : Blk :=
  let paths := b.paths stream 0x7F
  let st := b.strmOf stream
  match choosePath st paths none with
  | none => b
  | some p =>
    let pkt : Packet := { h := b.peerHdr stream h }
    let b := b.setStrm stream (movePath st paths p)
    let b := b.modPort p.1 fun x => { x with ctl := x.ctl ++ [(stream, p.2, pkt)], nakTx := if h.typ = tNak then satInc 16 x.nakTx else x.nakTx }
    b.portDrain p.1

/-- The lowest PSN that is not both received and placed, and the bits above it (R262, R266, R270). -/
def ackFields (st : Strm) : Nat × Nat :=
  let e := st.unplaced.foldl (fun m p => if psnSub p m < 2 ^ 31 then m else p) st.e
  let got := fun p => (decide (psnSub p st.e ≥ 2 ^ 31) || st.map.contains p) && !st.unplaced.contains p
  (e, ((List.range 32).map fun i => if got (psnAdd e (1 + i)) then 2 ^ i else 0).sum)

/-- Send an ACK or SACK that echoes a TS (R255, R270). -/
def Blk.ackNow (b : Blk) (stream ts : Nat) : Blk :=
  let st := b.strmOf stream
  let f := ackFields st
  let b := b.setStrm stream { st with unack := 0, unackAt := none, ece := false }
  b.sendCtl stream { typ := if f.2 = 0 then tAck else tSack, ece := st.ece, ackPsn := f.1, sackBits := f.2, ts := ts }

/-- Send a NAK for a packet, at most once per stream and MSG_ID in each RTO_MIN (R261). -/
def Blk.nak (b : Blk) (stream : Nat) (h : SkyHdr) (reason info : Nat) : Blk :=
  let st := b.strmOf stream
  let quiet := match st.nakAt.find h.msgId with
    | some t => decide (b.now < t + b.cfg.mod.rtoMin * 1000)
    | none => false
  if quiet then b
  else (b.setStrm stream { st with nakAt := st.nakAt.set h.msgId b.now }).sendCtl stream
    { typ := tNak, psn := h.psn, msgId := h.msgId, reason := reason, info := info, ts := h.ts }

/-- How many PSNs a message takes (R255, R265). -/
def psnCount (typ len : Nat) : Nat :=
  if typ = tRead then 0 else if typ = tFlush ∨ typ = tCancel then 1 else (len + 4095) / 4096

/-- Issue a message on a stream: consecutive PSNs and the next MSG_ID (R265). -/
def Blk.issue (b : Blk) (stream : Nat) (m : OutMsg) : Blk :=
  let st := b.strmOf stream
  let n := psnCount m.typ m.len
  let m := { m with msgId := st.msg, psn := st.psn, count := n, issuedAt := b.now }
  b.setStrm stream
    { st with msg := psnAdd st.msg 1, psn := psnAdd st.psn n, msgs := st.msgs ++ [m],
              unsent := st.unsent ++ (List.range n).map fun i => psnAdd m.psn i }

/-- MSG_ID that the next message of a stream takes. -/
def Blk.nextMsg (b : Blk) (stream : Nat) : Nat := (b.strmOf stream).msg

def modMsg (st : Strm) (id : Nat) (f : OutMsg → OutMsg) : Strm :=
  { st with msgs := st.msgs.map fun m => if m.msgId = id then f m else m }

/-- Drop a message's packets, sent and unsent; whether one of them carried SYN (R263). -/
def dropPkts (st : Strm) (m : OutMsg) : Strm :=
  let syn := match st.synPsn with | some p => msgHas m p | none => false
  { st with pkts := st.pkts.filter fun k => !msgHas m k.psn, unsent := st.unsent.filter fun p => !msgHas m p,
            synPsn := if syn then none else st.synPsn }

/-- A failed message makes every later FLUSH of the incarnation PARTIAL (R268). -/
def noteFail (st : Strm) (m : OutMsg) : Strm :=
  if m.typ = tCancel then st
  else { st with firstFail := match st.firstFail with
    | some f => some (if psnSub f m.msgId < 2 ^ 31 then m.msgId else f)
    | none => some m.msgId }

/-- A message that cannot be completed ends with a status, its packets are dropped, EV_XPT_MSG_FAIL is raised, and a CANCEL names its PSN range
(R266, R268, R269, R273, R276). -/
def Blk.failMsg (b : Blk) (stream : Nat) (m : OutMsg) (status info : Nat) (cancel : Bool) : Blk :=
  let st := b.strmOf stream
  let first := match st.synPsn with | some p => msgHas m p | none => false
  let st := dropPkts st m
  let st := modMsg st m.msgId fun x =>
    { x with status := if x.status.isSome then x.status else some (status, info), failed := true, acked := true }
  let st := noteFail st m
  let b := b.setStrm stream st
  let b := b.modPort m.port fun x => { x with timeouts := if status = 1 then satInc 16 x.timeouts else x.timeouts }
  let b := b.raise 0x7001 (if m.typ = tEvent then moduleCtx else m.ctx) (diePan (homeDie stream))
    (stream % 2 ^ 14 + m.msgId * 2 ^ 32 + status * 2 ^ 64 + info * 2 ^ 80)
  if !cancel || m.count = 0 || m.typ = tCancel then b
  else
    let b := b.issue stream { typ := tCancel, ctx := m.ctx, msgId := 0, psn := 0, count := 0, off := m.psn * 2 ^ 32 + m.count, use_ := .cancel }
    -- the CANCEL after a given-up SYN is the next sequenced packet (R263)
    if first then b.modStrm stream fun x => { x with unsent := match x.unsent.getLast? with
      | some p => p :: x.unsent.dropLast
      | none => [] }
    else b

/-- Is a message still incomplete: some packet of it not acknowledged, or its answer outstanding? -/
def msgOpen (st : Strm) (m : OutMsg) : Bool :=
  if m.typ = tRead ∨ m.typ = tFlush then m.status.isNone
  else st.pkts.any (fun k => msgHas m k.psn) || st.unsent.any (msgHas m)

/-- The streams that belong to a context (R258). -/
def Blk.streamsOf (b : Blk) (ctx : Nat) : List Nat := (b.ctx ctx).rec_.pds.flatMap fun d => d.streams.map (·.stream)

/-- A CANCEL that leaves at once and is not kept: it takes the next PSN and MSG_ID, and carries SYN where the direction is not synchronised (R247, R263, R269). -/
def Blk.cancelNow (b : Blk) (stream first count : Nat) : Blk :=
  let st := b.strmOf stream
  let paths := b.paths stream 0x7F
  let h : SkyHdr := { typ := tCancel, solicit := true, syn := !st.synced, psn := st.psn, msgId := st.msg, offset := first * 2 ^ 32 + count, ts := b.now % 2 ^ 32 }
  let st' := { st with psn := psnAdd st.psn 1, msg := psnAdd st.msg 1 }
  match (if st.resyncAt.isSome then none else choosePath st paths none) with
  | none => b.setStrm stream st'
  | some path =>
    let b := b.setStrm stream { movePath st' paths path with synced := true }
    let b := b.modPort path.1 fun x => { x with cancelTx := satInc 16 x.cancelTx }
    b.sendData stream path { h := b.peerHdr stream h }

/-- Teardown step 3: one CANCEL leaves per incomplete outbound message that has a PSN range, without waiting for replies, and the copies are freed (R247, R269). -/
def Blk.cancelAll (b : Blk) (ctx : Nat) : Blk :=
  (b.streamsOf ctx).foldl (fun b n =>
    let st := b.strmOf n
    let open_ := st.msgs.filter fun m => msgOpen st m && m.typ ≠ tCancel
    open_.foldl (fun b m =>
      let x := dropPkts (b.strmOf n) m
      let b := b.setStrm n (modMsg (noteFail x m) m.msgId fun y => { y with status := if y.status.isSome then y.status else some (2, 0), failed := true, acked := true })
      if m.count = 0 then b else b.cancelNow n m.psn m.count) b) b

end Sys2Proof.Machine
end

