-- ==== Sys2Proof/Machine/Fault.lean ====
section
/-! DEFINITION. Context faults and the first teardown steps; control records and aborts of collectives (R244 to R247, R301, R312). -/
namespace Sys2Proof.Machine
open Sys2Proof

/-- Cause codes (R245). -/
def cFmtMix : Nat := 0x01
def cFmtRsv : Nat := 0x02
def cFmtRole : Nat := 0x03
def cMmaK : Nat := 0x04
def cMmaLayout : Nat := 0x05
def cAgState : Nat := 0x06
def cAgOwner : Nat := 0x07
def cAgMode : Nat := 0x08
def cCmdOp : Nat := 0x09
def cCmdRsv : Nat := 0x0A
def cCmdTarget : Nat := 0x0B
def cCmdClass : Nat := 0x0C
def cVeOp : Nat := 0x10
def cVeRsv : Nat := 0x11
def cVeReg : Nat := 0x12
def cVeVl : Nat := 0x13
def cVeMask : Nat := 0x14
def cVeAlign : Nat := 0x15
def cRkIllegal : Nat := 0x18
def cRkLocal : Nat := 0x19
def cRkAlign : Nat := 0x1A
def cRkEcall : Nat := 0x1B
def cAddrRange : Nat := 0x20
def cMemUe : Nat := 0x28
def cPhaseOverrun : Nat := 0x30
def cPhaseBlock : Nat := 0x31
def cPairWrite : Nat := 0x32
def cPairVersion : Nat := 0x33
def cUnitReset : Nat := 0x40
def cDieReset : Nat := 0x41
def cClkStop : Nat := 0x42
def cGrpAbort : Nat := 0x48
def cTideLost : Nat := 0x49

/-- No command sequence number in a fault record (R244). -/
def noSeq : Nat := 0xFFFFFFFF

/-! ### Groups and control records -/

/-- The stream a context uses to a member: its lowest-numbered one to that address under its own number (R298). -/
def Blk.memberStream (b : Blk) (ctx : Nat) (m : MemberRec) : Option Nat :=
  let l := (b.ctx ctx).rec_.pds.flatMap fun d => (d.streams.filter fun e => e.peerAddr = m.addr && !e.peerHost && e.peerCtx = ctx).map (·.stream)
  l.foldl (fun o n => match o with | some k => some (min k n) | none => some n) none

/-- A control record (R301). -/
structure CtlRec where
  kind : Nat
  rank : Nat := 0
  reason : Nat := 0
  credits : Nat := 0
  tide : Nat := 0
  value : Nat := 0
  len : Nat := 0
  deriving DecidableEq, Repr

/-- Its 64 bytes (R301). -/
def ctlBytes (c : CtlRec) : List Nat :=
  [c.kind, c.rank, c.reason, c.credits] ++ leBytes 4 0 ++ leBytes 6 c.tide ++ leBytes 2 0 ++ leBytes 8 c.value ++ leBytes 4 c.len ++ leBytes 36 0

/-- A control record read back from its bytes. -/
def ctlOfBytes (l : List Nat) : CtlRec :=
  { kind := l.getD 0 0, rank := l.getD 1 0, reason := l.getD 2 0, credits := l.getD 3 0, tide := ofLeBytes ((l.drop 8).take 6),
    value := ofLeBytes ((l.drop 0x10).take 8), len := ofLeBytes ((l.drop 0x18).take 4) }

/-- The sequence number that RESTORE and READY records carry: all ones (R329). -/
def seqRestore : Nat := 2 ^ 23 - 1

/-- NONE, as a RESTORE record carries it. -/
def noneStep : Nat := 2 ^ 64 - 1

/-- OFFSET of a control segment (R301). -/
def ctlOffset (seq : Nat) : Nat := 2 ^ 63 + seq * 2 ^ 40

/-- Send a control record of a collective to one member. -/
def Blk.sendCtlRec (b : Blk) (ctx group seq gen : Nat) (reduction : Bool) (m : MemberRec) (c : CtlRec) : Blk :=
  match b.memberStream ctx m with
  | none => b
  | some n => b.issue n
    { typ := if reduction then tReduce else tPermute, ctx := ctx, msgId := 0, psn := 0, count := 0, winId := group, winGen := gen % 2 ^ 16,
      len := 64, data := ctlBytes c, off := ctlOffset seq, use_ := .coll group seq }

/-- Send one to every other member. -/
def Blk.sendCtlAll (b : Blk) (ctx group seq gen : Nat) (reduction : Bool) (c : CtlRec) : Blk :=
  match b.groupFor ctx group seq with
  | none => b
  | some g => (g.members.filter fun m => m.position ≠ b.pos).foldl (fun b m => b.sendCtlRec ctx group seq gen reduction m c) b

/-! ### Collectives -/

def Blk.modColl (b : Blk) (ctx group seq : Nat) (f : Coll → Coll) : Blk :=
  { b with colls := b.colls.map fun c => if collIs c ctx group seq then f c else c }

/-- Has the collective not ended here? -/
def collOpen (c : Coll) : Bool :=
  match c.st with
  | .done => false
  | .epochOld => false
  | .aborted => false
  | _ => true

/-- Is it a reduction? Its traffic travels as REDUCE (R301). -/
def collReduces (c : Coll) : Bool := c.d.op = 1 || c.d.op = 2

/-- The pan of a collective's engine, or the hub die (R244). -/
def collPan (c : Coll) : Pan := match c.engine with | some e => cePan e | none => hubPan

/-- Which collective a held shard is for: context, group, sequence number. -/
def heldFor (h : HeldShard) (ctx group seq : Nat) : Bool :=
  h.pkt.h.ctx = ctx && h.pkt.h.winId = group && bits h.pkt.h.offset 40 23 = seq

/-- One collective aborts on this member: its staging is discarded, EV_GRP_ABORT is raised and an ABORT goes to every member (R312, R315). -/
def Blk.abortOne (b : Blk) (c : Coll) (reason rank : Nat) (tell : Bool) (sev : Nat) : Blk :=
  let b := b.modColl c.ctx c.group c.seq fun x => { x with st := .aborted, reason := reason, got := [], kept := [], waitTide := none, waitAt := none }
  let b := { b with heldShards := b.heldShards.filter fun h => !heldFor h c.ctx c.group c.seq }
  let b := match c.engine with
    | some e => b.modCe e fun x => { x with aborts := satInc 16 x.aborts, lastReason := reason }
    | none => b
  let b := b.raiseSev sev 0x8001 c.ctx (collPan c) (c.group + c.seq * 2 ^ 16 + reason * 2 ^ 40 + rank * 2 ^ 48)
  if tell then b.sendCtlAll c.ctx c.group c.seq c.d.epoch (collReduces c)
    { kind := 3, rank := match b.collGroup c with | some g => b.rankIn g | none => 0, reason := reason }
  else b

/-! ### Faults and teardown -/

/-- The 32 bytes of a fault record as DETAIL (R244). -/
def faultDetail (f : FaultRec) : Nat :=
  f.cause + f.pan * 2 ^ 32 + f.seq * 2 ^ 64 + b2n f.pcValid * 2 ^ 96 + f.addr * 2 ^ 128 + f.detail * 2 ^ 192

/-- CAUSE of a pan and of the groups that hold it (R16). -/
def Blk.setCause (b : Blk) (p : Pan) (cause : Nat) : Blk :=
  (p :: groupsOf p ++ [clusterPan]).foldl (fun b q => b.modPan q fun x => { x with cause := cause }) b

/-- The accumulation group as after reset (R81, R87). -/
def closedAg : Ag := {}

/-- A vector engine without a context's streams: a running one is stopped and the registers are cleared (R125). -/
def veWithout (v : Ve) (ctx : Nat) : Ve :=
  let q := v.q.filter fun x => x.ctx ≠ ctx
  let next := v.next.filter fun x => x.ctx ≠ ctx
  match v.run with
  | some x => if x.ctx = ctx then { q := q, next := next } else { v with q := q, next := next }
  | none => { v with q := q, next := next }

/-- Teardown step 1: fence (R247, R87, R125, R179, R211). Writes in flight stay: they land in step 4. -/
def Blk.fence (b : Blk) (ctx : Nat) : Blk :=
  { b with
    ve := b.ve.mapV fun _ v => veWithout v ctx
    me := b.me.mapV fun _ m => { m with
      q := m.q.filter fun x => x.ctx ≠ ctx
      sample := match m.sample with | some x => if x.cmd.ctx = ctx then none else some x | none => none
      ag := m.ag.mapV fun _ g => if g.owner.any fun o => o.1 = ctx then closedAg else g }
    rk := b.rk.mapV fun _ r => if r.prog.any fun p => p.ctx = ctx then { r with wait := none, issued := [], resv := none } else r
    slu := { b.slu with migs := b.slu.migs.filter fun m => m.ctx ≠ ctx, stalls := b.slu.stalls.filter fun r => r.ctx ≠ ctx }
    arbs := b.arbs.mapV fun _ a => a.keep fun r => match r.what with
      | .initCmd c _ => c ≠ ctx
      | .stream c _ => c ≠ ctx
      | .slot _ => r.ctx ≠ ctx
      | _ => true
    ctxs := b.ctxs.mapV fun n c => if n = ctx then { c with handles := [], open_ := [], loads := [], barrier := false } else c }

/-- The next generation of a window: 1 to 65,535 and round again (R260). -/
def nextGen (g : Nat) : Nat := if g ≥ 65535 then 1 else g + 1

/-- Teardown step 2: revoke every window the context has opened, and discard its inbound records (R247, R260, R279). -/
def Blk.revoke (b : Blk) (ctx : Nat) : Blk :=
  let ws := (b.ctx ctx).rec_.pds.flatMap fun d => d.windows.map (·.winId)
  let b := ws.foldl (fun b w => if (b.winOf w).open_ then b.modWin w fun x => { x with gen := nextGen x.gen, open_ := false } else b) b
  let ns := b.streamsOf ctx
  { b with recs := b.recs.filter fun r => !ns.contains r.stream, held := b.held.filter fun h => !ns.contains h.pkt.h.stream }

/-- Teardown step 3: cancel messages and abort collectives; a faulted job aborts its PHASE_GROUP (R247, R328). -/
def Blk.cancelStep (b : Blk) (ctx : Nat) (faulted : Bool) : Blk :=
  let b := b.cancelAll ctx
  let mine := b.colls.filter fun c => c.ctx = ctx && collOpen c
  let b := mine.foldl (fun b c => b.abortOne c 6 (match b.collGroup c with | some g => b.rankIn g | none => 0) true 3) b
  match (b.ctx ctx).rec_.sched with
  | some s =>
    if faulted && !mine.any (fun c => c.group = s.phaseGroup) then
      b.sendCtlAll ctx s.phaseGroup ((b.ctx ctx).collSeq.get 0 s.phaseGroup) (b.ctx ctx).epoch false
        { kind := 3, rank := match b.groupOf s.phaseGroup with | some g => b.rankIn g | none => 0, reason := 6 }
    else b
  | none => b

/-- Start a context's teardown: steps 1 to 3 (R235, R247). -/
def Blk.teardown (b : Blk) (ctx : Nat) (reason : TdReason) : Blk :=
  let b := b.modCtx ctx fun c => { c with st := .teardown, tdStep := 0, tdReason := reason, tdStart := b.now }
  let b := b.fence ctx
  let b := b.revoke ctx
  let b := b.cancelStep ctx (decide (reason = .fault))
  (b.modCtx ctx fun c => { c with tdStep := 3, phase := .none, gen := none, genPrev := none, learn := none, returning := false }).drainAll

/-- A fault meets a context (R244, R246): the first makes the record, raises EV_CTX_FAULT and starts the teardown; a later one counts in MORE. -/
def Blk.ctxFault (b : Blk) (ctx cause : Nat) (pan : Pan) (seq : Nat) (pcValid : Bool) (addr detail : Nat) : Blk :=
  match (b.ctx ctx).st with
  | .teardown => b.modCtx ctx fun c => { c with fault := { c.fault with more := satInc 8 c.fault.more } }
  | .absent => b
  | .quarantine => b
  | _ =>
    let f : FaultRec := { valid := true, cause := cause, pan := b.full pan, seq := seq, pcValid := pcValid, addr := addr % 2 ^ 64, detail := detail % 2 ^ 64 }
    let b := b.modCtx ctx fun c => { c with fault := f }
    let b := b.setCause pan cause
    let b := b.raise 0x5002 ctx pan (faultDetail f)
    b.teardown ctx .fault

/-- A fault without a command, a program counter or a detail. -/
def Blk.plainFault (b : Blk) (ctx cause : Nat) (pan : Pan) (addr : Nat) : Blk := b.ctxFault ctx cause pan noSeq false addr 0

/-- A collective aborts with a reason of R312, and its context is faulted: with TIDE_LOST for reason 5, otherwise with GRP_ABORT. -/
def Blk.abortColl (b : Blk) (c : Coll) (reason rank : Nat) : Blk :=
  let b := b.abortOne c reason rank (decide (reason ≠ 4)) 3
  b.ctxFault c.ctx (if reason = 5 then cTideLost else cGrpAbort) (if reason = 5 then hubPan else collPan c) noSeq false 0 0

end Sys2Proof.Machine
end

