-- ==== Sys2Proof/Machine/Place.lean ====
section
/-! DEFINITION. Granules and their copies, and writes to context memory (R160 to R171, R193, R322). -/
namespace Sys2Proof.Machine
open Sys2Proof

/-! ### Regions -/

/-- 2 MiB (R160). -/
def granBytes : Nat := 2 ^ 21

def regionBytes (r : RegionRec) : Nat := r.granules * granBytes

/-- The region that holds a context address (R233). -/
def regionAt (c : Ctx) (a : Nat) : Option RegionRec := c.rec_.regions.find? fun r => decide (r.base ≤ a ∧ a < r.base + regionBytes r)

/-- Are all bytes of a range inside the region table? Adjoining regions may share it. -/
def covered (c : Ctx) (a len : Nat) : Bool :=
  (c.rec_.regions.map fun r => min (a + len) (r.base + regionBytes r) - max a r.base).sum = len

/-- The granules a range touches. -/
def gransOf (a len : Nat) : List Nat :=
  if len = 0 then [] else (List.range ((a + len - 1) / granBytes - a / granBytes + 1)).map fun i => a / granBytes + i

def tensorRegion (c : Ctx) (t : Nat) : Option RegionRec := c.rec_.regions.find? fun r => r.tensorId = t

/-- The granules of a region. -/
def regionGrans (r : RegionRec) : List Nat := (List.range r.granules).map fun i => r.base / granBytes + i

/-! ### The granule map -/

def granKey (ctx g : Nat) : Nat := ctx * 2 ^ 43 + g

def Blk.gran (b : Blk) (ctx g : Nat) : Option Gran := b.slu.map.find (granKey ctx g)

def Blk.setGran (b : Blk) (ctx g : Nat) (x : Gran) : Blk := b.modSlu fun s => { s with map := s.map.set (granKey ctx g) x }

/-- GEN rises by one and wraps (R169). -/
def bumpGen (x : Gran) : Gran := { x with gen := (x.gen + 1) % 2 ^ 16 }

/-- Does a die hold a copy that its engines may read (R163)? -/
def holdsCopy (x : Gran) (die : Nat) : Bool := x.work = some die || x.staged.contains die

/-- The commands bound to a die's copy of a granule (R169). -/
def Blk.boundTo (b : Blk) (ctx g die : Nat) : List (Nat × Nat) :=
  b.me.flatMap fun e => if e.1 / 8 = die then
    (e.2.q.filter fun c => c.running && c.ctx = ctx && c.grans.contains g).map fun c => (e.1, c.seq) else []

/-- Is a write to the granule in flight (R170 step 5)? -/
def Blk.writesIn (b : Blk) (ctx g : Nat) : Bool :=
  b.pend.any fun p => p.ctx = ctx && p.bytes.any fun x => x.1 / granBytes = g

/-- The migration of a granule, if one is in progress. -/
def Blk.migOf (b : Blk) (ctx g : Nat) : Option Mig := b.slu.migs.find? fun m => m.ctx = ctx && m.gran = g

/-- May a newly issued write to the granule be performed (R163, R170)? It waits while a staged copy is in use or being made, and in a move's last pass. -/
def Blk.writable (b : Blk) (ctx g : Nat) : Bool :=
  (match b.gran ctx g with
    | some x => x.staged.all fun d => (b.boundTo ctx g d).isEmpty
    | none => true) &&
  b.slu.migs.all fun m => m.ctx ≠ ctx || m.gran ≠ g || (!m.last && (match m.kind with
    | .stage _ _ => false
    | _ => true))

/-- Drop every staged copy of a granule (R163, R170). -/
def Blk.dropStaged (b : Blk) (ctx g : Nat) : Blk :=
  match b.gran ctx g with
  | none => b
  | some x => if x.staged.isEmpty then b else b.setGran ctx g (bumpGen { x with staged := [] })

/-! ### Room -/

/-- Working copies on a die, of at most 480 (R165). -/
def Blk.workOn (b : Blk) (die : Nat) : Nat := (b.slu.map.filter fun e => e.2.work = some die).length
def Blk.stagedOn (b : Blk) (die : Nat) : Nat := (b.slu.map.filter fun e => e.2.staged.contains die).length

/-- Granules of a die's SRAM that migrations have reserved. -/
def Blk.reservedOn (b : Blk) (die : Nat) : Nat :=
  (b.slu.migs.filter fun m => match m.kind with | .stage d _ => d = die | .work d => d = die | _ => false).length

/-- Free granules of a die's staging SRAM, of 512 (R165, R184). -/
def Blk.freeSram (b : Blk) (die : Nat) : Nat :=
  512 - (b.workOn die + b.stagedOn die + b.reservedOn die + (b.slu.old.filter fun o => o.place = .sram die).length)

/-- Working copies on a die, those being made included. -/
def Blk.workCount (b : Blk) (die : Nat) : Nat :=
  b.workOn die + (b.slu.migs.filter fun m => m.kind = .work die).length

/-- Granules that a stack offers contexts (R137). -/
def t1Cap (stack : Nat) : Nat := if stack = 0 ∨ stack = 4 then 32640 else 32768

/-- Granules that a package offers contexts: 16,384 less the receive area's share (R137, R321). -/
def Blk.t2Cap (b : Blk) (pkg : Nat) : Nat := 16384 - (2 * b.spare.areaGranules + 15 - pkg) / 16

/-- Granules in use or reserved at a resting place. -/
def Blk.usedAt (b : Blk) (p : Place) : Nat :=
  (b.slu.map.filter fun e => e.2.rest = p).length + (b.slu.old.filter fun o => o.place = p).length +
  (b.slu.migs.filter fun m => match m.kind with | .rest d => d = p | .offload d => d = p | .ret d => d = p | _ => false).length

def Blk.freeT1 (b : Blk) : Nat := ((List.range 8).map fun s => t1Cap s - b.usedAt (.t1 s)).sum
def Blk.freeT2 (b : Blk) : Nat := ((List.range 16).map fun p => b.t2Cap p - b.usedAt (.t2 p)).sum

/-- The first stack with room, from (g + TENSOR_ID) mod 8 on (R164). -/
def Blk.findT1 (b : Blk) (n : Nat) : Option Place :=
  ((List.range 8).map fun i => (n + i) % 8).findSome? fun s => if b.usedAt (.t1 s) < t1Cap s then some (.t1 s) else none

/-- The first package with room, from (g + TENSOR_ID) mod 16 on (R164). -/
def Blk.findT2 (b : Blk) (n : Nat) : Option Place :=
  ((List.range 16).map fun i => (n + i) % 16).findSome? fun p => if b.usedAt (.t2 p) < b.t2Cap p then some (.t2 p) else none

def Blk.cls (b : Blk) (c : Nat) : SluClass := b.cfg.slu.classes.getD c {}

/-- The resting place of granule `g` of a region, and whether it lies outside REST_PREF (R164). -/
def Blk.restPlace (b : Blk) (r : RegionRec) (g : Nat) : Option (Place × Bool) :=
  let k := b.cls r.cls
  let n := g + r.tensorId
  if k.restPref = 0 then
    match b.findT1 n with
    | some p => some (p, false)
    | none => if k.allowT2 then (b.findT2 n).map fun p => (p, true) else none
  else
    match b.findT2 n with
    | some p => some (p, false)
    | none => if k.allowT1 then (b.findT1 n).map fun p => (p, true) else none

/-- Place granule `i` of a region: its resting place, and a working copy where the class asks for one and the die has room (R164, R165). -/
def Blk.placeGran (b : Blk) (ctx : Nat) (r : RegionRec) (i : Nat) : Option Blk :=
  match b.restPlace r i with
  | none => none
  | some (p, ovf) =>
    let k := b.cls r.cls
    let die := if r.die = 0xF then i % 4 else r.die
    let w := if k.sramFirst && decide (0 < b.freeSram die) && decide (b.workCount die < 480) then some die else none
    some (b.setGran ctx (r.base / granBytes + i) { rest := p, work := w, overflow := ovf, lastUse := (w.toList.map fun d => (d, b.now)) })

/-- Place every granule of a list of regions, or none (R164). -/
def Blk.placeAll (b : Blk) (ctx : Nat) (rs : List RegionRec) : Option Blk :=
  rs.foldl (fun ob r => (List.range r.granules).foldl (fun ob i => ob.bind fun b => b.placeGran ctx r i) ob) (some b)

/-- A die has read a granule (R165, R177). -/
def Blk.noteRead (b : Blk) (ctx g die : Nat) : Blk :=
  match b.gran ctx g with
  | none => b
  | some x => b.setGran ctx g { x with lastDie := some die, lastUse := x.lastUse.set die b.now }

/-- An access to the home of a granule is a use of its working copy (R163, R165). -/
def Blk.noteUse (b : Blk) (ctx g : Nat) : Blk :=
  match b.gran ctx g with
  | none => b
  | some x => match x.work with
    | none => b
    | some d => b.setGran ctx g { x with lastUse := x.lastUse.set d b.now }

/-- An access to a range's homes. -/
def Blk.noteUses (b : Blk) (ctx a len : Nat) : Blk := (gransOf a len).foldl (fun b g => b.noteUse ctx g) b

/-! ### Writing -/

/-- The pitch of a row of `cols` elements of `size` bytes in engine tile order (R209). -/
def tilePitch (cols size : Nat) : Nat := (cols * size + 63) / 64 * 64

/-- Under FWD_MX8 the rows of a sealed region are padded to a multiple of 64, and the scale array stands behind them (R209). -/
def mxRows (r : RegionRec) : Nat := (r.rowCount + 63) / 64 * 64
def mxElemEnd (r : RegionRec) : Nat := mxRows r * tilePitch r.colCount 1
def mxScalePitch (r : RegionRec) : Nat := tilePitch (r.colCount / 32) 1

/-- The bytes that a sealed region's layout takes, where the spec gives one (R209). -/
def tileBytes (r : RegionRec) : Nat :=
  if r.recipe = 1 then mxElemEnd r + mxRows r * mxScalePitch r
  else match fmtOfCode r.fmt with
    | some f => if isMx f then 0 else r.rowCount * tilePitch r.colCount (elemBytes f)
    | none => 0

/-- Is a byte of a region in an MX format, by its offset, a scale (R53)? Where no package lays the region out, the spec does not say: free. -/
def isScale (r : RegionRec) (off : Nat) : Bool := if r.isSealed && r.recipe = 1 then decide (mxElemEnd r ≤ off) else Config.mxScale r.tensorId off

/-- The offset of the scale of an element byte's block. -/
def scaleAt (r : RegionRec) (off : Nat) : Nat :=
  if r.isSealed && r.recipe = 1 then
    let p := tilePitch r.colCount 1
    mxElemEnd r + off / p * mxScalePitch r + off % p / 32
  else Config.mxScaleOf r.tensorId off

/-- The bits of an element byte that are no sign bits: elements of 8, 6 or 4 bits, packed from the first byte of a block on (R49, R53). -/
def mxMagnitude (f : Fmt) (off : Nat) : Nat :=
  match fmtWidth f with
  | 4 => 0x77
  | 6 => [0xDF, 0xF7, 0x7D].getD (off % 3) 0xFF
  | _ => 0x7F

/-- Does a byte written at an offset of a region hold a nonzero value (R193)? A scalar element is zero when no bit but its sign is set; an element of an MX block is
when its code is a zero and the block's scale, which `rd` reads, is not 0xFF. -/
def byteNonzero (r : RegionRec) (rd : Nat → Nat) (off v : Nat) : Bool :=
  match fmtOfCode r.fmt with
  | none => v ≠ 0
  | some f =>
    if !isMx f then
      let n := elemBytes f
      (if off % n = n - 1 then v % 128 else v) ≠ 0
    else if isScale r off then v = 0xFF
    else v.land (mxMagnitude f off) ≠ 0 || rd (scaleAt r off) = 0xFF

/-- Bytes written from an address on, each with its address. -/
def cellsAt (a : Nat) (bs : List Nat) : List (Nat × Nat) := bs.zipIdx.map fun p => (a + p.2, p.1)

/-- The zero-step observation of a write of bytes, in every region they lie in; only in a LEARN phase (R193). `mem` is the memory before it. -/
def Blk.observe (b : Blk) (mem : List Host.Cell) (ctx : Nat) (cells : List (Nat × Nat)) (flushed : Bool) : Blk :=
  if (b.ctx ctx).phase ≠ .learn then b
  else (b.ctx ctx).rec_.regions.foldl (fun b r =>
    let mine := cells.filter fun x => decide (r.base ≤ x.1 ∧ x.1 < r.base + regionBytes r)
    if mine.isEmpty then b
    else
      let rd := fun off => match mine.find? fun x => x.1 = r.base + off with
        | some x => x.2
        | none => memRead mem (memKey ctx (r.base + off))
      b.modCtx ctx fun c =>
        let x := c.regions.get {} r.tensorId
        let y := { x with written := true, nonzero := x.nonzero || mine.any (fun y => byteNonzero r rd (y.1 - r.base) y.2), flushed := x.flushed || flushed }
        { c with regions := c.regions.set r.tensorId y }) b

/-- The dirty unit of an address within its granule (R170). -/
def unitOf (a : Nat) : Nat := a % granBytes / 512

/-- A write breaks the reservations on the lines it touches (R126, R127). -/
def Blk.breakResv (b : Blk) (ctx a len : Nat) : Blk :=
  if b.rk.any fun e => e.2.resv.isSome then
    { b with rk := b.rk.mapV fun _ r => match r.resv with
      | some (c, l) => if c = ctx ∧ a < 64 * l + 64 ∧ 64 * l < a + len then { r with resv := none } else r
      | none => r }
  else b

/-- What a write does beside memory: staged copies are dropped, the working copy counts as used, units in migration are marked dirty, the granule counts as written since the last capture
(R163, R165, R170, R323). -/
def Blk.touch (b : Blk) (ctx a len : Nat) : Blk :=
  (gransOf a len).foldl (fun b g =>
    let b := (b.dropStaged ctx g).noteUse ctx g
    let us := (List.range ((len + 511) / 512 + 1)).filterMap fun i =>
      let x := a + 512 * i
      if x < a + len + 511 ∧ x / granBytes = g then some (unitOf x) else none
    let b := b.modSlu fun s => { s with migs := s.migs.map fun m =>
      if m.ctx = ctx && m.gran = g then { m with dirty := m.dirty ++ us.filter fun u => !m.dirty.contains u } else m }
    b.modCtx ctx fun c => if c.hrv.written.contains g then c else { c with hrv := { c.hrv with written := c.hrv.written ++ [g] } }) (b.breakResv ctx a len)

/-- Granules of a context's class H regions that hold no copy kept for a capture (R322). -/
def freeH (c : Ctx) (cap : Capture) : List Nat :=
  ((c.rec_.regions.filter fun r => r.cls = 8).flatMap regionGrans).filter fun g => !(cap.kept.vals.contains g)

/-- Granules of a range that must be copied before a write (R322). -/
def cowNeeds (c : Ctx) (a len : Nat) : List Nat :=
  match c.hrv.cap with
  | none => []
  | some cap => (gransOf a len).filter fun g => cap.unsent.contains g && !cap.kept.has g

/-- Has the copy on write room (R322)? -/
def cowRoom (c : Ctx) (a len : Nat) : Bool :=
  match c.hrv.cap with
  | none => true
  | some cap => decide ((cowNeeds c a len).length ≤ (freeH c cap).length)

/-- Copy the bytes of one granule over another's. -/
def memCopyGran (m : List Host.Cell) (ctx g h : Nat) : List Host.Cell :=
  let src := memKey ctx (g * granBytes)
  let dst := memKey ctx (h * granBytes)
  let cells := m.filter fun c => decide (src ≤ c.1 ∧ c.1 < src + granBytes)
  cells.foldl (fun m c => memWrite m (dst + (c.1 - src)) c.2.toNat) (memZero m dst (dst + granBytes))

/-- Copy on write: each granule still to be sent goes into a class H granule first (R322). -/
def State.cow (s : State) (ctx a len : Nat) : State :=
  (cowNeeds (s.b.ctx ctx) a len).foldl (fun s g =>
    let c := s.b.ctx ctx
    match c.hrv.cap with
    | none => s
    | some cap => match (freeH c cap).head? with
      | none => s
      | some h =>
        let cap := { cap with kept := cap.kept.set g h }
        { s with mem := memCopyGran s.mem ctx g h, b := s.b.setCtx ctx { c with hrv := { c.hrv with cap := some cap } } }) s

/-- May bytes be written now: the granules take writes and a capture has room (R163, R170, R322)? -/
def State.canWrite (s : State) (ctx a len : Nat) : Bool :=
  (gransOf a len).all (fun g => s.b.writable ctx g) && cowRoom (s.b.ctx ctx) a len

/-- A write that waits because a capture has no room for the granule's copy is counted once (R322, R340). -/
def State.cowBlock (s : State) (ctx a len : Nat) : State :=
  let c := s.b.ctx ctx
  if cowRoom c a len || c.hrv.cowAt.contains a then s
  else s.setB (s.b.setCtx ctx { c with hrv := { c.hrv with cowAt := c.hrv.cowAt ++ [a], cowWait := satInc 16 c.hrv.cowWait } })

/-- Write bytes into context memory where every reader sees them. -/
def State.store (s : State) (ctx a : Nat) (bs : List Nat) : State :=
  let s := s.cow ctx a bs.length
  { s with mem := memWriteBytes s.mem (memKey ctx a) bs, b := s.b.touch ctx a bs.length }

/-- The bytes of a list of writes, each with its address. -/
def chunkBytes (cs : List (Nat × List Nat)) : List (Nat × BitVec 8) :=
  cs.flatMap fun c => c.2.zipIdx.map fun x => (c.1 + x.2, BitVec.ofNat 8 x.1)

/-- Write bytes that not every reader sees yet, each `unit` of them whole (R98, R107, R128). -/
def State.hold (s : State) (w : Writer) (ctx : Nat) (cs : List (Nat × List Nat)) (unit : Nat := 64) : State :=
  let s := cs.foldl (fun s c => s.cow ctx c.1 c.2.length) s
  let b := cs.foldl (fun b c => b.touch ctx c.1 c.2.length) s.b
  s.setB { b with pend := b.pend ++ [{ who := w, ctx := ctx, bytes := chunkBytes cs, unit := unit }] }

/-- The number of an engine that writes: a drain lane or a vector engine; none for a raker core. -/
def Writer.engine : Writer → Option Nat
  | .rk _ => none
  | .ve n => some n
  | .close me lane => some (16 + 2 * me + lane)

/-- The bytes of a held write that it still places. -/
def placedBytes (p : Pend) : List (Nat × BitVec 8) := p.bytes.filter fun x => !p.lost.contains x.1

/-- Of two engines' writes on their way together each line, or each element of a stream, holds the one or the other (R99, R125): the addresses of `p` at which
the writes placed now outlast it. -/
def outlasted (free : Nat) (mine : List Pend) (p : Pend) : List Nat :=
  match p.who.engine with
  | none => []
  | some n => (p.bytes.map fun x => x.1).filter fun a => mine.any fun q =>
      q.ctx = p.ctx && ((placedBytes q).any fun x => x.1 = a) && Config.lineNew free (2 ^ 80 * (n + 1) + memKey p.ctx (a / max q.unit p.unit))

/-- The writes still held when those of `w` have been placed. -/
def heldAfter (free : Nat) (w : Writer) (l : List Pend) : List Pend :=
  let rest := l.filter fun p => p.who ≠ w
  if w.engine.isNone then rest
  else rest.map fun p => { p with lost := p.lost ++ outlasted free (l.filter fun q => q.who = w) p }

/-- Held writes become visible to every reader. -/
def State.publish (s : State) (w : Writer) : State :=
  let mine := s.b.pend.filter fun p => p.who = w
  let rest := heldAfter s.b.freeCtr w s.b.pend
  let fresh := if rest = s.b.pend.filter fun p => p.who ≠ w then s.b.freeCtr else s.b.freeCtr + 1
  { s with mem := mine.foldl (fun m p => (placedBytes p).foldl (fun m x => memWrite m (memKey p.ctx x.1) x.2.toNat) m) s.mem,
           b := mine.foldl (fun b p => p.bytes.foldl (fun b x => b.breakResv p.ctx x.1 1) b) { s.b with pend := rest, freeCtr := fresh } }

/-- What a reader sees of one byte: the bytes it wrote itself; of another's held write, a raker core's old bytes, and for the rest either (R98, R107, R128). -/
def State.view (s : State) (who : Option Writer) (ctx a : Nat) : Nat :=
  s.b.pend.foldl (fun v p =>
    if p.ctx ≠ ctx then v
    else match (p.bytes.filter fun x => x.1 = a).getLast? with
      | none => v
      | some x =>
        if some p.who = who then x.2.toNat
        else match p.who with
          | .rk _ => v
          | _ => if Config.lineNew s.b.freeCtr (memKey ctx a / 64) then x.2.toNat else v) (memRead s.mem (memKey ctx a))

/-- What a reader sees of `len` bytes. -/
def State.viewBytes (s : State) (who : Option Writer) (ctx a len : Nat) : List Nat :=
  (List.range len).map fun i => s.view who ctx (a + i)

/-- What a reader sees of a little-endian number of `len` bytes. -/
def State.viewNat (s : State) (who : Option Writer) (ctx a len : Nat) : Nat := ofLeBytes (s.viewBytes who ctx a len)

/-- Zero a context's granule (R160, R247). -/
def State.zeroGran (s : State) (ctx g : Nat) : State :=
  { s with mem := memZero s.mem (memKey ctx (g * granBytes)) (memKey ctx (g * granBytes) + granBytes) }

/-- Zero all of a context's memory. -/
def State.zeroCtx (s : State) (ctx : Nat) : State := { s with mem := memZero s.mem (memKey ctx 0) (memKey (ctx + 1) 0) }

end Sys2Proof.Machine
end

