-- ==== Sys2Proof/Machine/Migrate.lean ====
section
/-! DEFINITION. Migration slots, the requests that wait for one or for room, and the return of offloaded granules (R165, R170, R171, R175, R176). -/
namespace Sys2Proof.Machine
open Sys2Proof

/-! ### Room in staging SRAM (R165) -/

/-- A staged copy on a die whose in-flight count is zero, the least recently read first. -/
def Blk.stagedVictim (b : Blk) (die : Nat) : Option Nat :=
  let l := b.slu.map.filter fun e => e.2.staged.contains die && (b.boundTo (e.1 / 2 ^ 43) (e.1 % 2 ^ 43) die).isEmpty
  (l.foldl (fun (o : Option (Nat × Nat)) e =>
    let t := e.2.lastUse.get 0 die
    match o with
    | some x => if t < x.2 then some (e.1, t) else o
    | none => some (e.1, t)) none).map (·.1)

/-- Is a granule of a class with PIN = 1? -/
def Blk.pinned (b : Blk) (ctx g : Nat) : Bool :=
  match regionAt (b.ctx ctx) (g * granBytes) with
  | some r => (b.cls r.cls).pin
  | none => false

/-- A working copy on a die with no operation bound to it: classes without PIN first, then the least recently used. -/
def Blk.workVictim (b : Blk) (die : Nat) : Option Nat :=
  let l := b.slu.map.filter fun e =>
    let c := e.1 / 2 ^ 43
    let g := e.1 % 2 ^ 43
    e.2.work = some die && (b.boundTo c g die).isEmpty && !b.writesIn c g && (b.migOf c g).isNone
  (l.foldl (fun (o : Option (Nat × Nat × Nat)) e =>
    let k := (b2n (b.pinned (e.1 / 2 ^ 43) (e.1 % 2 ^ 43)), e.2.lastUse.get 0 die)
    match o with
    | some x => if k.1 < x.2.1 ∨ (k.1 = x.2.1 ∧ k.2 < x.2.2) then some (e.1, k) else o
    | none => some (e.1, k)) none).map (·.1)

/-- The die whose staging SRAM a migration needs a granule of, and whether for a working copy. -/
def sramNeed (k : MigKind) : Option (Nat × Bool) :=
  match k with
  | .stage d _ => some (d, false)
  | .work d => some (d, true)
  | _ => none

/-- May a migration take its destination now? -/
def Blk.hasRoom (b : Blk) (k : MigKind) : Bool :=
  match sramNeed k with
  | some (d, w) => decide (0 < b.freeSram d) && (!w || decide (b.workCount d < 480))
  | none => true

/-! ### Starting and waiting (R170, R171) -/

def Blk.startMig (b : Blk) (ctx g : Nat) (k : MigKind) : Blk :=
  b.modSlu fun s => { s with migs := s.migs ++ [{ ctx := ctx, gran := g, kind := k }] }

def Blk.slotFree (b : Blk) : Bool := decide (b.slu.migs.length < 256)

/-- May a migration take a slot at once: one is free, and no request waits for one (R171)? -/
def Blk.slotNow (b : Blk) : Bool := b.slotFree && !(b.slu.stalls.any fun r => r.wait = .slot)

/-- Put a waiting request for a slot to the slots' arbiter, in its context's class (R171, R238). -/
def Blk.askSlot (b : Blk) (ctx n : Nat) : Blk := b.request .migrSlots { cls := (b.ctx ctx).qos, ctx := ctx, cost := 1, what := .slot n }

/-- A request that finds no slot or no room waits; for a slot it waits at the slots' arbiter. -/
def Blk.waitMig (b : Blk) (ctx g : Nat) (k : MigKind) (w : MigWait) : Blk :=
  if b.slu.stalls.any fun r => r.ctx = ctx && r.gran = g && r.kind = k then b
  else
    let n := b.slu.nextReq
    let r : StallReq := { n := n, ctx := ctx, gran := g, kind := k, since := b.now, wait := w }
    let b := b.modSlu fun s => { s with stalls := s.stalls ++ [r], nextReq := n + 1, stallNow := s.stallNow || decide (w = .sram) }
    if w = .slot then b.askSlot ctx n else b

/-- A waiting request goes on waiting, for `w`; the time counts from when it began to wait for that (R165, R180). -/
def Blk.waitFor (b : Blk) (r : StallReq) (w : MigWait) : Blk :=
  if r.wait = w then b
  else
    let b := b.modSlu fun s => { s with
      stalls := s.stalls.map fun x => if x.n = r.n then { x with wait := w, since := b.now } else x, stallNow := s.stallNow || decide (w = .sram) }
    if w = .slot then b.askSlot r.ctx r.n else b

/-- Free a granule of a die's staging SRAM as R165 orders: the state in which a staged copy is dropped, or a write-back has begun or waits for its slot. -/
def Blk.makeRoom (b : Blk) (k : MigKind) : Blk :=
  match sramNeed k with
  | none => b
  | some (d, w) =>
    let full := w && decide (480 ≤ b.workCount d)
    match (if full then none else b.stagedVictim d) with
    | some key => match b.slu.map.find key with
      | some x => b.modSlu fun s => { s with map := s.map.set key (bumpGen { x with staged := x.staged.filter (· ≠ d) }) }
      | none => b
    | none =>
      if (b.slu.migs.any fun m => m.kind = .writeBack d) || b.slu.stalls.any fun r => r.kind = .writeBack d then b
      else match b.workVictim d with
        | some key =>
          if b.slotNow then b.startMig (key / 2 ^ 43) (key % 2 ^ 43) (.writeBack d) else b.waitMig (key / 2 ^ 43) (key % 2 ^ 43) (.writeBack d) .slot
        | none => b

/-- Ask for a migration: it starts, or it waits for a slot or for staging SRAM. -/
def Blk.askMig (b : Blk) (ctx g : Nat) (k : MigKind) : Blk :=
  if !b.slotNow then b.waitMig ctx g k .slot
  else
    let b := if b.hasRoom k then b else b.makeRoom k
    if !b.hasRoom k then b.waitMig ctx g k .sram
    else if b.slotNow then b.startMig ctx g k
    else b.waitMig ctx g k .slot

/-- Start a migration for which a slot has been granted, or ask for one. -/
def Blk.beginMig (b : Blk) (granted : Bool) (ctx g : Nat) (k : MigKind) : Blk :=
  if granted && b.slotFree then b.startMig ctx g k else b.askMig ctx g k

/-! ### Returns (R176) -/

/-- The regions of a context's offload plan in the order they return: LAYER descending, then plan order. -/
def planOrder (c : Ctx) : List (OffloadRec × RegionRec) :=
  let l := c.rec_.offload.filterMap fun e => (tensorRegion c e.tensor).map fun r => (e, r)
  ((List.range 255).reverse).flatMap fun n => l.filter fun x => x.2.layer = n

/-- The granules of a region still in tier 2 by its offload. -/
def Blk.stillOut (b : Blk) (ctx : Nat) (r : RegionRec) : List Nat :=
  (regionGrans r).filter fun g => match b.gran ctx g with | some x => x.offloaded | none => false

/-- Is a migration a return? -/
def MigKind.isRet : MigKind → Bool
  | .ret _ => true
  | _ => false

/-- Does a return of the context's run or wait for a slot? -/
def Blk.retBusy (b : Blk) (ctx : Nat) : Bool :=
  (b.slu.migs.any fun m => m.ctx = ctx && m.kind.isRet) || b.slu.stalls.any fun r => r.ctx = ctx && r.kind.isRet

/-- The next granule of the return sequence goes back, with the slot granted for it or a slot asked for; where tier 1 has no free granule it waits for one; the
sequence is over when none is left (R176). -/
def Blk.nextReturn (b : Blk) (ctx : Nat) (granted : Bool := false) : Blk :=
  let c := b.ctx ctx
  if !c.returning || b.retBusy ctx then b
  else match (planOrder c).flatMap fun x => (b.stillOut ctx x.2).map fun g => (g, x.2) with
    | [] => b.setCtx ctx { c with returning := false }
    | l => match l.find? fun y => (b.slu.migs.all fun m => m.ctx ≠ ctx || m.gran ≠ y.1) with
      | none => b
      | some y => match b.findT1 ((y.1 - y.2.base / granBytes) + y.2.tensorId) with
        | some p => b.beginMig granted ctx y.1 (.ret p)
        | none => b

/-- A granule of tier 1 has become free: the returns that wait for one go on (R176). -/
def Blk.returnsGoOn (b : Blk) : Blk := b.ctxs.keys.foldl (fun b n => b.nextReturn n) b

end Sys2Proof.Machine
end

