-- ==== Sys2Proof/Machine/Programs.lean ====
section
/-! DEFINITION. Programs and their work: binding, the checks on an access, numeric flags, completion of commands, and the ends of programs and phases
(R128 to R136, R192 to R194, R214 to R229). -/
namespace Sys2Proof.Machine
open Sys2Proof

/-- What the program on a core stamps on its work (R215, R219). -/
def progIssuer (core : Nat) (p : Prog) : Issuer := { core := core, phase := p.phase, bound := p.bound }

/-- The bound program of a core and its issuer stamp. -/
def Blk.prog (b : Blk) (core : Nat) : Option Prog := (b.rkOf core).prog

/-- The buffer a program binds: the CURRENT one; buffer 1 counts as CURRENT at the first LEARN (R218, R219). -/
def currentBuf (c : Ctx) : Nat := if c.buf0.st = .current then 0 else 1

def bufOf (c : Ctx) (i : Nat) : Buf := if i = 0 then c.buf0 else c.buf1
def setBuf (c : Ctx) (i : Nat) (x : Buf) : Ctx := if i = 0 then { c with buf0 := x } else { c with buf1 := x }

/-! ### Local memory (R127) -/

/-- Local memory starts here; its user part is 192 KiB long and the firmware part follows (R127). -/
def localBase : Nat := 0xFFFFFFFFFFFC0000
def firmBase : Nat := 0xFFFFFFFFFFFF0000

/-- Do `len` bytes lie wholly in the user part of local memory? -/
def inUserLocal (a len : Nat) : Bool := decide (localBase ≤ a ∧ a + len ≤ firmBase)

/-- `len` bytes of a core's local memory. -/
def locBytes (r : Rk) (a len : Nat) : List Nat := memBytes r.loc (a - localBase) len

/-- A little-endian record, descriptor or detail in a core's local memory (R132, R135, R275, R299). -/
def Blk.rkNat (b : Blk) (core a len : Nat) : Nat := ofLeBytes (locBytes (b.rkOf core) a len)

/-! ### Flags -/

/-- Change what is kept of the phase that some work belongs to: of two GENERATE phases the one that binds the work's buffer (R215). -/
def modRun (c : Ctx) (ph : Phase) (bound : Nat) (f : PhaseRun → PhaseRun) : Ctx :=
  match ph with
  | .generate => { c with gen := c.gen.map fun r => if r.bound = bound then f r else r, genPrev := c.genPrev.map fun r => if r.bound = bound then f r else r }
  | .learn => { c with learn := c.learn.map f }
  | .none => c

/-- Set numeric flags for a context, and in the phase of the work that set them (R65, R229). -/
def Blk.setFlags (b : Blk) (ctx : Nat) (who : Issuer) (f : NumFlags) : Blk :=
  if f = noFlags then b
  else b.modCtx ctx fun c =>
    let c := { c with flags := orFlags c.flags f }
    modRun c who.phase who.bound fun r => { r with flags := orFlags r.flags f }

/-! ### Access -/

/-- What the checks on an access find (R216 to R219, R233). -/
inductive Access where
  | ok
  /-- A write into a WAITING buffer waits until it is BUILDING. -/
  | wait
  /-- A fault: its cause; the context address; whether the hub decides it. -/
  | fault (cause addr : Nat) (hub : Bool)
  deriving DecidableEq, Repr

/-- The regions that a range touches. -/
def regionsIn (c : Ctx) (a len : Nat) : List RegionRec := c.rec_.regions.filter fun r => decide (r.base < a + len ∧ a < r.base + regionBytes r)

/-- The first byte of a range outside the region table. -/
def firstOutside (c : Ctx) (a len : Nat) : Nat :=
  let l := a :: (c.rec_.regions.map fun r => r.base + regionBytes r)
  (l.filter fun x => decide (a ≤ x ∧ x < a + len) && (regionAt c x).isNone).foldl min (a + len)

/-- Does a range touch the phase block (R216)? -/
def hitsPhaseBlock (c : Ctx) (a len : Nat) : Bool :=
  match c.rec_.sched with
  | some s => decide (a < s.blockAddr + 64 ∧ s.blockAddr < a + len)
  | none => false

/-- May the work of a program read or write a range (R216, R218, R219)? -/
def access (c : Ctx) (who : Issuer) (write : Bool) (a len : Nat) : Access :=
  if len = 0 then .ok
  else if !covered c a len then .fault cAddrRange (firstOutside c a len) false
  else if write && hitsPhaseBlock c a len then .fault cPhaseBlock a true
  else
    (regionsIn c a len).foldl (fun r x =>
      if r ≠ .ok || x.pair = 0 then r
      else
        let i := x.pair - 1
        let st := (bufOf c i).st
        if write then
          (match st with
            | .building => .ok
            | .waiting => .wait
            | _ => .fault cPairWrite (max a x.base) true)
        else if i = who.bound || (st = .building && who.phase = .learn) then .ok
        else .fault cPairVersion (max a x.base) true) .ok

/-- The first result that is not `ok`, over several ranges. -/
def accessAll (c : Ctx) (who : Issuer) (write : Bool) (rs : List (Nat × Nat)) : Access :=
  rs.foldl (fun r x => if r = .ok then access c who write x.1 x.2 else r) .ok

/-! ### References to a version (R220) -/

def msgRefs (m : OutMsg) (buf : Nat) : Bool :=
  match m.use_ with
  | .program _ _ bd => m.status.isNone && bd = buf
  | _ => false

/-- Does anything refer to the version in a buffer of the context? -/
def Blk.referred (b : Blk) (ctx buf : Nat) : Bool :=
  (b.rk.any fun e => match e.2.prog with
    | some p => p.ctx = ctx && p.bound = buf
    | none => false) ||
  ((b.ctx ctx).open_.any fun e => e.2.bound = buf) ||
  ((b.streamsOf ctx).any fun n => (b.strmOf n).msgs.any (fun m => msgRefs m buf) || (b.strmOf n).serves.any fun r => r.buf = some buf) ||
  (b.colls.any fun c => c.ctx = ctx && c.who.bound = buf && collOpen c)

/-! ### The ends of phases -/

/-- Does work of a phase's programs remain, of those that bind a buffer which `mine` picks: a program running, a command, a launch, a message or a collective
(R214, R215)? -/
def Blk.workLeft (b : Blk) (ctx : Nat) (ph : Phase) (mine : Nat → Bool) : Bool :=
  (b.rk.any fun e => match e.2.prog with
    | some p => p.ctx = ctx && p.phase = ph && mine p.bound
    | none => false) ||
  ((b.ctx ctx).open_.any fun e => e.2.phase = ph && mine e.2.bound) ||
  ((b.streamsOf ctx).any fun n => (b.strmOf n).msgs.any fun m => m.status.isNone && (match m.use_ with
    | .program _ p bd => p = ph && mine bd
    | _ => false)) ||
  (b.colls.any fun x => x.ctx = ctx && x.who.phase = ph && mine x.who.bound && collOpen x)

/-- Has a phase still a program to start, or work that remains? -/
def Blk.runBusy (b : Blk) (ctx : Nat) (ph : Phase) (r : PhaseRun) : Bool := !r.pending.isEmpty || b.workLeft ctx ph fun n => n = r.bound

/-- The counters of the underflow watch at the end of a LEARN phase, and the observations cleared (R194). -/
def Blk.zeroRuns (b : Blk) (ctx : Nat) : Blk :=
  (b.ctx ctx).rec_.regions.foldl (fun b r =>
    let c := b.ctx ctx
    let x := c.regions.get {} r.tensorId
    let z := if !x.written then x.zrun else if !x.nonzero || x.flushed then satInc 16 x.zrun else 0
    let b := b.setCtx ctx { c with regions := c.regions.set r.tensorId { x with zrun := z, written := false, nonzero := false, flushed := false } }
    let thr := b.cfg.num.zrThr.getD r.cls 0
    if x.written && z ≠ x.zrun && z = thr && thr ≠ 0 then
      b.raise 0x2002 ctx hubPan (r.tensorId + r.cls * 2 ^ 16 + x.recipe * 2 ^ 20 + r.layer * 2 ^ 24 + z * 2 ^ 32)
    else b) b

/-- Report a region that is not back (R176, R180). -/
def Blk.deadlineMiss (b : Blk) (ctx : Nat) : Blk := (b.modSlu fun s => { s with deadlineMiss := true }).raise 0x4003 ctx hubPan 0

/-- The end of a LEARN phase: what is still offloaded returns at once, and its regions are reported (R176). -/
def Blk.learnEndOffload (b : Blk) (ctx : Nat) : Blk :=
  let l := (planOrder (b.ctx ctx)).filter fun x => !(b.stillOut ctx x.2).isEmpty
  let b := l.foldl (fun b _ => b.deadlineMiss ctx) b
  (b.modCtx ctx fun c => { c with off := c.off.mapV fun _ o => { o with waiting := [] }, returning := c.returning || !l.isEmpty }).nextReturn ctx

/-- The detail of EV_CTX_PHASE_END (R229). -/
def phaseEndDetail (ph : Phase) (r : PhaseRun) : Nat :=
  b2n (decide (ph = .learn)) + r.ran * 2 ^ 16 + flagsWord r.flags * 2 ^ 32 + r.step * 2 ^ 64 + r.ver * 2 ^ 128 + r.exitCode * 2 ^ 192 + r.exitPan * 2 ^ 224

/-- A LEARN phase has ended once its last program has exited and its work is complete (R215, R228, R232). -/
def Blk.learnEnd (b : Blk) (ctx : Nat) : Blk :=
  let c := b.ctx ctx
  match c.learn with
  | none => b
  | some r =>
    if r.ran = 0 || b.runBusy ctx .learn r then b
    else
      let b := b.setCtx ctx { c with learn := none, phase := if c.rec_.sched.isNone then .none else c.phase }
      let b := b.raise 0x5101 ctx hubPan (phaseEndDetail .learn r)
      if c.rec_.sched.isNone then (b.zeroRuns ctx).learnEndOffload ctx else b

/-- The GENERATE phase before the last has ended (R215). -/
def Blk.genPrevEnd (b : Blk) (ctx : Nat) : Blk :=
  let c := b.ctx ctx
  match c.genPrev with
  | none => b
  | some r => if b.runBusy ctx .generate r then b else (b.setCtx ctx { c with genPrev := none }).raise 0x5101 ctx hubPan (phaseEndDetail .generate r)

/-- The last GENERATE phase has ended; one of which no program ran ends unreported with its instant (R215). -/
def Blk.genEnd (b : Blk) (ctx : Nat) : Blk :=
  let c := b.ctx ctx
  match c.gen with
  | none => b
  | some r =>
    if b.runBusy ctx .generate r then b
    else if r.ran = 0 then (if c.phase ≠ .generate then b.setCtx ctx { c with gen := none } else b)
    else (b.setCtx ctx { c with gen := none }).raise 0x5101 ctx hubPan (phaseEndDetail .generate r)

/-- The phases of a kind that have ended: their last program has exited and its work is complete (R215, R228). -/
def Blk.phaseEnd (b : Blk) (ctx : Nat) (ph : Phase) : Blk :=
  match ph with
  | .none => b
  | .learn => b.learnEnd ctx
  | .generate => (b.genPrevEnd ctx).genEnd ctx

/-! ### The ends of programs -/

/-- A core as it stands after a program has gone: user local memory and registers zero, no program (R130). -/
def freshRk (r : Rk) : Rk := { cycle := r.cycle, instret := r.instret }

/-- The program on a core ends (R130): its exit code counts, the core is cleared and unbound. -/
def Blk.endProg (b : Blk) (core code : Nat) : Blk :=
  match b.prog core with
  | none => b
  | some p =>
    let code := code % 2 ^ 32
    let note := fun (r : PhaseRun) => if r.exitCode = 0 && code ≠ 0 then { r with exitCode := code, exitPan := b.full (rkPan core) } else r
    let b := b.modCtx p.ctx fun c => modRun c p.phase p.bound note
    let b := b.modRk core freshRk
    b.phaseEnd p.ctx p.phase

/-! ### Completion of commands and launches -/

/-- Write an integer register; x0 stays 0. -/
def setX (r : Rk) (rd v : Nat) : Rk := if rd % 32 = 0 then r else { r with x := r.x.set (rd % 32) (v % 2 ^ 64) }

def getX (r : Rk) (n : Nat) : Nat := if n % 32 = 0 then 0 else r.x.get 0 (n % 32)

/-- Bytes of the instruction at an address of local memory: 2 for a compressed one, else 4. -/
def instrLen (r : Rk) (pc : Nat) : Nat := if (locBytes r pc 1).getD 0 0 % 4 = 3 then 4 else 2

/-- A core has come to an instruction; the next follows it in local memory. -/
def atPc (r : Rk) (pc : Nat) : Rk := { r with pc := pc, npc := (pc + instrLen r pc) % 2 ^ 64, instret := (r.instret + 1) % 2 ^ 64 }

/-- The status of a command sequence number (R132): 0 complete, 1 pending, 2 not yet issued. Numbers compare modulo 2^32; one more than 4,096 below
the latest issued is complete. -/
def cmdStatus (c : Ctx) (n : Nat) : Nat :=
  if psnSub (n % 2 ^ 32) c.seq < 2 ^ 31 then 2
  else if 4097 < psnSub c.seq (n % 2 ^ 32) then 0
  else if c.open_.any fun e => e.1 = n % 2 ^ 32 then 1 else 0

/-- Is every command this core issued complete (QFENCE)? -/
def fenceDone (r : Rk) : Bool := r.issued.isEmpty

/-- A core whose wait for commands is over goes on (R132); a program waiting to EXIT ends (R130). -/
def State.wakeCore (s : State) (core : Nat) : State :=
  let r := s.b.rkOf core
  match r.wait, r.prog with
  | some (.cmd n rd), some p =>
    if cmdStatus (s.b.ctx p.ctx) n = 1 then s
    else (s.publish (.rk core)).setB ((s.publish (.rk core)).b.modRk core fun r => setX { r with wait := none } rd (cmdStatus (s.b.ctx p.ctx) n))
  | some .fence, some _ => if fenceDone r then s.setB (s.b.modRk core fun r => { r with wait := none }) else s
  | some (.exit code), some _ => if fenceDone r then (s.publish (.rk core)).setB ((s.publish (.rk core)).b.endProg core code) else s
  | _, _ => s

/-- Every core whose wait for commands is over goes on. -/
def State.wakeAll (s : State) : State := s.b.rk.keys.foldl State.wakeCore s

/-- Does the core run a program of the context? -/
def runsFor (r : Rk) (ctx : Nat) : Bool :=
  match r.prog with
  | some p => p.ctx = ctx
  | none => false

/-- A command or launch of a context is complete. -/
def State.complete (s : State) (ctx seq : Nat) : State :=
  let c := s.b.ctx ctx
  match c.open_.find? fun e => e.1 = seq with
  | none => s
  | some e =>
    let b := s.b.setCtx ctx { c with open_ := c.open_.filter fun e => e.1 ≠ seq }
    let b := { b with rk := b.rk.mapV fun _ r => if runsFor r ctx then { r with issued := r.issued.filter (· ≠ seq) } else r }
    let s := (s.setB b).wakeAll
    s.setB (s.b.phaseEnd ctx e.2.phase)

/-- A raker core's fault (R134): the core's pan and its program counter are recorded. -/
def Blk.rkFault (b : Blk) (core cause pc : Nat) : Blk :=
  match b.prog core with
  | some p => b.ctxFault p.ctx cause (rkPan core) noSeq true pc 0
  | none => b

/-- A fault that an access check found, of a command or of a core (R244). -/
def Blk.accessFault (b : Blk) (ctx cause : Nat) (unit : Pan) (seq addr : Nat) (hub : Bool) : Blk :=
  b.ctxFault ctx cause (if hub then hubPan else unit) seq false addr 0

end Sys2Proof.Machine
end

