-- ==== Sys2Proof/Machine/Status.lean ====
section
/-! DEFINITION. What pans present: STATE, the status word, members, the capacity summary (01, R7 to R25), and the severity of what takes the module out of service. -/
namespace Sys2Proof.Machine
open Sys2Proof

/-! ### STATE (R17, R18, R363) -/

/-- The port of a link-port leaf. -/
def portOfPan (p : Pan) : Nat := panIdx p + (if panDie p = dLD1 then 4 else 0)

/-- The collective engine of a leaf, 0 to 7. -/
def ceOfPan (p : Pan) : Nat := panIdx p + (if panDie p = dLD1 then 4 else 0)

/-- Has a unit in service work assigned? R17 does not say what work is assigned to a link port, a memory controller or a hub core: DESIGN CHOICE, none ever, so they are
never BUSY (log 41). -/
def Blk.leafBusy (b : Blk) (p : Pan) : Bool :=
  let n := panDie p * unitCount (panDie p) (panKind p) + panIdx p
  if panKind p = kME then !(b.meOf n).q.isEmpty
  else if panKind p = kVE then
    let v := b.veOf n
    v.run.isSome || v.next.isSome || !v.q.isEmpty
  else if panKind p = kRK then (b.rkOf n).prog.isSome
  else if panKind p = kCE then b.colls.any fun c => c.engine = some (ceOfPan p) && (match c.st with
    | .running => true
    | .requested => true
    | .reported => true
    | _ => false)
  else false

/-- Is a pan in a reset in progress: its own, or one of a pan that contains it (R25)? -/
def Blk.inReset (b : Blk) (p : Pan) : Bool := b.rst.running.any fun r => panWithin r.pan p

/-- Is the reset of a pan itself in progress? -/
def Blk.ownReset (b : Blk) (p : Pan) : Bool := b.rst.running.any fun r => r.pan = p

/-- A pan's reset is over, or another has taken its place: a kind group's is over with its last member's (R25, R341). -/
def Blk.dropRun (b : Blk) (p : Pan) : Blk :=
  b.modRst fun r =>
    let l := r.running.filter fun x => x.pan ≠ p
    { r with running := l.filter fun x => panShape x.pan ≠ some .kind || l.any fun y => y.pan ≠ x.pan && panWithin x.pan y.pan }

/-- Is a module reset in progress? It holds every die until the boot has accepted a configuration (R348, R363). -/
def Blk.heldReset (b : Blk) : Bool := !b.pwr.rstN || !b.sec.configured

/-- Does a controller of a memory die retrain its interface, step 5 of the die's reset (R347)? R347 gives that step no instant: DESIGN CHOICE, from the bound of step 2
on, the steps between having nothing to do on a memory die (log 41). -/
def Blk.dieTrains (b : Blk) (p : Pan) : Bool :=
  panKind p = kMC && decide (dFD ≤ panDie p) && b.rst.running.any fun r => r.pan = diePan (panDie p) && b.past r.at_ 50000

/-- A leaf's STATE. -/
def Blk.leafState (b : Blk) (p : Pan) : PState :=
  if panKind p = kLP && !(b.portOf (portOfPan p)).cfg.enable then .off
  else
    let st := (b.panSt p).st
    if st = .ready && b.leafBusy p then .busy
    else if st = .reset && b.dieTrains p then .init
    else st

/-- The direct members of a pan (R11): a port that is not configured is no member. -/
def Blk.membersOf (b : Blk) (p : Pan) : List Pan :=
  match panShape p with
  | some .kind => (leavesOf p).filter fun q => panKind q ≠ kLP || (b.portOf (portOfPan q)).cfg.enable
  | some .die => ((List.range 7).filter fun k => decide (0 < unitCount (panDie p) k)).map (kindPan (panDie p))
  | some .module => (List.range 16).map diePan
  | _ => []

/-- A group's STATE from its direct members': the first row that matches (R18). -/
def groupState (own : Bool) (l : List PState) : PState :=
  if own then .reset
  else if l.contains .fault then .fault
  else if l.contains .off || l.contains .init then .init
  else if l.contains .busy then .busy
  else if l.contains .calib then .calib
  else .ready

/-- Is a group's reset in progress: its own, one of a pan that contains it, or the module's? -/
def Blk.groupReset (b : Blk) (p : Pan) : Bool := b.heldReset || b.inReset p

def Blk.kindState (b : Blk) (p : Pan) : PState := groupState (b.groupReset p) ((b.membersOf p).map b.leafState)

def Blk.dieState (b : Blk) (p : Pan) : PState :=
  if p = hubPan && b.rst.hubFault then .fault else groupState (b.groupReset p) ((b.membersOf p).map b.kindState)

/-- Does the module stand by as a spare (R333)? -/
def Blk.isSpare (b : Blk) : Bool := b.cfg.hrv.spare && b.spare.adopted.isNone

/-- The module pan's STATE (R18, R334, R357, R363). -/
def Blk.moduleState (b : Blk) : PState :=
  if !b.pwr.rails then .off
  else if !b.pwr.rstN || !b.sec.booting then .reset
  else if !b.sec.configured then .off
  else if b.rst.retired then .fault
  else
    let st := groupState false ((b.membersOf modulePan).map b.dieState)
    if st = .fault then .fault else if !b.sec.ready then .init else if b.isSpare then .spare else st

/-- A pan's STATE; without main power it is OFF (R17). -/
def Blk.panState (b : Blk) (p : Pan) : PState :=
  if !b.pwr.rails then .off
  else match panShape p with
  | some .leaf => b.leafState p
  | some .kind => b.kindState p
  | some .die => b.dieState p
  | some .module => b.moduleState
  | none => .off

/-- The severity of an event that takes the module out of service: FATAL where the module pan enters FAULT with it (R242). -/
def Blk.faultSev (b : Blk) : Nat := if b.moduleState = .fault then 2 else 4

/-! ### Capacity summary (R20 to R22, R137) -/

/-- A leaf counts as in service: READY, BUSY, CALIB, or RESET within its bound (R16, R18). -/
def countsIn (st : PState) : Bool := inService st || st = .reset

/-- Factory spares of each kind on a die (R22). -/
def dieSpares (die : Nat) : List Nat := if die < 4 then [1, 2, 0] else if die = dLD0 ∨ die = dLD1 then [0, 0, 1] else [0, 0, 0]

/-- Spares used of each kind on a die. -/
def Blk.diesUsed (b : Blk) (die : Nat) : List Nat := [b.rst.spareMe.get 0 die, b.rst.spareRk.get 0 die, b.rst.spareCe.get 0 die]

/-- The kind of memory a controller serves, as MEM_STATUS.KIND codes it (R137, R157). -/
def mcKind (p : Pan) : Nat :=
  if panDie p < 4 then 0
  else if panDie p = dLD0 ∨ panDie p = dLD1 then 1
  else if panDie p = dHD then 5
  else if panDie p = dFD then (if panIdx p = 16 then 4 else 3)
  else 2

/-- Is an address a memory controller of the module (R10)? -/
def isMc (p : Pan) : Bool := panKind p = kMC && panShape p = some .leaf

/-- Repair resources left, in percent of the factory count, whichever of rows and lanes is lower; 100 of a kind that leaves the factory with none (R149, R159). -/
def mcPct (p : Pan) (m : Mc) : Nat :=
  let pct := fun used n => if n = 0 then 100 else (n - used) * 100 / n
  min (pct m.rowsUsed (Config.spareRows (mcKind p))) (pct m.lanesUsed (Config.spareLanes (mcKind p)))

/-- Granules in service behind a controller: words 7 to 9 (R20, R137). Stacks 0 and 4 hold the hub tables; a stack's share is its controllers' sixteenths. -/
def mcGranules (p : Pan) : List Nat :=
  let k := mcKind p
  if k = 0 then [512, 0, 0]
  else if k = 2 then [0, (if panDie p = 8 ∨ panDie p = 12 then 2040 else 2048), 0]
  else if k = 3 then [0, 0, 16384]
  else [0, 0, 0]

/-- Chunks free for sealing, of 61,440 (R144, R206). -/
def Blk.chunksFree (b : Blk) : Nat :=
  61440 - ((b.store.pkgs.map (·.chunks)).sum + (match b.store.job with | some j => j.reserved | none => 0))

/-- A leaf's words 0 to 14. -/
def Blk.leafWords (b : Blk) (p : Pan) : List Nat :=
  let on := !b.heldReset && b.leafState p ≠ .off && countsIn (b.panSt p).st
  let k := panKind p
  let one := fun (x : Nat) => b2n (on && decide (k = x))
  let g := if k = kMC && on then mcGranules p else [0, 0, 0]
  [one kME, one kVE, one kRK, one kLP, one kCE, one kHC, one kMC] ++ g ++
    [if k = kMC && on && mcKind p = 4 then b.chunksFree else 0, 0, 0, 0, if k = kMC then mcPct p (b.mcOf p) else 100]

/-- Sum summaries; word 14 is the minimum. -/
def sumWords (l : List (List Nat)) : List Nat :=
  l.foldl (fun a w => ((List.range 14).map fun i => a.getD i 0 + w.getD i 0) ++ [min (a.getD 14 100) (w.getD 14 100)]) (List.replicate 14 0 ++ [100])

/-- A die pan's words 11 to 13 are its unused internal spares. -/
def Blk.dieWords (b : Blk) (die : Nat) : List Nat :=
  let w := sumWords ((dieLeaves die).map b.leafWords)
  w.take 11 ++ (List.zipWith (fun a u => a - u) (dieSpares die) (b.diesUsed die)) ++ w.drop 14

/-- The sixteen words of a pan of the module (R20). -/
def Blk.capacityOf (b : Blk) (p : Pan) : List Nat :=
  (match panShape p with
    | some .leaf => b.leafWords p
    | some .kind => sumWords ((leavesOf p).map b.leafWords)
    | some .die => b.dieWords (panDie p)
    | some .module => sumWords ((List.range 16).map b.dieWords)
    | none => List.replicate 14 0 ++ [100]) ++ [0]

/-! ### The status word (R16) -/

/-- Controllers of the calibration slot that comes next (R151). -/
def Blk.nextSlotMcs (b : Blk) : List Pan :=
  let n := (b.mon.slotN + 1) % 16
  leafPan dFD kMC n :: (List.range 8).map fun h => leafPan (8 + h) kMC n

/-- SCHED: an image switch, a reset or a calibration slot is pending in the pan. -/
def Blk.schedIn (b : Blk) (p : Pan) : Bool :=
  (b.tide.sched.any fun x => match x.act with
    | .reset q => panWithin p q || panWithin q p
    | .imageSwitch => p = modulePan || p = hubPan
    | .retire => p = modulePan) ||
  (b.sec.configured && decide (b.tide.st = .locked ∨ b.tide.st = .holdover) && b.nextSlotMcs.any fun q => panWithin p q)

/-- SPARE_LOW: a spare count that applies reads 0. -/
def Blk.spareLow (b : Blk) (p : Pan) : Bool :=
  let w := b.capacityOf p
  match panShape p with
  | some .die => if panDie p < 4 then w.getD 11 0 = 0 || w.getD 12 0 = 0 else if panDie p = dLD0 || panDie p = dLD1 then w.getD 13 0 = 0 else false
  | some .module => w.getD 11 0 = 0 || w.getD 12 0 = 0 || w.getD 13 0 = 0
  | _ => false

/-- The fields of a status word. -/
def statusWord (st : PState) (low test sched late : Bool) (cause within total : Nat) : Nat :=
  st.code * 2 ^ 28 + b2n low * 2 ^ 27 + b2n test * 2 ^ 26 + b2n sched * 2 ^ 25 + b2n late * 2 ^ 24 + cause * 2 ^ 16 + within * 2 ^ 8 + total

/-- Does a member's STATE count in MEMBERS_IN? -/
def countsMember (st : PState) : Bool := countsIn st

/-- The status word of a pan of the module (R16, R409). -/
def Blk.statusOf (b : Blk) (p : Pan) : Nat :=
  let ms := b.membersOf p
  let x := b.panSt p
  statusWord (b.panState p) (b.spareLow p) b.tst.active (b.schedIn p) x.hbLate x.cause (ms.filter fun m => countsMember (b.panState m)).length ms.length

end Sys2Proof.Machine
end

