-- ==== Sys2Proof/Machine/Memory.lean ====
section
/-! DEFINITION. Memory controllers: the symbol code, uncorrectable errors and their owners, repair, the rake, calibration (08). -/
namespace Sys2Proof.Machine
open Sys2Proof

/-- CAPACITY_MIB (R157). -/
def mcMib (p : Pan) : Nat := ([1024, 256, 4096, 32768, 3932160, 256]).getD (mcKind p) 0

/-- Lines of 64 bytes that a controller serves. -/
def mcLines (p : Pan) : Nat := mcMib p * 2 ^ 14

/-- The stack or package that a controller belongs to, as a place of granules. -/
def mcPlace (p : Pan) : Option Place :=
  match mcKind p with
  | 0 => some (.sram (panDie p))
  | 2 => some (.t1 (panDie p - 8))
  | 3 => some (.t2 (panIdx p))
  | _ => none

/-! ### Where the bytes of a copy lie (R143) -/

/-- The copy that holds a granule's current bytes: its working copy, else its resting place (R163). -/
def homePlace (g : Gran) : Place :=
  match g.work with
  | some d => .sram d
  | none => g.rest

/-- The controller that serves byte `off` of a granule's copy: units of 512 bytes rotate over the controllers of a stack; a package has one controller, and a die's
staging SRAM one (R143). -/
def copyMc (p : Place) (off : Nat) : Pan :=
  match p with
  | .sram d => leafPan d kMC 0
  | .t1 s => leafPan (8 + s) kMC (off / 512 % 16)
  | .t2 k => leafPan dFD kMC k

/-- The channel of a package that serves byte `off` of a granule (R143). -/
def t2Channel (off : Nat) : Nat := off / 512 % 2

/-- The memory whose cells a copy takes, where it is encrypted: staging SRAM is not (R152). -/
def placeMem : Place → Option XtsMem
  | .sram _ => none
  | .t1 _ => some .tier1
  | .t2 _ => some .tier2

/-- The key pair of a memory (R152). -/
def Blk.xtsKey (b : Blk) : XtsMem → XtsKey
  | .tier1 => b.sec.t1Key
  | .tier2 => b.sec.t2Key
  | .seal_ => { data := Config.sealKey 0, tweak := Config.sealKey 1 }

/-- What a copy's cells hold for a line of plain bytes; the line's index counts within its memory (R152, R153). -/
def Blk.cells (b : Blk) (p : Place) (line : Nat) (l : List Nat) : List Nat :=
  match placeMem p with
  | none => l
  | some m => xtsEncrypt (b.xtsKey m) m line l

/-- A line's plain bytes from what a copy's cells hold (R152, R153). -/
def Blk.plainLine (b : Blk) (p : Place) (line : Nat) (l : List Nat) : List Nat :=
  match placeMem p with
  | none => l
  | some m => xtsDecrypt (b.xtsKey m) m line l

/-- The cells of a migrated granule's line at its destination: decrypted at its source, encrypted again under the destination's key and tweak (R153). -/
def Blk.recrypt (b : Blk) (src : Place) (line : Nat) (dst : Place) (line2 : Nat) (l : List Nat) : List Nat := b.cells dst line2 (b.plainLine src line l)

/-! ### Abandoned moves and failed controllers (R179) -/

/-- The place a migration writes. -/
def migDst (k : MigKind) (rest : Place) : Place :=
  match k with
  | .stage d _ => .sram d
  | .work d => .sram d
  | .writeBack _ => rest
  | .rest p => p
  | .offload p => p
  | .ret p => p

/-- Does a migration only make a staged copy? That is no move (R170). -/
def MigKind.isStage : MigKind → Bool
  | .stage _ _ => true
  | _ => false

/-- Abandon the migrations that a test picks; the home of each stays. Moves abandoned are counted and reported, staging copies are not (R170, R179, R180, R183). -/
def Blk.abandon (b : Blk) (f : Mig → Bool) : Blk :=
  let l := b.slu.migs.filter f
  let b := b.modSlu fun s => { s with migs := s.migs.filter fun m => !f m }
  (l.filter fun m => !m.kind.isStage).foldl (fun b m => (b.modSlu fun s => { s with aborted := satInc 16 s.aborted }).raise 0x4004 m.ctx hubPan 0) b

/-- A controller goes out of service: moves into its memory are abandoned (R147, R149, R151, R179). -/
def Blk.mcFault (b : Blk) (p : Pan) : Blk :=
  let b := b.setSt p .fault
  match mcPlace p with
  | some pl => b.abandon fun m => match b.gran m.ctx m.gran with
      | some g => migDst m.kind g.rest = pl
      | none => false
  | none => b

/-! ### Repair (R149) -/

/-- Schedule a repair for the controller's next slot; a controller in FAULT only lists it for the next boot (R154). -/
def Blk.wantRepair (b : Blk) (p : Pan) (lane : Bool) (what : Nat) : Blk :=
  let x : Repair := { mc := p, lane := lane, what := what }
  if (b.panSt p).st = .fault then { b with repairs := b.repairs ++ [x] }
  else b.modMc p fun m =>
    if lane then { m with laneDue := if m.laneDue.contains what then m.laneDue else m.laneDue ++ [what] }
    else { m with rowDue := if m.rowDue.contains what then m.rowDue else m.rowDue ++ [what] }

/-- A repair finds no resource left: the controller fails, and the events of that cycle are FATAL where the module fails with it (R149, R155, R242). -/
def Blk.repairOut (b : Blk) (p : Pan) : Blk :=
  let sev := b.faultSev
  b.withSev (if sev = 4 then 4 else 0) fun b => (b.mcFault p).raiseSev sev 0x3006 moduleCtx p 0

/-- Make one repair: it is listed, counted and reported; with no resource left the controller fails, and in FAULT it is listed only (R149, R154, R155). -/
def Blk.repair (b : Blk) (p : Pan) (lane : Bool) (what : Nat) : Blk :=
  let m := b.mcOf p
  let left := if lane then Config.spareLanes (mcKind p) - m.lanesUsed else Config.spareRows (mcKind p) - m.rowsUsed
  if (b.panSt p).st = .fault then { b with repairs := b.repairs ++ [({ mc := p, lane := lane, what := what } : Repair)] }
  else if left = 0 then b.repairOut p
  else
    let n := if lane then { m with lanesUsed := satInc 8 m.lanesUsed } else { m with rowsUsed := satInc 16 m.rowsUsed }
    let b := { b with mc := b.mc.set p n, repairs := b.repairs ++ [({ mc := p, lane := lane, what := what } : Repair)] }
    let b := b.raise (if lane then 0x3004 else 0x3003) moduleCtx p 0
    if b.cfg.mod.repairThr ≤ mcPct p m && mcPct p n < b.cfg.mod.repairThr then b.raise 0x3005 moduleCtx p 0 else b

/-- The repairs scheduled for a controller, in its calibration slot (R149, R151). -/
def Blk.doRepairs (b : Blk) (p : Pan) : Blk :=
  let m := b.mcOf p
  let b := b.modMc p fun m => { m with rowDue := [], laneDue := [] }
  let b := m.rowDue.foldl (fun b r => b.repair p false r) b
  m.laneDue.foldl (fun b l => b.repair p true l) b

/-! ### Errors (R146 to R148) -/

/-- A corrected symbol is counted and its rates are judged (R147, R158). -/
def Blk.corrected (b : Blk) (p : Pan) (line lane : Nat) : Blk :=
  let m := b.mcOf p
  let ls := m.ceLane.get [] lane
  let ls' := if ls.contains line then ls else ls ++ [line]
  let t := m.ceTide + 1
  let above := !m.ceRated && decide (b.cfg.mod.ceThresh < t)
  let laneOver := decide (ls'.length = 16 ∧ ls.length = 15)
  let b := b.modMc p fun m => { m with
    ceCnt := satInc 32 m.ceCnt, ceTide := t, ceLane := m.ceLane.set lane ls', ceRated := m.ceRated || above, bad := m.bad.erase line, badOf := m.badOf.erase line }
  let b := if laneOver then (b.wantRepair p true lane).raise 0x3002 moduleCtx p 0 else b
  if above then b.raise 0x3002 moduleCtx p 0 else b

/-- Does one more uncorrectable line in a tide put its controller out of service (R147)? -/
def Blk.ueKills (b : Blk) (p : Pan) (line : Nat) : Bool :=
  let m := b.mcOf p
  decide (16 < (if m.ueLines.contains line then m.ueLines else m.ueLines ++ [line]).length) && (b.panSt p).st ≠ .fault

/-- An uncorrectable line is counted and captured; the line keeps its wrong symbols; beyond 16 lines in a tide the controller fails (R147, R158). -/
def Blk.uncorrectable (b : Blk) (p : Pan) (line ctx : Nat) (wrong : List Nat) : Blk :=
  let m := b.mcOf p
  let ls := if m.ueLines.contains line then m.ueLines else m.ueLines ++ [line]
  let dead := b.ueKills p line
  let b := b.modMc p fun m => { m with
    ueCnt := satInc 16 m.ueCnt, ueHeld := true, ueAddr := if m.ueHeld then m.ueAddr else line * 64, ueCtx := if m.ueHeld then m.ueCtx else ctx,
    ueLines := ls, bad := m.bad.set line wrong, badOf := if ctx = moduleCtx then m.badOf.erase line else m.badOf.set line ctx }
  if dead then b.mcFault p else b

/-- A line has been rewritten after an error: it is read back, and if it fails again its row is to be spared (R148, R149). -/
def Blk.rewritten (b : Blk) (p : Pan) (line : Nat) : Blk :=
  b.modMc p fun m => { m with bad := m.bad.erase line, badOf := m.badOf.erase line, recheck := if m.recheck.contains line then m.recheck else m.recheck ++ [line] }

/-- The event and the fault of a context that owns a failing line (R148); a context already being zeroised is faulted no further (R154). -/
def Blk.ueContext (b : Blk) (p : Pan) (line ctx : Nat) (seq : Option Nat) : Blk :=
  let c := b.ctx ctx
  if c.st = .teardown && decide (5 ≤ c.tdStep) then b.rewritten p line
  else
    let b := b.raiseSev 3 0x3001 ctx p 0
    b.ctxFault ctx cMemUe p (seq.getD noSeq) false (line * 64) 0

/-- Does an uncorrectable error put the module pan into FAULT: by its controller, or by both copies of the hub tables (R147, R148, R242)? -/
def Blk.ueFatal (b : Blk) (p : Pan) (line : Nat) (owner : LineOwner) : Bool :=
  b.faultSev = 4 && (b.ueKills p line || decide (owner = .hubTables true))

/-- Two wrong symbols: nothing is delivered, and the owner of the line is acted on (R148); EV_MEM_UE has no DETAIL (R155). -/
def Blk.memUe (b : Blk) (p : Pan) (line : Nat) (wrong : List Nat) (owner : LineOwner) (seq : Option Nat) : Blk :=
  let ctx := match owner with
    | .context c => c
    | .source c _ => c
    | .linkSram c => c
    | _ => moduleCtx
  b.withSev (if b.ueFatal p line owner then 4 else 0) fun b =>
  let b := b.uncorrectable p line ctx wrong
  match owner with
  | .context c => b.ueContext p line c seq
  | .linkSram c => b.ueContext p line c seq
  | .source c g => (b.abandon fun m => m.ctx = c && m.gran = g).ueContext p line c seq
  | .free => (b.raise 0x3001 moduleCtx p 0).rewritten p line
  | .hubTables false => b.rewritten p line
  | .hubTables true => (b.modRst fun r => { r with hubFault := true }).raise 0x3001 moduleCtx p 0
  | .area slot copy => (b.raise 0x3001 moduleCtx p 0).modSpare fun s =>
      { s with areaBad := if s.areaBad.contains (slot, copy) then s.areaBad else s.areaBad ++ [(slot, copy)] }
  | .package _ _ => b

/-- What a read of a line finds: its wrong symbols, those it held and those newly wrong. -/
def wrongNow (m : Mc) (line : Nat) (wrong : List Nat) : List Nat := (m.bad.get [] line ++ wrong).eraseDups

/-- Does a read that finds these wrong symbols detect an error it cannot correct? Beyond two the code's guarantee ends and it is free (R146, R147). -/
def Blk.ueMet (b : Blk) (w : List Nat) : Bool := w.length = 2 || (decide (3 ≤ w.length) && Config.freeNat b.freeCtr % 3 = 0)

/-- A read, or the read half of a partial write (R147). Three and more wrong symbols lie outside the guarantee: whether they are detected is free. -/
def Blk.lineRead (b : Blk) (p : Pan) (line : Nat) (wrong : List Nat) (owner : LineOwner) (seq : Option Nat) : Blk :=
  let m := b.mcOf p
  let w := wrongNow m line wrong
  let again := m.recheck.contains line
  let b := if again then b.modMc p fun m => { m with recheck := m.recheck.filter (· ≠ line) } else b
  let b := if again && !w.isEmpty then b.wantRepair p false (Config.rowOf p line) else b
  match w with
  | [] => b
  | [s] => b.corrected p line s
  | [_, _] => b.memUe p line w owner seq
  | s :: _ =>
    match Config.freeNat b.freeCtr % 3 with
    | 0 => b.spend.memUe p line w owner seq
    | 1 => b.spend.corrected p line s
    | _ => b.spend.modMc p fun m => { m with bad := m.bad.set line w }

/-- The controller that a line of an access through a window lies in, by the context's address or the receive area's offset. -/
def Blk.accessMc (b : Blk) (owner : Option Nat) (a : Nat) : Option Pan :=
  match owner with
  | some c => (b.gran c (a / granBytes)).map fun g => copyMc (homePlace g) (a % granBytes)
  | none => some (copyMc (.t2 (a / granBytes % 16)) (a % granBytes))

/-- The owner of that line: the context, or the receive area's slot and copy (R148, R321). -/
def Blk.accessOwner (b : Blk) (owner : Option Nat) (a : Nat) (m : MemFind) : LineOwner :=
  match owner with
  | some c => .context c
  | none => .area (a / max 1 (b.spare.areaGranules * granBytes)) m.copy

/-- What a partner's access of `len` bytes at `a` does to the line it meets, and whether it is uncorrectable: a read, or the read half of a partial write; a line
written whole is not read (R147, R148). -/
def Blk.meet (b : Blk) (owner : Option Nat) (write : Bool) (a len : Nat) (f : Option MemFind) : Blk × Bool :=
  match f with
  | none => (b, false)
  | some m =>
    let x := a + m.off
    match b.accessMc owner x with
    | none => (b, false)
    | some mc =>
      if len ≤ m.off then (b, false)
      else if write && decide (a ≤ x / 64 * 64 ∧ x / 64 * 64 + 64 ≤ a + len) then
        (b.modMc mc fun k => { k with bad := k.bad.erase m.line, badOf := k.badOf.erase m.line }, false)
      else (b.lineRead mc m.line m.wrong (b.accessOwner owner x m) none, b.ueMet (wrongNow (b.mcOf mc) m.line m.wrong))

/-- Is a memory at work: its controller is no seal store or flash, and not out of service? -/
def Blk.mcWorks (b : Blk) (p : Pan) : Bool := isMc p && b.works p && decide (mcKind p ≤ 3)

/-- MEM_LINE_READ (R147, R148). While the controller is in CALIB the access waits (R151). -/
def execMemLineRead (mc line : Nat) (wrong : List Nat) (owner : LineOwner) (seq : Option Nat) (s : State) : Host.Outcome State Fault Refusal :=
  if s.b.mcWorks mc && !(s.b.mcOf mc).inCalib then .next (s.setB (s.b.lineRead mc line wrong owner seq)) else .next s

/-- MEM_LINE_WRITE: a whole line is stored afresh; part of one is merged into what is read first, for a command where it names one (R147, R148). -/
def execMemLineWrite (mc line : Nat) (whole : Bool) (wrong : List Nat) (owner : LineOwner) (seq : Option Nat) (s : State) : Host.Outcome State Fault Refusal :=
  if s.b.mcWorks mc && !(s.b.mcOf mc).inCalib then
    .next (s.setB (if whole then s.b.modMc mc fun m => { m with bad := m.bad.erase line, badOf := m.badOf.erase line } else s.b.lineRead mc line wrong owner seq))
  else .next s

/-! ### The rake (R150) -/

/-- The pass period in ns: hours, or days in the seal store (R150, R159). -/
def rakeNs (p : Pan) (m : Mc) : Nat := m.period * (if mcKind p = 4 then 86400000000000 else 3600000000000)

/-- A fresh pass begins now. -/
def Blk.rakeStart (b : Blk) (p : Pan) : Blk :=
  if mcKind p = 5 then b
  else b.modMc p fun m => { m with rakeActive := true, passAt := b.now, passLines := 0, passPct := 0, passLate := false, cePrev := m.ceThis, ceThis := [] }

/-- The pass moves on by a line; after the last one it is over (R150). -/
def Blk.rakeCount (b : Blk) (p : Pan) : Blk :=
  let n := (b.mcOf p).passLines + 1
  let b := b.modMc p fun m => { m with passLines := n, passPct := min 100 (n * 100 / mcLines p) }
  if n < mcLines p then b
  else if (b.mcOf p).passLate then b.rakeStart p
  else b.modMc p fun m => { m with rakeActive := false }

/-- The rake reads its next line: each line of a memory once in a pass, in the order of the lines (DESIGN CHOICE, log 57); it corrects, and a row with corrected errors in two passes running is spared; in the seal store it only reads (R149, R150). -/
def Blk.rakeRead (b : Blk) (p : Pan) (line : Nat) (wrong : List Nat) (owner : LineOwner) (margin : Bool) : Blk :=
  let m := b.mcOf p
  if !isMc p || !m.rakeActive || m.inCalib || !b.works p || line ≠ m.passLines then b
  else if mcKind p = 4 then
    let b := if margin then b.raise 0x3009 moduleCtx p (match owner with | .package id ver => id + ver * 2 ^ 64 | _ => 0) else b
    b.rakeCount p
  else
    let ce := decide ((wrongNow m line wrong).length = 1)
    let row := Config.rowOf p line
    let b := b.lineRead p line wrong owner none
    let b := if ce then b.modMc p fun m => { m with ceThis := if m.ceThis.contains row then m.ceThis else m.ceThis ++ [row] } else b
    let b := if ce && m.cePrev.contains row then b.wantRepair p false row else b
    b.rakeCount p

/-- RAKE_READ (R150). -/
def execRakeRead (mc line : Nat) (wrong : List Nat) (owner : LineOwner) (margin : Bool) (s : State) : Host.Outcome State Fault Refusal :=
  .next (s.setB (s.b.rakeRead mc line wrong owner margin))

/-- RAKE_PERIOD_END: a pass that has not finished goes on and is reported late; otherwise the next begins (R150). -/
def Blk.rakePeriodEnd (b : Blk) (p : Pan) : Blk :=
  let m := b.mcOf p
  if !isMc p || mcKind p = 5 || !b.past m.passAt (rakeNs p m) || m.passLate then b
  else if m.rakeActive then (b.modMc p fun m => { m with passLate := true, lateCnt := satInc 8 m.lateCnt }).raise 0x3008 moduleCtx p 0
  else b.rakeStart p

/-- RAKE_PERIOD_END (R150). -/
def execRakePeriodEnd (mc : Nat) (s : State) : Host.Outcome State Fault Refusal := .next (s.setB (s.b.rakePeriodEnd mc))

/-! ### Calibration (R151) -/

/-- A controller enters its calibration slot; lanes that training finds outside margin are repaired, with the repairs due (R149, R151). -/
def Blk.calibStart (b : Blk) (p : Pan) (lanes : List Nat) : Blk :=
  if !b.works p then b
  else
    let b := b.modMc p fun m => { m with inCalib := true, calibAt := b.now }
    let b := b.setSt p .calib
    let b := lanes.foldl (fun b l => b.wantRepair p true l) b
    b.doRepairs p

/-- Does the controller's stack retrain to another rate? A slot that runs on it is abandoned (R141, R154). -/
def Blk.rateChanges (b : Blk) (p : Pan) : Bool := b.mon.stackNow.any fun x => panDie p = 8 + x.1

/-- CALIB_DONE: a failed one keeps the previous settings; after three in a row the controller fails (R151). -/
def Blk.calibDone (b : Blk) (p : Pan) (ok : Bool) (us : Nat) : Blk :=
  let m := b.mcOf p
  if !isMc p || !m.inCalib || (b.panSt p).st ≠ .calib || b.rateChanges p then b
  else
    let n := if ok then 0 else m.fails + 1
    let b := b.modMc p fun m => { m with
      inCalib := false, lastUs := us % 256, slotsDone := if ok then (m.slotsDone + 1) % 2 ^ 16 else m.slotsDone,
      failCnt := if ok then m.failCnt else satInc 8 m.failCnt, fails := n }
    let b := b.setSt p .ready
    let sev := if 3 ≤ n then b.faultSev else 2
    b.withSev (if sev = 4 then 4 else 0) fun b =>
      let b := if 3 ≤ n then b.mcFault p else b
      if ok then b else b.raiseSev sev 0x3007 moduleCtx p 0

/-- CALIB_DONE (R151). -/
def execCalibDone (mc : Nat) (ok : Bool) (us : Nat) (s : State) : Host.Outcome State Fault Refusal := .next (s.setB (s.b.calibDone mc ok us))

end Sys2Proof.Machine
end

