-- ==== Sys2Proof/Machine/Sluice.lean ====
section
/-! DEFINITION. The sluice: migration slots, staging, moves, waiting requests, activation offload and returns (09). -/
namespace Sys2Proof.Machine
open Sys2Proof

/-- Does a controller of a place stand in its calibration slot (R179)? -/
def Blk.placeCalib (b : Blk) (p : Place) : Bool :=
  allMC.any fun c => mcPlace c = some p && (b.mcOf c).inCalib

/-- Are a place's controllers all in service? -/
def Blk.placeWorks (b : Blk) (p : Place) : Bool := allMC.all fun c => mcPlace c ≠ some p || b.works c

/-! ### Staging (R163, R170, R177) -/

/-- Does a collective of the context wait for a peer (R311)? -/
def Blk.collWaits (b : Blk) (ctx : Nat) : Bool := b.colls.any fun c => c.ctx = ctx && c.waitAt.isSome

/-- May a granule be prefetched to a die: a collective waits, the layer is one of the next DEPTH ones, and the die read it last (R177)? -/
def Blk.prefetchable (b : Blk) (ctx g die : Nat) : Bool :=
  let c := b.ctx ctx
  b.collWaits ctx && (match c.layer, regionAt c (g * granBytes), b.gran ctx g with
    | some l, some r, some x =>
      let k := b.cls r.cls
      let d := ((r.layer : Int) - l) * c.dir
      k.prefetch && decide (r.layer ≠ 0xFF ∧ 1 ≤ d ∧ d ≤ k.depth) && x.lastDie = some die
    | _, _, _ => false) &&
  !(b.slu.stalls.any fun r => match r.kind with | .stage d false => d = die | _ => false)

/-- Does an engine of the die hold work of the context? -/
def Blk.demands (b : Blk) (ctx die : Nat) : Bool :=
  (b.me.any fun e => e.1 / 8 = die && e.2.q.any fun c => c.ctx = ctx) ||
  (b.ve.any fun e => e.1 / 4 = die && (match e.2.run with | some x => x.ctx = ctx | none => false))

/-- May staging begin: the granule exists, the die holds no copy, and nothing moves it? -/
def Blk.stageOk (b : Blk) (ctx g die : Nat) (pre : Bool) : Bool :=
  decide (die < 4) && ctxLives (b.ctx ctx).st && (b.ctx ctx).st ≠ .teardown && b.placeWorks (.sram die) &&
  (match b.gran ctx g with | some x => !holdsCopy x die | none => false) &&
  (b.slu.migs.all fun m => m.ctx ≠ ctx || m.gran ≠ g || (match m.kind with | .stage d _ => d ≠ die | _ => false)) &&
  (if pre then b.prefetchable ctx g die else b.demands ctx die)

/-- STAGE_START (R163, R170, R177). -/
def execStageStart (ctx gran die : Nat) (prefetch : Bool) (s : State) : Host.Outcome State Fault Refusal :=
  if s.b.stageOk ctx gran die prefetch then .next (s.setB (s.b.askMig ctx gran (.stage die prefetch))) else .next s

/-- STAGE_DONE: GEN rises; the waiting reads and writes proceed (R170, R183). -/
def Blk.stageDone (b : Blk) (ctx g die : Nat) : Blk :=
  match b.slu.migs.find? fun m => m.ctx = ctx && m.gran = g && (match m.kind with | .stage d _ => d = die | _ => false), b.gran ctx g with
  | some m, some x =>
    if b.placeCalib (.sram die) then b
    else
      let pre := m.kind = .stage die true
      let b := b.setGran ctx g (bumpGen { x with staged := x.staged ++ [die], lastUse := x.lastUse.set die b.now })
      b.modSlu fun s => { s with
        migs := s.migs.filter (· ≠ m), stagedCnt := satInc 32 s.stagedCnt, prefetched := if pre then satInc 32 s.prefetched else s.prefetched }
  | _, _ => b

/-- STAGE_DONE (R170). -/
def execStageDone (ctx gran die : Nat) (s : State) : Host.Outcome State Fault Refusal := .next (s.setB (s.b.stageDone ctx gran die))

/-! ### Moves (R170) -/

def placeTier (p : Place) : Nat := match p with | .sram _ => 0 | .t1 _ => 1 | .t2 _ => 2

/-- Is a number that of a stack or package with a free granule? -/
def Blk.placeFree (b : Blk) (p : Place) : Bool :=
  match p with
  | .sram _ => false
  | .t1 n => decide (n < 8 ∧ b.usedAt p < t1Cap n)
  | .t2 n => decide (n < 16 ∧ b.usedAt p < b.t2Cap n)

/-- May a class's resting places lie in a tier (R166)? -/
def clsAllows (k : SluClass) (tier : Nat) : Bool := if tier = 1 then k.allowT1 else k.allowT2

/-- Does the region's offload entry hold it out (R175)? -/
def Blk.isReturning (b : Blk) (ctx : Nat) (x : Gran) : Bool := x.offloaded && (b.ctx ctx).returning

/-- What a move that names a place is, if it may be made now (R163, R166, R170, R171, R176). -/
def Blk.moveKind (b : Blk) (ctx g : Nat) (dst : MoveTo) : Option MigKind :=
  let c := b.ctx ctx
  if !ctxLives c.st || c.st = .teardown || (b.slu.migs.any fun m => m.ctx = ctx && m.gran = g) || (b.slu.stalls.any fun r => r.ctx = ctx && r.gran = g && !r.kind.isStage) then none
  else match b.gran ctx g, regionAt c (g * granBytes) with
    | some x, some r =>
      let k := b.cls r.cls
      match dst with
      | .work d => if d < 4 && x.work.isNone && !x.staged.contains d && b.writable ctx g && b.placeWorks (.sram d) then some (.work d) else none
      | .writeBack => x.work.map fun d => .writeBack d
      | .rest p =>
        if !b.placeFree p || !b.placeWorks p || p = x.rest then none
        else if b.isReturning ctx x then (if placeTier p = 1 then some (.ret p) else none)
        else if x.offloaded || !clsAllows k (placeTier p) || (k.pin && clsAllows k (placeTier x.rest)) then none
        else some (.rest p)
    | _, _ => none

/-- MOVE_START; a working copy is made after the staged copies on other dies are dropped (R163, R170). -/
def execMoveStart (ctx gran : Nat) (dst : MoveTo) (s : State) : Host.Outcome State Fault Refusal :=
  match s.b.moveKind ctx gran dst with
  | some (.work d) => .next (s.setB ((s.b.dropStaged ctx gran).askMig ctx gran (.work d)))
  | some k => .next (s.setB (s.b.askMig ctx gran k))
  | none => .next s

/-- The copies a move leaves behind, each with the commands still bound to it (R170 step 6). -/
def Blk.leftBehind (b : Blk) (ctx g : Nat) (x : Gran) (k : MigKind) : List OldCopy :=
  let old := fun (p : Place) => ({ ctx := ctx, gran := g, place := p, users := match p with | .sram d => b.boundTo ctx g d | _ => [] } : OldCopy)
  match k with
  | .stage _ _ => []
  | .work _ => []
  | .writeBack d => [old (.sram d)]
  | .rest _ => old x.rest :: (x.work.toList.map fun d => old (.sram d))
  | .ret _ => old x.rest :: (x.work.toList.map fun d => old (.sram d))
  | .offload _ => old x.rest :: ((x.work.toList ++ x.staged).map fun d => old (.sram d))

/-- The granule's entry after a move has switched: the destination is the home and GEN has risen. -/
def switched (x : Gran) (k : MigKind) (pref now : Nat) : Gran :=
  bumpGen (match k with
    | .stage _ _ => x
    | .work d => { x with work := some d, lastUse := x.lastUse.set d now }
    | .writeBack _ => { x with work := none }
    | .rest p => { x with rest := p, work := none, overflow := placeTier p ≠ pref + 1 }
    | .ret p => { x with rest := p, work := none, offloaded := false }
    | .offload p => { x with rest := p, work := none, staged := [], offloaded := true })

/-- MOVE_SWITCH: while writes are in flight the last pass begins and new writes wait; once none is, the destination becomes the home (R170 steps 4 to 6). -/
def Blk.moveSwitch (b : Blk) (ctx g : Nat) : Blk :=
  match b.slu.migs.find? fun m => m.ctx = ctx && m.gran = g && (match m.kind with | .stage _ _ => false | _ => true), b.gran ctx g, regionAt (b.ctx ctx) (g * granBytes) with
  | some m, some x, some r =>
    if b.placeCalib (migDst m.kind x.rest) then b
    else if b.writesIn ctx g then
      b.modSlu fun s => { s with migs := s.migs.map fun y => if y = m then { y with last := true } else y }
    else
      let old := b.leftBehind ctx g x m.kind
      let b := b.setGran ctx g (switched x m.kind (b.cls r.cls).restPref b.now)
      let b := b.modSlu fun s => { s with migs := s.migs.filter (· ≠ m), old := s.old ++ old, moves := satInc 32 s.moves }
      b.returnsGoOn
  | _, _, _ => b

/-- MOVE_SWITCH (R170). -/
def execMoveSwitch (ctx gran : Nat) (s : State) : Host.Outcome State Fault Refusal := .next (s.setB (s.b.moveSwitch ctx gran))

/-- Has every command bound to an old copy ended? -/
def Blk.oldFree (b : Blk) (o : OldCopy) : Bool :=
  o.users.all fun u => !((b.meOf u.1).q.any fun c => c.ctx = o.ctx && c.seq = u.2)

/-- OLD_COPY_FREE: a copy with nothing in flight is zeroed and freed (R170 step 6). -/
def execOldCopyFree (ctx gran : Nat) (place : Place) (s : State) : Host.Outcome State Fault Refusal :=
  match s.b.slu.old.find? fun o => o.ctx = ctx && o.gran = gran && o.place = place with
  | some o => if s.b.oldFree o then .next (s.setB (s.b.modSlu fun u => { u with old := u.old.erase o }).returnsGoOn) else .next s
  | none => .next s

/-! ### Offload (R174, R175) -/

/-- When the LEARN phase in progress began. -/
def learnStart (c : Ctx) : Option Nat := if c.phase = .learn then some c.learnAt else none

/-- Has an instant of the plan been reached? -/
def Blk.planDue (b : Blk) (c : Ctx) (tide phase : Nat) : Bool :=
  match learnStart c with
  | some t => b.due (t + tide) phase
  | none => false

/-- Offload one granule: its move starts, or it is skipped for lack of room; a granule with a write in flight or in another move waits (R175). -/
def Blk.offloadGran (b : Blk) (ctx : Nat) (r : RegionRec) (g : Nat) (granted : Bool := false) : Blk :=
  let c := b.ctx ctx
  let o := c.off.get {} r.tensorId
  let waits := b.setCtx ctx { c with off := c.off.set r.tensorId { o with waiting := if o.waiting.contains g then o.waiting else o.waiting ++ [g] } }
  let b := b.setCtx ctx { c with off := c.off.set r.tensorId { o with waiting := o.waiting.filter (· ≠ g) } }
  match b.gran ctx g with
  | none => b
  | some x =>
    if placeTier x.rest ≠ 1 then b
    else if b.writesIn ctx g || (b.slu.migs.any fun m => m.ctx = ctx && m.gran = g) then waits
    else match b.findT2 ((g - r.base / granBytes) + r.tensorId) with
      | some p => b.beginMig granted ctx g (.offload p)
      | none =>
        let b := b.modSlu fun s => { s with skipCnt := satInc 16 s.skipCnt, offloadSkip := true }
        if o.skipped then b
        else
          let b := b.modCtx ctx fun c => { c with off := c.off.set r.tensorId { (c.off.get {} r.tensorId) with skipped := true } }
          b.raise 0x4002 ctx hubPan 0

/-! ### Waiting requests (R165, R177, R179, R180) -/

/-- Is a waiting request still wanted: the granule's copies still ask for it, and a prefetch still has its collective waiting? -/
def Blk.stillWanted (b : Blk) (r : StallReq) : Bool :=
  match b.gran r.ctx r.gran with
  | none => false
  | some x => match r.kind with
    | .stage d pre => !holdsCopy x d && (!pre || b.collWaits r.ctx)
    | .work d => x.work.isNone && (!x.staged.contains d || decide (480 ≤ b.workCount d))
    | .writeBack d => x.work = some d
    | .rest p => b.placeFree p && decide (p ≠ x.rest)
    | .ret _ => x.offloaded && (b.ctx r.ctx).returning
    | .offload _ => !x.offloaded

/-- Does nothing under way with its granule keep a waiting request from beginning: no other migration of it, the staged copies of a new working copy's granule are
not in use, and the die's SRAM is in service (R163, R170)? -/
def Blk.unhindered (b : Blk) (r : StallReq) : Bool :=
  (b.slu.migs.all fun m => m.ctx ≠ r.ctx || m.gran ≠ r.gran || (match r.kind, m.kind with
    | .stage d _, .stage e _ => d ≠ e
    | _, _ => false)) &&
  (match r.kind with
    | .work _ => b.writable r.ctx r.gran
    | _ => true) &&
  (match sramNeed r.kind with
    | some (d, _) => b.placeWorks (.sram d)
    | none => true)

/-- Does a prefetch stand behind demand staging that waits for the same die (R177, R179)? -/
def Blk.outranked (b : Blk) (r : StallReq) : Bool :=
  match r.kind with
  | .stage d true => b.slu.stalls.any fun x => x.kind = .stage d false
  | _ => false

/-- A waiting request goes on: with a slot granted to it or free for it, and the room it needs, it starts; else it waits for what it lacks. An offload and a return
look again for a place with room (R175, R176). -/
def Blk.resume (b : Blk) (r : StallReq) (granted : Bool) : Blk :=
  let gone := fun (b : Blk) => b.modSlu fun s => { s with stalls := s.stalls.filter fun x => x.n ≠ r.n }
  if !b.stillWanted r then gone b
  else if !b.unhindered r then b.waitFor r .granule
  else match r.kind, regionAt (b.ctx r.ctx) (r.gran * granBytes) with
    | .offload _, some q => (gone b).offloadGran r.ctx q r.gran granted
    | .offload _, none => gone b
    | .ret _, _ => (gone b).nextReturn r.ctx granted
    | k, _ =>
      let b := if b.hasRoom k then b else b.makeRoom k
      if !b.hasRoom k || b.outranked r then b.waitFor r .sram
      else if (granted && b.slotFree) || b.slotNow then
        let b := match k with
          | .work _ => b.dropStaged r.ctx r.gran
          | _ => b
        (gone b).startMig r.ctx r.gran k
      else b.waitFor r .slot

/-- SLU_REQUEST_RESUME (R165): a request that waits for a slot goes on at the slots' arbiter only. -/
def execSluRequestResume (n : Nat) (s : State) : Host.Outcome State Fault Refusal :=
  match s.b.slu.stalls.find? fun r => r.n = n with
  | some r => if r.wait = .slot then .next s else .next (s.setB (s.b.resume r false))
  | none => .next s

/-- SLU_STALL_TIMEOUT: a request has waited more than one tide for staging SRAM (R180). -/
def execSluStallTimeout (n : Nat) (s : State) : Host.Outcome State Fault Refusal :=
  match s.b.slu.stalls.find? fun r => r.n = n with
  | some r =>
    if r.wait ≠ .sram || r.raised || !s.b.past r.since (s.b.tide.period + 1) then .next s
    else
      let b := s.b.modSlu fun u => { u with stalls := u.stalls.map fun x => if x.n = n then { x with raised := true } else x }
      .next (s.setB (b.raise 0x4005 r.ctx hubPan 0))
  | none => .next s

/-- One microsecond boundary: the microsecond counts if some request waited for staging SRAM in it (R165, R183). -/
def Blk.stallTick (b : Blk) : Blk :=
  b.modSlu fun s => { s with stallUs := if s.stallNow then satInc 32 s.stallUs else s.stallUs, stallNow := s.stalls.any fun r => r.wait = .sram }

/-- OFFLOAD_OUT: at its OUT instant each granule of the region with a resting place in tier 1 is offloaded (R175). -/
def Blk.offloadOut (b : Blk) (ctx tensor : Nat) : Blk :=
  let c := b.ctx ctx
  match c.rec_.offload.find? fun e => e.tensor = tensor, tensorRegion c tensor with
  | some e, some r =>
    let o := c.off.get {} tensor
    if c.st ≠ .active || o.out || !b.planDue c e.outTide e.outPhase then b
    else
      let b := b.setCtx ctx { c with off := c.off.set tensor { o with out := true } }
      (regionGrans r).foldl (fun b g => b.offloadGran ctx r g) b
  | _, _ => b

/-- OFFLOAD_OUT (R175). -/
def execOffloadOut (ctx tensor : Nat) (s : State) : Host.Outcome State Fault Refusal := .next (s.setB (s.b.offloadOut ctx tensor))

/-- OFFLOAD_GRANULE: a granule that waited for its writes (R175). -/
def execOffloadGranule (ctx gran : Nat) (s : State) : Host.Outcome State Fault Refusal :=
  match regionAt (s.b.ctx ctx) (gran * granBytes) with
  | some r => if ((s.b.ctx ctx).off.get {} r.tensorId).waiting.contains gran then .next (s.setB (s.b.offloadGran ctx r gran)) else .next s
  | none => .next s

/-- The regions that have gone out in this LEARN phase, in the order they return. -/
def retOrder (c : Ctx) : List (OffloadRec × RegionRec) := (planOrder c).filter fun x => (c.off.get {} x.1.tensor).out

/-- Has the start of the return sequence been reached: for some region i, D_i − C_i ÷ RET_RATE has passed (R176)? RET_RATE is 8 bytes per ns times the field. -/
def Blk.returnDue (b : Blk) (c : Ctx) : Bool :=
  match learnStart c with
  | none => false
  | some t =>
    let at_ := (b.tide.num - t) * b.tide.period + b.phase
    let rate := 8 * b.cfg.slu.retRate
    let l := retOrder c
    (List.range l.length).any fun i =>
      let e := (l[i]?.map (·.1)).getD {}
      let bytes := ((l.take (i + 1)).map fun x => regionBytes x.2).sum
      decide ((e.backTide * b.tide.period + e.backPhase) * rate ≤ at_ * rate + bytes)

/-- RETURN_START (R176). -/
def execReturnStart (ctx : Nat) (s : State) : Host.Outcome State Fault Refusal :=
  let c := s.b.ctx ctx
  if c.st = .active && !c.returning && s.b.returnDue c then .next (s.setB ((s.b.setCtx ctx { c with returning := true }).nextReturn ctx)) else .next s

/-- RETURN_DEADLINE (R176). -/
def Blk.returnDeadline (b : Blk) (ctx tensor : Nat) : Blk :=
  let c := b.ctx ctx
  match c.rec_.offload.find? fun e => e.tensor = tensor, tensorRegion c tensor with
  | some e, some r =>
    let o := c.off.get {} tensor
    if o.late || (b.stillOut ctx r).isEmpty || !b.planDue c e.backTide e.backPhase then b
    else
      let b := b.setCtx ctx { c with off := c.off.set tensor { o with late := true } }
      (b.modSlu fun s => { s with lateCnt := satInc 16 s.lateCnt }).deadlineMiss ctx
  | _, _ => b

/-- RETURN_DEADLINE (R176). -/
def execReturnDeadline (ctx tensor : Nat) (s : State) : Host.Outcome State Fault Refusal := .next (s.setB (s.b.returnDeadline ctx tensor))

/-- The beginning of a LEARN phase: the plan's instants recur (R174). -/
def Blk.learnStartOffload (b : Blk) (ctx : Nat) : Blk :=
  b.modCtx ctx fun c => { c with off := c.off.mapV fun _ _ => ({} : OffloadSt) }

end Sys2Proof.Machine
end

