-- ==== Sys2Proof/Machine/Operands.lean ====
section
/-! DEFINITION. The fields of the records that commands carry: tile commands, launches, vector instructions (R89, R109, R110, R133). -/
namespace Sys2Proof.Machine
open Sys2Proof

/-- The field of `w` bits at bit `lo` of the byte offset `off` of a little-endian record. -/
def fld (n off lo w : Nat) : Nat := bits n (8 * off + lo) w

/-! ### Tile commands (R89) -/

def opInit : Nat := 1
def opMma : Nat := 2
def opClose : Nat := 3

/-- The fields of a tile command record. -/
def tileRec (n : Nat) : TileRec where
  op := fld n 0 0 8
  handle := fld n 1 0 8
  fmt := fld n 2 0 4
  passes := fld n 2 4 2
  subn := bitAt n 22
  ovfm := bitAt n 23
  mode := fld n 3 0 2
  cls := fld n 3 2 4
  die := fld n 4 0 4
  me := fld n 4 4 4
  ag := fld n 5 0 4
  k := fld n 6 0 16
  a0 := fld n 8 0 64
  a1 := fld n 0x10 0 64
  pitch0 := fld n 0x18 0 32
  pitch1 := fld n 0x1C 0 32
  sa := fld n 0x20 0 64
  sb := fld n 0x28 0 64
  saPitch := fld n 0x30 0 32
  sbPitch := fld n 0x34 0 32
  kmask := fld n 0x38 0 64
  rowMask := fld n 0x40 0 64
  colMask := fld n 0x48 0 64
  shA := fld n 0x50 0 64
  shB := fld n 0x58 0 64
  shFmt := fld n 0x60 0 4
  shAPitch := fld n 0x64 0 32
  shBPitch := fld n 0x68 0 32

/-- Is a format code an MX one? -/
def mxCode (c : Nat) : Bool := match fmtOfCode c with | some f => isMx f | none => false

/-- The bits reserved in every record are 0. -/
def tileRsvOk (n : Nat) : Bool := fld n 3 6 2 = 0 && fld n 5 4 4 = 0 && fld n 0x60 4 28 = 0 && fld n 0x6C 0 160 = 0

/-- The fields a command does not use are 0 (R89); `mode` is the mode of the handle's group, SUM where none is bound. -/
def tileUnusedOk (n mode : Nat) : Bool :=
  let r := tileRec n
  let upper := fld n 0x38 0 (8 * 0x34)
  if r.op = opInit then
    fld n 2 0 8 = 0 && r.cls = 0 && r.k = 0 && r.a1 = 0 && r.pitch1 = 0 && r.sa = 0 && r.sb = 0 && r.saPitch = 0 && r.sbPitch = 0 && upper = 0 &&
      (r.a0 ≠ 0 || r.pitch0 = 0)
  else if r.op = opMma then
    r.mode = 0 && fld n 4 0 16 = 0 &&
      (mxCode r.fmt || (r.sa = 0 && r.sb = 0 && r.saPitch = 0 && r.sbPitch = 0)) &&
      (r.shA ≠ 0 || r.shB ≠ 0 || (r.shFmt = 0 && r.shAPitch = 0 && r.shBPitch = 0)) &&
      (r.shA ≠ 0 || r.shAPitch = 0) && (r.shB ≠ 0 || r.shBPitch = 0) && (mode = 0 || r.pitch1 = 0)
  else
    r.passes = 0 && fld n 3 0 8 = 0 && fld n 4 0 16 = 0 && r.k = 0 && r.pitch1 = 0 && r.sa = 0 && r.sb = 0 && r.saPitch = 0 && r.sbPitch = 0 &&
      upper = 0 && (mode = 2 || r.a1 = 0)

/-- Bytes of a row of `n` elements of a format code; 0 where the code names none. -/
def rowBytes (fmt n : Nat) : Nat := match fmtOfCode fmt with | some f => (n * fmtWidth f + 7) / 8 | none => 0

def up64 (n : Nat) : Nat := (n + 63) / 64 * 64

/-- Rows of an array: first byte and length of each. -/
def rowsOf (a pitch rows len : Nat) : List (Nat × Nat) := (List.range rows).map fun i => (a + i * pitch, len)

/-- The arrays a command lays out: address, pitch, rows, bytes per row; and whether it writes them (R91). -/
def tileArrays (r : TileRec) (mode : Nat) : List (Nat × Nat × Nat × Nat) :=
  if r.op = opInit then (if r.a0 = 0 then [] else [(r.a0, r.pitch0, 64, 512)])
  else if r.op = opClose then
    (r.a0, r.pitch0, 64, rowBytes r.fmt 64) :: (if mode = 2 then [(r.a1, r.pitch0, 64, rowBytes r.fmt 64)] else [])
  else if mode ≠ 0 then
    [(r.a0, r.pitch0, 64 * r.k, rowBytes r.fmt 64)] ++
      (if mxCode r.fmt then [(r.sa, r.saPitch, 64, r.k / 32), (r.sb, r.sbPitch, 64, r.k / 32)] else []) ++
      (if r.shA = 0 then [] else [(r.shA, r.shAPitch, 64 * r.k, rowBytes r.shFmt 64)]) ++
      (if r.shB = 0 then [] else [(r.shB, r.shBPitch, 64, rowBytes r.shFmt r.k)])
  else
    [(r.a0, r.pitch0, 64, rowBytes r.fmt r.k), (r.a1, r.pitch1, 64, rowBytes r.fmt r.k)] ++
      (if mxCode r.fmt then [(r.sa, r.saPitch, 64, r.k / 32), (r.sb, r.sbPitch, 64, r.k / 32)] else []) ++
      (if r.shA = 0 then [] else [(r.shA, r.shAPitch, 64, rowBytes r.shFmt r.k)]) ++
      (if r.shB = 0 then [] else [(r.shB, r.shBPitch, 64, rowBytes r.shFmt r.k)])

/-- The footprint of a command (R94): every row, and the K mask. -/
def tileRanges (r : TileRec) (mode : Nat) : List (Nat × Nat) :=
  ((tileArrays r mode).flatMap fun x => rowsOf x.1 x.2.1 x.2.2.1 x.2.2.2) ++
    (if r.op = opMma && r.kmask ≠ 0 then [(r.kmask, (r.k + 7) / 8)] else [])

/-- Alignment and pitches (R91, R94). -/
def tileLayoutOk (r : TileRec) (mode : Nat) : Bool :=
  ((tileArrays r mode).all fun x => x.1 % 64 = 0 && x.2.1 % 64 = 0 && decide (up64 x.2.2.2 ≤ x.2.1)) &&
    (r.kmask % 64 = 0) && (r.op ≠ opMma || mode = 0 || (r.a1 = 0 && r.colMask ≠ 0))

/-- The decode checks of a tile command, with the first cause that it breaks (R66, R72, R85, R94), and the faulting address of ADDR_RANGE. -/
def tileCheck (c : Ctx) (n mode : Nat) : Option (Nat × Nat) :=
  let r := tileRec n
  let mma := r.op = opMma
  let outside := (tileRanges r mode).find? fun x => !covered c x.1 x.2
  if r.op = 0 ∨ 3 < r.op then some (cCmdOp, 0)
  else if !tileRsvOk n || !tileUnusedOk n mode then some (cCmdRsv, 0)
  else if (4 ≤ r.die ∧ r.die ≠ 15) ∨ (8 ≤ r.me ∧ r.me ≠ 15) ∨ (8 ≤ r.ag ∧ r.ag ≠ 15) then some (cCmdTarget, 0)
  else if 9 ≤ r.cls then some (cCmdClass, 0)
  else if r.op = opInit ∧ (r.mode = 3 ∨ (r.mode = 2 ∧ r.a0 ≠ 0)) then some (cAgMode, 0)
  else if mma ∧ (r.k = 0 ∨ 16384 < r.k ∨ (mxCode r.fmt ∧ r.k % 32 ≠ 0)) then some (cMmaK, 0)
  else if !tileLayoutOk r mode then some (cMmaLayout, 0)
  else match outside with
    | some x => some (cAddrRange, firstOutside c x.1 x.2)
    | none =>
      if mma ∧ (r.shA ≠ 0 ∨ r.shB ≠ 0) ∧ (1 < r.shFmt ∨ r.fmt = 0) then some (cFmtRole, 0)
      else if r.op ≠ opInit ∧ (fmtOfCode r.fmt).isNone then some (cFmtRsv, 0)
      else if mma ∧ r.fmt = 0xF then some (cFmtRole, 0)
      else if r.op = opClose ∧ mxCode r.fmt then some (cFmtRole, 0)
      else if mma ∧ (r.passes = 0 ∨ (r.passes ≠ 1 ∧ r.fmt ≠ 0)) then some (cFmtRole, 0)
      else if mma ∧ mode ≠ 0 ∧ mxCode r.fmt then some (cFmtRole, 0)
      else if mma ∧ mode = 2 ∧ r.passes ≠ 1 then some (cFmtRole, 0)
      else none

/-! ### Launches (R133) -/

/-- The fields of a launch record. -/
structure LaunchRec where
  op : Nat
  die : Nat
  ve : Nat
  addr : Nat
  n : Nat
  db : Nat
  a : List Nat
  deriving DecidableEq, Repr

def launchRec (n : Nat) : LaunchRec where
  op := fld n 0 0 8
  die := fld n 1 0 4
  ve := fld n 1 4 4
  addr := fld n 8 0 64
  n := fld n 0x10 0 32
  db := fld n 0x18 0 64
  a := (List.range 8).map fun i => fld n (0x20 + 8 * i) 0 64

/-- The decode checks of a launch (R133). -/
def launchCheck (n : Nat) : Option Nat :=
  let r := launchRec n
  if r.op ≠ 0x10 then some cCmdOp
  else if fld n 2 0 48 ≠ 0 ∨ fld n 0x14 0 32 ≠ 0 ∨ fld n 0x60 0 256 ≠ 0 then some cCmdRsv
  else if (4 ≤ r.die ∧ r.die ≠ 15) ∨ (4 ≤ r.ve ∧ r.ve ≠ 15) then some cCmdTarget
  else if r.addr % 8 ≠ 0 then some cVeAlign
  else none

end Sys2Proof.Machine
end

