-- ==== Sys2Proof/Machine/Matrix.lean ====
section
/-! DEFINITION. Matrix engines: tile commands, handles and groups, the array, the drain and the gauge (04, 05; R172). -/
namespace Sys2Proof.Machine
open Sys2Proof

/-! ### Reading operands (R53, R54, R91) -/

/-- Element `k` of `w` bits of a packed row, read through `rd` (R53, R54). -/
def elemAt (rd : Nat → Nat) (a w k : Nat) : Nat :=
  let lo := w * k % 8
  bits (ofLeBytes ((List.range ((lo + w + 7) / 8)).map fun i => rd (a + w * k / 8 + i))) lo w

/-- The format a command names; FP32 where the code names none, which decode rules out. -/
def recFmt (r : TileRec) : Fmt := (fmtOfCode r.fmt).getD .fp32

/-- Is k present under the K mask (R92)? -/
def kPresent (r : TileRec) (rd : Nat → Nat) (k : Nat) : Bool := r.kmask = 0 || bitAt (rd (r.kmask + k / 8)) (k % 8)

/-- The element of A that row i (and, in SUMSQ and MEANVAR, column j) meets at k (R85, R91). -/
def codeA (r : TileRec) (mode : Nat) (rd : Nat → Nat) (i j k : Nat) : Nat :=
  let w := fmtWidth (recFmt r)
  if mode = 0 then elemAt rd (r.a0 + i * r.pitch0) w k else elemAt rd (r.a0 + (64 * k + i) * r.pitch0) w j

/-- The element of B that column j meets at k; in SUMSQ it is that of A (R85). -/
def codeB (r : TileRec) (mode : Nat) (rd : Nat → Nat) (i j k : Nat) : Nat :=
  if mode = 0 then elemAt rd (r.a1 + j * r.pitch1) (fmtWidth (recFmt r)) k else codeA r mode rd i j k

/-- What element (i, j) of an MMA sums, over the first `kp` values of k (R78, R85). -/
def mmaTerms (r : TileRec) (mode : Nat) (rd : Nat → Nat) (kp i j : Nat) : Terms where
  fmt := recFmt r
  passes := r.passes
  bigK := kp
  subn := r.subn
  a := codeA r mode rd i j
  b := codeB r mode rd i j
  sa := fun q => rd (r.sa + i * r.saPitch + q)
  sb := fun q => rd (r.sb + j * r.sbPitch + q)
  present := kPresent r rd

/-- The elements whose row and column are present (R92). -/
def presentElems (r : TileRec) : List (Nat × Nat) :=
  let cols := (List.range 64).filter (bitAt r.colMask)
  ((List.range 64).filter (bitAt r.rowMask)).flatMap fun i => cols.map fun j => (i, j)

/-- One element of a MEANVAR group takes the terms of a command in ascending k (R85). -/
def meanVarElem (r : TileRec) (rd : Nat → Nat) (i j : Nat) (m : MeanVar) : MeanVar × NumFlags :=
  (List.range r.k).foldl (fun acc k => if kPresent r rd k then
    let x := meanVarTerm (recFmt r) r.subn (codeA r 2 rd i j k) acc.1
    (x.1, orFlags acc.2 x.2) else acc) (m, noFlags)

/-- An MMA's effect on its group (R67, R78, R85). -/
def mmaInto (r : TileRec) (rd : Nat → Nat) (g : Ag) : Ag × NumFlags :=
  let x := (presentElems r).foldl (fun (acc : Ag × NumFlags) e =>
    let n := 64 * e.1 + e.2
    if g.mode = 2 then
      let m := meanVarElem r rd e.1 e.2 (acc.1.mv.get {} n)
      ({ acc.1 with mv := acc.1.mv.set n m.1 }, orFlags acc.2 m.2)
    else
      let t := mmaElement (mmaTerms r g.mode rd r.k e.1 e.2) (acc.1.tot.find n)
      (match t.1 with
        | some v => ({ acc.1 with tot := acc.1.tot.set n v }, orFlags acc.2 t.2)
        | none => (acc.1, orFlags acc.2 t.2))) (g, noFlags)
  ({ x.1 with flushed := x.1.flushed || x.2.subnFlushed }, x.2)

/-- The totals that INIT with a loaded tile starts from (R82, R91). -/
def loadTile (r : TileRec) (rd : Nat → Nat) : Tbl Nat :=
  (List.range 4096).map fun n => (n, elemAt rd (r.a0 + n / 64 * r.pitch0) 64 (n % 64))

/-- What a CLOSE writes for element (i, j): one code, or mean and variance (R75, R85, R86). -/
def closeElem (r : TileRec) (g : Ag) (n : Nat) : Nat × Nat × NumFlags :=
  if g.mode = 2 then meanVarClose (recFmt r) r.subn r.ovfm (g.mv.get {} n)
  else
    let x := closeConvert (recFmt r) r.subn r.ovfm (g.tot.find n)
    (x.1, 0, x.2)

/-- The rows that a CLOSE writes, and its flags (R75, R91). -/
def closeRows (r : TileRec) (g : Ag) : List (Nat × List Nat) × NumFlags :=
  let n := elemBytes (recFmt r)
  let rows := (List.range 64).map fun i => (i, (List.range 64).map fun j => closeElem r g (64 * i + j))
  let fl := rows.foldl (fun f x => x.2.foldl (fun f y => orFlags f y.2.2) f) noFlags
  let one := rows.map fun x => (r.a0 + x.1 * r.pitch0, x.2.flatMap fun y => leBytes n y.1)
  let two := rows.map fun x => (r.a1 + x.1 * r.pitch0, x.2.flatMap fun y => leBytes n y.2.1)
  (if g.mode = 2 then one ++ two else one, fl)

/-! ### Handles and binding (R83, R90, R172) -/

/-- Where a handle's last accepted command leaves it: open, or closing (R83, R84). -/
def handleClosing (h : Handle) : Bool :=
  match (h.held.filter fun c => c.r.op ≠ opMma).getLast? with
  | some c => c.r.op = opClose
  | none => h.closing

/-- The mode of the INIT bound to a handle (R89). -/
def handleMode (h : Handle) : Nat :=
  match (h.held.filter fun c => c.r.op = opInit).getLast? with
  | some c => c.r.mode
  | none => h.mode

def handleGet (c : Ctx) (n : Nat) : Option Handle := c.handles.find n

/-- The engines that an INIT's targets allow (R89, R90). -/
def targetMes (r : TileRec) : List Nat :=
  (List.range 32).filter fun m => (r.die = 15 || r.die = m / 8) && (r.me = 15 || r.me = m % 8)

/-- Does the INIT name its engine: neither die nor engine is 'any' (R172)? -/
def namesMe (r : TileRec) : Bool := r.die ≠ 15 && r.me ≠ 15

/-- The lowest-numbered CLOSED group of an engine that an INIT allows (R90, R172). -/
def closedGroup (m : Me) (r : TileRec) : Option Nat :=
  (List.range 8).find? fun g => (r.ag = 15 || r.ag = g) && (m.agOf g).owner.isNone

/-- Is an engine a candidate for an INIT: it works and has a CLOSED group that TARGET_AG allows (R90, R172)? -/
def Blk.candidateMe (b : Blk) (r : TileRec) (me : Nat) : Bool := b.works (mePan me) && (closedGroup (b.meOf me) r).isSome

/-- May an INIT bind on its engine at once: room for the command, nobody waiting before it (R90, R95)? -/
def Blk.bindsNow (b : Blk) (me : Nat) : Bool := decide ((b.meOf me).q.length < 32) && (b.arbOf (.inits me)).waiting.isEmpty

/-- The granules whose copies decide where an 'any' INIT goes: those of the next command (R172). -/
def scoreGrans (init : TileRec) (next : TileRec) : List Nat :=
  let l := if next.op = opMma then (tileRanges next init.mode).flatMap fun x => gransOf x.1 x.2
    else ((tileRanges init init.mode) ++ rowsOf next.a0 next.pitch0 64 1).flatMap fun x => gransOf x.1 x.2
  l.eraseDups

/-- An engine's score (R172). -/
def Blk.scoreOf (b : Blk) (ctx me : Nat) (gs : List Nat) : Nat :=
  granBytes * (gs.filter fun g => match b.gran ctx g with | some x => holdsCopy x (me / 8) | none => false).length

/-- The better of two candidates: the higher score, then fewer commands, then the lower engine (R172). -/
def betterMe (b : Blk) (ctx : Nat) (gs : List Nat) (x y : Nat) : Nat :=
  let sx := b.scoreOf ctx x gs
  let sy := b.scoreOf ctx y gs
  let qx := (b.meOf x).q.length
  let qy := (b.meOf y).q.length
  if sy > sx ∨ (sy = sx ∧ qy < qx) then y else x

/-- Put a command into an engine's list, before later ones of its context (R95). -/
def insertCmd (c : TileCmd) : List TileCmd → List TileCmd
  | [] => [c]
  | x :: xs => if x.ctx = c.ctx && decide (0 < psnSub x.seq c.seq ∧ psnSub x.seq c.seq < 2 ^ 31) then c :: x :: xs else x :: insertCmd c xs

/-- Hand a handle's waiting commands to its engine while there is room; a CLOSE closes the handle to further ones. -/
def Blk.pump (b : Blk) (ctx h : Nat) : Nat → Blk
  | 0 => b
  | fuel + 1 =>
    match handleGet (b.ctx ctx) h with
    | none => b
    | some x => match x.bound, x.held with
      | some (me, g), c :: cs =>
        if c.r.op = opInit || x.closing || 32 ≤ (b.meOf me).q.length then b
        else
          let b := b.modMe me fun m => { m with q := insertCmd { c with ag := g } m.q }
          let b := b.modCtx ctx fun k => { k with handles := k.handles.set h { x with held := cs, closing := c.r.op = opClose } }
          b.pump ctx h fuel
      | _, _ => b

/-- Bind a handle, whose first waiting command is an INIT, to a group (R90). -/
def Blk.bindTo (b : Blk) (ctx h me g : Nat) : Blk :=
  match handleGet (b.ctx ctx) h with
  | none => b
  | some x => match x.held with
    | c :: cs =>
      let b := b.modAg me g fun a => { a with owner := some (ctx, h), mode := c.r.mode }
      let b := b.modMe me fun m => { m with q := insertCmd { c with ag := g } m.q }
      let b := b.modCtx ctx fun k => { k with handles := k.handles.set h { bound := some (me, g), mode := c.r.mode, closing := false, held := cs } }
      { b with arbs := b.arbs.mapV fun _ a => a.keep fun r => r.what ≠ ReqWhat.initCmd ctx c.seq }.pump ctx h 32
    | [] => b

/-- The engine that an INIT goes to: of the candidates the highest score, then the fewest commands, then the lowest number (R172). -/
def Blk.bestMe (b : Blk) (ctx : Nat) (init : TileCmd) (next : Option TileCmd) : Option Nat :=
  match (targetMes init.r).filter (b.candidateMe init.r) with
  | m :: ms => some (ms.foldl (betterMe b ctx (scoreGrans init.r ((next.map (·.r)).getD init.r))) m)
  | [] => none

/-- Bind a handle if its INIT can be placed on the engine chosen; otherwise the INIT waits at the arbiters of the engines it allows (R90, R172, R238). -/
def Blk.tryBind (b : Blk) (ctx h : Nat) : Blk :=
  match handleGet (b.ctx ctx) h with
  | none => b
  | some x => match x.bound, x.held with
    | none, c :: cs =>
      if !namesMe c.r && cs.isEmpty then b
      else
        let best := (b.bestMe ctx c cs.head?).filter b.bindsNow
        match best with
        | some me => b.bindTo ctx h me ((closedGroup (b.meOf me) c.r).getD 0)
        | none => (targetMes c.r).foldl (fun b m =>
            if (b.arbOf (.inits m)).waiting.any (fun r => r.what = .initCmd ctx c.seq) then b
            else b.request (.inits m) { cls := (b.ctx ctx).qos, ctx := ctx, cost := 1, what := .initCmd ctx c.seq }) b
    | _, _ => b

/-- The handle whose first waiting command is a given INIT. -/
def heldInit (c : Ctx) (seq : Nat) : Option (Nat × TileCmd × Option TileCmd) :=
  c.handles.findSome? fun e => match e.2.bound, e.2.held with
    | none, x :: xs => if x.seq = seq then some (e.1, x, xs.head?) else none
    | _, _ => none

/-- The arbiter of an engine grants a waiting INIT (R90, R238): it binds; if another context holds the very group it names, it is rejected (R87). -/
def Blk.grantInit (b : Blk) (me ctx seq : Nat) : Blk :=
  match heldInit (b.ctx ctx) seq with
  | none => b
  | some (h, c, _) => match closedGroup (b.meOf me) c.r with
    | some g => b.bindTo ctx h me g
    | none => b.ctxFault ctx cAgOwner (mePan me) seq false 0 0

/-- Can the arbiter of an engine serve a waiting INIT now: the engine has room and is the one that R172 chooses, or the INIT is to be rejected (R87)? -/
def Blk.initServable (b : Blk) (me ctx seq : Nat) : Bool :=
  match heldInit (b.ctx ctx) seq with
  | none => true
  | some (_, c, next) => b.works (mePan me) &&
      ((decide ((b.meOf me).q.length < 32) && b.bestMe ctx c next = some me) ||
        ((closedGroup (b.meOf me) c.r).isNone && namesMe c.r && c.r.ag ≠ 15 && match ((b.meOf me).agOf c.r.ag).owner with | some o => o.1 ≠ ctx | none => false))

/-- After a command has gone, commands that waited for room move up. -/
def Blk.pumpMe (b : Blk) (me : Nat) : Blk :=
  b.ctxs.foldl (fun b e => e.2.handles.foldl (fun b h => match h.2.bound with
    | some (m, _) => if m = me then b.pump e.1 h.1 32 else b
    | none => b) b) b

/-! ### QCMD (R88, R94, R132) -/

/-- Is a record address in the user part of local memory, 128-byte aligned (R132)? -/
def recordAddrOk (a : Nat) : Bool := a % 128 = 0 && decide (0xFFFFFFFFFFFC0000 ≤ a ∧ a + 128 ≤ 0xFFFFFFFFFFFF0000)

/-- May the core issue: a program is bound, it does not wait, its context is ACTIVE? -/
def Blk.mayIssue (b : Blk) (core : Nat) : Option Prog :=
  match b.prog core, (b.rkOf core).wait with
  | some p, none => if (b.ctx p.ctx).st = .active && b.works (rkPan core) then some p else none
  | _, _ => none

/-- A command or launch is accepted: the core's earlier stores are ordered before it, it takes the next sequence number, and rd := that number (R128, R132). -/
def State.accept (s : State) (core rd pc : Nat) (p : Prog) : State × Nat :=
  let s := s.publish (.rk core)
  let seq := (s.b.ctx p.ctx).seq
  let b := s.b.modCtx p.ctx fun c => { c with seq := (seq + 1) % 2 ^ 32, open_ := c.open_ ++ [(seq, progIssuer core p)] }
  let b := b.modRk core fun r => setX { atPc r pc with issued := r.issued ++ [seq] } rd seq
  ((s.setB b).wakeAll, seq)

/-- AG_STATE and AG_OWNER (R83, R90): the cause for which a well-formed command is rejected. -/
def Blk.agCheck (b : Blk) (ctx : Nat) (r : TileRec) : Option Nat :=
  let c := b.ctx ctx
  match handleGet c r.handle with
  | some x => if r.op = opInit then (if handleClosing x then none else some cAgState)
      else if handleClosing x then some cAgState else none
  | none =>
    if r.op ≠ opInit then some cAgState
    else if namesMe r && r.ag ≠ 15 then
      match ((b.meOf (8 * r.die + r.me)).agOf r.ag).owner with
      | none => none
      | some o => if o.1 ≠ ctx then some cAgOwner
          else match handleGet c o.2 with
            | some y => if handleClosing y then none else some cAgState
            | none => none
    else none

/-- Queue an accepted command on its handle. -/
def Blk.enqueue (b : Blk) (c : TileCmd) : Blk :=
  let x := (handleGet (b.ctx c.ctx) c.r.handle).getD {}
  let b := b.modCtx c.ctx fun k => { k with handles := k.handles.set c.r.handle { x with held := x.held ++ [c] } }
  match x.bound with
  | some _ => b.pump c.ctx c.r.handle 32
  | none => b.tryBind c.ctx c.r.handle

/-- The engine that a record names with explicit targets. -/
def namedMe (r : TileRec) : Option Nat := if namesMe r then some (8 * r.die + r.me) else none

/-- The engine that a handle's commands go to after those of `held`: the last held INIT's if it names one, else the one bound. -/
def heldMe (bound : Option (Nat × Nat)) (held : List TileCmd) : Option Nat :=
  match (held.filter fun c => c.r.op = opInit).getLast? with
  | some c => namedMe c.r
  | none => bound.map (·.1)

/-- The engine whose room a command needs before it is accepted (R95). -/
def cmdMe (c : Ctx) (r : TileRec) : Option Nat :=
  if r.op = opInit then namedMe r
  else match handleGet c r.handle with
    | some x => heldMe x.bound x.held
    | none => none

/-- A handle's commands that an engine has accepted but that still wait for room or for their group (R95). -/
def heldAt (h : Handle) (me : Nat) : Nat := ((List.range h.held.length).filter fun i => heldMe h.bound (h.held.take (i + 1)) = some me).length

/-- The commands that an engine holds, accepted but not complete, of which it holds at most 32 (R95). -/
def Blk.meLoad (b : Blk) (me : Nat) : Nat :=
  (b.meOf me).q.length + (b.ctxs.map fun e => (e.2.handles.map fun h => heldAt h.2 me).sum).sum

/-- QCMD. -/
def State.qcmd (s : State) (core rd rs1 pc : Nat) (n : Nat) : State :=
  match s.b.mayIssue core with
  | none => s
  | some p =>
    if !recordAddrOk rs1 then s.setB (s.b.rkFault core cRkLocal pc)
    else
      let c := s.b.ctx p.ctx
      let r := tileRec n
      let full := match cmdMe c r with | some m => decide (32 ≤ s.b.meLoad m) | none => false
      if 4096 ≤ c.open_.length || full then s
      else
        let x := s.accept core rd pc p
        let s := x.1
        let mode := match handleGet c r.handle with | some h => handleMode h | none => 0
        match tileCheck c n mode with
        | some (cause, addr) => s.setB (s.b.ctxFault p.ctx cause hubPan x.2 false addr 0)
        | none => match s.b.agCheck p.ctx r with
          | some cause => s.setB (s.b.ctxFault p.ctx cause hubPan x.2 false 0 0)
          | none => s.setB (s.b.enqueue { seq := x.2, ctx := p.ctx, who := progIssuer core p, r := r, inLearn := c.phase = .learn })

/-- QCMD (R132). -/
def execQcmd (core rd rs1 pc : Nat) (s : State) : Host.Outcome State Fault Refusal :=
  .next (s.qcmd core rd rs1 pc (s.b.rkNat core rs1 128))

/-! ### The units of an engine (R95) -/

/-- Is a command eligible: every earlier command naming its group has completed? -/
def eligible (q : List TileCmd) (c : TileCmd) : Bool :=
  !c.running && match (q.filter fun x => x.ag = c.ag).head? with
    | some x => x.seq = c.seq && x.ctx = c.ctx
    | none => false

/-- Are all granules of some ranges on the engine's die (R93, R163)? -/
def Blk.staged (b : Blk) (ctx die : Nat) (rs : List (Nat × Nat)) : Bool :=
  rs.all fun x => (gransOf x.1 x.2).all fun g => match b.gran ctx g with | some y => holdsCopy y die | none => false

/-- The granules of some ranges. -/
def rangeGrans (rs : List (Nat × Nat)) : List Nat := (rs.flatMap fun x => gransOf x.1 x.2).eraseDups

/-- What a unit reads of a context's memory. -/
def State.reader (s : State) (ctx : Nat) : Nat → Nat := s.view none ctx

/-- Mark a command as running on its unit, bound to its granules, with the operand bytes it finds (R95, R99, R169). -/
def Blk.startCmd (b : Blk) (me : Nat) (c : TileCmd) (gs : List Nat) (lane : Nat) (old : List Host.Cell := []) : Blk :=
  b.modMe me fun m => { m with q := m.q.map fun x =>
    if x.seq = c.seq && x.ctx = c.ctx then { x with running := true, grans := gs, lane := lane, old := old } else x }

/-- A command has completed: it leaves its engine, and who waits for it goes on (R95, R132). -/
def State.finishCmd (s : State) (me : Nat) (c : TileCmd) : State :=
  let b := s.b.modMe me fun m => { m with q := m.q.filter fun x => x.seq ≠ c.seq || x.ctx ≠ c.ctx }
  (s.setB (b.pumpMe me)).complete c.ctx c.seq

/-- Note that a die has read granules (R165, R177). -/
def Blk.noteReads (b : Blk) (ctx die : Nat) (gs : List Nat) : Blk := gs.foldl (fun b g => b.noteRead ctx g die) b

/-- The first eligible command of a kind: its unit takes eligible commands in order (R95). -/
def headCmd (q : List TileCmd) (op : Nat) : Option TileCmd := q.find? fun c => c.r.op = op && eligible q c

/-- The first eligible command of a kind that meets a condition: an MMA may pass one that waits for staging (R99). -/
def nextCmd (q : List TileCmd) (op : Nat) (ok : TileCmd → Bool) : Option TileCmd := q.find? fun c => c.r.op = op && eligible q c && ok c

def unitBusy (q : List TileCmd) (op : Nat) : Bool := q.any fun c => c.r.op = op && c.running

/-- INIT starts on the load unit: the group becomes OPEN with its mode and starting value (R82, R83, R95). -/
def State.initStart (s : State) (me : Nat) : State :=
  let m := s.b.meOf me
  let die := me / 8
  if !s.b.works (mePan me) || unitBusy m.q opInit then s
  else match (headCmd m.q opInit).filter fun c => s.b.staged c.ctx die (tileRanges c.r c.r.mode) with
    | none => s
    | some c =>
      let rs := tileRanges c.r c.r.mode
      match accessAll (s.b.ctx c.ctx) c.who false rs with
      | .fault cause a hub => s.setB (s.b.accessFault c.ctx cause (mePan me) c.seq a hub)
      | _ =>
        let b := s.b.startCmd me c (rangeGrans rs) 0
        let b := b.noteReads c.ctx die (rangeGrans rs)
        let tot := if c.r.a0 = 0 then [] else loadTile c.r (s.reader c.ctx)
        let b := b.modAg me c.ag fun g => { g with st := .open_, mode := c.r.mode, tot := tot, mv := [], flushed := false }
        s.setB (if c.r.a0 = 0 then b else b.spend)

/-- INIT. -/
def execInit (me : Nat) (s : State) : Host.Outcome State Fault Refusal := .next (s.initStart me)

/-- The running command of a kind on an engine. -/
def runningCmd (m : Me) (op : Nat) (lane : Nat) : Option TileCmd := m.q.find? fun c => c.r.op = op && c.running && c.lane = lane

/-- INIT_DONE: the load unit has finished (R95). -/
def execInitDone (me : Nat) (s : State) : Host.Outcome State Fault Refusal :=
  match runningCmd (s.b.meOf me) opInit 0 with
  | some c => .next (s.finishCmd me c)
  | none => .next s

/-! ### The gauge (R100 to R103, R196) -/

def Blk.modStat (b : Blk) (me cls : Nat) (f : GaugeStat → GaugeStat) : Blk :=
  b.modMe me fun m => { m with stat := m.stat.set cls (f (m.stat.get {} cls)) }

/-- Bytes that the first `kp` values of k of a SUM command take in the gauge buffer (R101). -/
def gaugeSize (r : TileRec) (kp : Nat) : Nat :=
  128 * rowBytes r.fmt kp + (if mxCode r.fmt then 128 * ((kp + 31) / 32) else 0) + (if r.kmask = 0 then 0 else (kp + 7) / 8) +
    (if r.shA = 0 then 0 else 64 * rowBytes r.shFmt kp) + (if r.shB = 0 then 0 else 64 * rowBytes r.shFmt kp)

/-- K′: all of K where it fits 1 MiB, else the largest multiple of 32 that fits (R101). -/
def gaugeK (r : TileRec) : Nat :=
  if gaugeSize r r.k ≤ 2 ^ 20 then r.k
  else 32 * (((List.range (r.k / 32 + 1)).reverse.find? fun n => gaugeSize r (32 * n) ≤ 2 ^ 20).getD 0)

/-- A copy of the bytes of some ranges. -/
def copyRanges (rd : Nat → Nat) (rs : List (Nat × Nat)) : List Host.Cell :=
  rs.foldl (fun m x => (List.range x.2).foldl (fun m i => memWrite m (x.1 + i) (rd (x.1 + i))) m) []

/-- The gauge at the start of an MMA into a SUM group: count, sample or put off (R100, R101). DESIGN CHOICE (log 14): a sample put off counts in DEFER of
the class of the MMA at which it was first put off, not of the one sampled in its place. -/
def State.gaugeStart (s : State) (me : Nat) (c : TileCmd) : State :=
  let m := s.b.meOf me
  if !m.gaugeDue then
    let n := m.gaugeCnt + 1
    let due := decide (2 ^ s.b.cfg.num.gaugeN ≤ n)
    s.setB (s.b.modMe me fun m => { m with gaugeCnt := n, gaugeDue := due, gaugeLate := false })
  else if m.sample.isSome then
    if m.gaugeLate then s
    else
      let b := s.b.modMe me fun m => { m with gaugeLate := true }
      s.setB (b.modStat me c.r.cls fun g => { g with defer := satInc 16 g.defer })
  else
    let kp := gaugeK c.r
    let mem := copyRanges (s.reader c.ctx) (tileRanges { c.r with k := kp } 0)
    s.setB (s.b.modMe me fun m => { m with gaugeCnt := 0, gaugeDue := false, gaugeLate := false, sample := some { cmd := c, kp := kp, mem := mem } })

/-- The FP32 code of an operand of the wide result, and whether its exact value lies outside the FP32 range (R102). -/
def wideCode (f : Fmt) (sh : Option (Nat × Nat)) (scale code : Nat) : Nat × Bool :=
  match sh with
  | some (0, x) => (x, false)
  | some (_, x) => (x * 2 ^ 16, false)
  | none =>
    let v := if isMx f then mxValue f scale code else decodeFp f code
    match v with
    | .inf _ => ((convertVal .fp32 false true v).1, false)
    | .nan _ => (canonicalNan .fp32, false)
    | _ => ((convertVal .fp32 false true v).1, (convertVal .fp32 false true v).2.valOvf)

/-- The wide operands of a sample at element (i, j): A and B at k (R102). -/
def wideA (r : TileRec) (rd : Nat → Nat) (i k : Nat) : Nat × Bool :=
  let sh := if r.shA = 0 then none else some (r.shFmt, elemAt rd (r.shA + i * r.shAPitch) (if r.shFmt = 0 then 32 else 16) k)
  wideCode (recFmt r) sh (rd (r.sa + i * r.saPitch + k / 32)) (codeA r 0 rd i 0 k)

def wideB (r : TileRec) (rd : Nat → Nat) (j k : Nat) : Nat × Bool :=
  let sh := if r.shB = 0 then none else some (r.shFmt, elemAt rd (r.shB + j * r.shBPitch) (if r.shFmt = 0 then 32 else 16) k)
  wideCode (recFmt r) sh (rd (r.sb + j * r.sbPitch + k / 32)) (codeB r 0 rd 0 j k)

/-- The distance of two codes (R102). -/
def gaugeDist (f : Fmt) (x y : Nat) : Nat :=
  let nx := isNanV (decodeFp f x)
  let ny := isNanV (decodeFp f y)
  if nx && ny then 0 else if nx || ny then 65535 else min 65535 (ordCode f x - ordCode f y).natAbs

/-- The narrow and the wide result of a sample at one element (R102). -/
def gaugePair (r : TileRec) (rd : Nat → Nat) (kp : Nat) (f : Fmt) (i j : Nat) : Nat × Nat :=
  let t := mmaTerms r 0 rd kp i j
  let wide : Terms := { t with fmt := .fp32, passes := 3, a := fun k => (wideA r rd i k).1, b := fun k => (wideB r rd j k).1 }
  ((closeConvert f false false (mmaElement t none).1).1, (closeConvert f false false (mmaElement wide none).1).1)

/-- Does a present operand of the sample lie outside the FP32 range (R102)? DESIGN CHOICE (log 14): a value at a masked row, column or k abandons no
sample. -/
def gaugeSkips (r : TileRec) (rd : Nat → Nat) (kp : Nat) : Bool :=
  let ks := (List.range kp).filter (kPresent r rd)
  ((List.range 64).any fun i => bitAt r.rowMask i && ks.any fun k => (wideA r rd i k).2) ||
    ((List.range 64).any fun j => bitAt r.colMask j && ks.any fun k => (wideB r rd j k).2)

/-- The tile distance and the element where it was first reached (R102). DESIGN CHOICE (log 14): elements are scanned row by row, columns ascending. -/
def tileDist (r : TileRec) (rd : Nat → Nat) (kp : Nat) (f : Fmt) : Nat × Nat × Nat :=
  (presentElems r).foldl (fun acc e =>
    let x := gaugePair r rd kp f e.1 e.2
    let d := gaugeDist f x.1 x.2
    if acc.1 < d then (d, e.1, e.2) else acc) (0, 0, 0)

/-- GAUGE_RECOMPUTE: only while no MMA is eligible for the array (R101, R102, R196). DESIGN CHOICE (log 14): the places in the detail of EV_NUM_GAUGE:
class bit 0, distance 16, row 32, column 40, handle 48, command sequence number 64. -/
def Blk.gaugeRun (b : Blk) (me : Nat) : Blk :=
  let m := b.meOf me
  match m.sample with
  | none => b
  | some x =>
    if m.q.any fun c => c.r.op = opMma && (c.running || eligible m.q c) then b
    else
      let r := x.cmd.r
      let rd := memRead x.mem
      let b := b.modMe me fun m => { m with sample := none }
      if gaugeSkips r rd x.kp then b.modStat me r.cls fun g => { g with skip := satInc 16 g.skip }
      else
        let f := (fmtOfCode (b.cfg.num.cmpFmt.getD r.cls 1)).getD .bf16
        let d := tileDist r rd x.kp f
        let bad := decide (b.cfg.num.gThr.getD r.cls 0 < d.1)
        let b := b.modStat me r.cls fun g => { g with
          samples := satInc 32 g.samples, mismatch := if bad then satInc 32 g.mismatch else g.mismatch, maxdist := max g.maxdist d.1 }
        if bad then b.raise 0x2001 x.cmd.ctx (mePan me)
          (r.cls + d.1 * 2 ^ 16 + d.2.1 * 2 ^ 32 + d.2.2 * 2 ^ 40 + r.handle * 2 ^ 48 + x.cmd.seq * 2 ^ 64)
        else b

/-- GAUGE_RECOMPUTE. -/
def execGaugeRecompute (me : Nat) (s : State) : Host.Outcome State Fault Refusal := .next (s.setB (s.b.gaugeRun me))

/-! ### MMA and CLOSE -/

/-- The layer in progress of a context (R177). -/
def noteLayer (c : Ctx) (a : Nat) : Ctx :=
  match regionAt c a with
  | some r =>
    if r.cls ≤ 1 && r.layer ≠ 0xFF then
      (match c.layer with
        | some l => if l = r.layer then c else { c with layer := some r.layer, dir := if l < r.layer then 1 else -1 }
        | none => { c with layer := some r.layer })
    else c
  | none => c

/-- An eligible MMA whose operands lie on the die enters the array, which reads them until MMA_DONE (R67, R93, R95, R97, R100). -/
def State.mmaStart (s : State) (me : Nat) : State :=
  let m := s.b.meOf me
  let die := me / 8
  if !s.b.works (mePan me) || unitBusy m.q opMma then s
  else match nextCmd m.q opMma fun c => s.b.staged c.ctx die (tileRanges c.r (m.agOf c.ag).mode) with
    | none => s
    | some c =>
      let g := m.agOf c.ag
      let rs := tileRanges c.r g.mode
      match accessAll (s.b.ctx c.ctx) c.who false rs with
      | .fault cause a hub => s.setB (s.b.accessFault c.ctx cause (mePan me) c.seq a hub)
      | _ =>
        let s := if g.mode = 0 then s.gaugeStart me c else s
        let b := s.b.startCmd me c (rangeGrans rs) 0 (copyRanges (s.reader c.ctx) rs)
        let b := b.noteReads c.ctx die (rangeGrans rs)
        let b := if g.mode = 0 then b.modCtx c.ctx fun k => noteLayer k c.r.a1 else b
        s.setB b.spend

/-- MMA. -/
def execMma (me : Nat) (s : State) : Host.Outcome State Fault Refusal := .next (s.mmaStart me)

/-- A byte that an MMA reads: of a line written since it entered the array, the line as it was or as it is (R99). -/
def State.mmaReader (s : State) (c : TileCmd) (a : Nat) : Nat :=
  if Config.lineNew s.b.freeCtr (memKey c.ctx a / 64) then s.reader c.ctx a else memRead c.old a

/-- MMA_DONE: all terms are in the group's totals, the flags are set, and the operands may be overwritten (R67, R78, R97). -/
def State.mmaDone (s : State) (me : Nat) : State :=
  match runningCmd (s.b.meOf me) opMma 0 with
  | none => s
  | some c =>
    let x := mmaInto c.r (s.mmaReader c) ((s.b.meOf me).agOf c.ag)
    let b := (s.b.modAg me c.ag fun _ => x.1).setFlags c.ctx c.who x.2
    (s.setB b.spend).finishCmd me c

/-- MMA_DONE. -/
def execMmaDone (me : Nat) (s : State) : Host.Outcome State Fault Refusal := .next (s.mmaDone me)

/-- The drain lane that is free (R95). -/
def freeLane (q : List TileCmd) : Option Nat :=
  [0, 1].find? fun l => !(q.any fun c => c.r.op = opClose && c.running && c.lane = l)

/-- An eligible CLOSE takes a drain lane: the group drains, its totals are converted and written (R75, R83, R93, R95). -/
def State.closeStart (s : State) (me : Nat) : State :=
  let m := s.b.meOf me
  match freeLane m.q, headCmd m.q opClose with
  | some lane, some c =>
    let g := m.agOf c.ag
    let x := closeRows c.r g
    if !s.b.works (mePan me) then s
    else match accessAll (s.b.ctx c.ctx) c.who true (tileRanges c.r g.mode) with
      | .fault cause a hub => s.setB (s.b.accessFault c.ctx cause (mePan me) c.seq a hub)
      | .wait => s
      | .ok =>
        if !(x.1.all fun y => s.canWrite c.ctx y.1 y.2.length) then x.1.foldl (fun s y => s.cowBlock c.ctx y.1 y.2.length) s
        else
          let b := s.b.startCmd me c [] lane
          let b := b.modAg me c.ag fun g => { g with st := .draining, flushed := g.flushed || x.2.subnFlushed }
          let b := b.setFlags c.ctx c.who x.2
          (s.setB b).hold (.close me lane) c.ctx x.1
  | _, _ => s

/-- CLOSE. -/
def execClose (me : Nat) (s : State) : Host.Outcome State Fault Refusal := .next (s.closeStart me)

/-- A group returns to CLOSED and its handle is unbound; an INIT held on it may bind (R81, R83, R90). -/
def Blk.unbind (b : Blk) (me g : Nat) : Blk :=
  let o := ((b.meOf me).agOf g).owner
  let b := b.modAg me g fun _ => closedAg
  match o with
  | none => b
  | some (ctx, h) => match handleGet (b.ctx ctx) h with
    | none => b
    | some x =>
      if x.held.isEmpty then b.modCtx ctx fun c => { c with handles := c.handles.erase h }
      else (b.modCtx ctx fun c => { c with handles := c.handles.set h { held := x.held } }).tryBind ctx h

/-- CLOSE_DONE: the output is where every reader sees it, the group is CLOSED (R97, R98, R193). -/
def State.closeDone (s : State) (me lane : Nat) : State :=
  match runningCmd (s.b.meOf me) opClose lane with
  | none => s
  | some c =>
    let flushed := ((s.b.meOf me).agOf c.ag).flushed
    let bytes := (s.b.pend.filter fun p => p.who = .close me lane).flatMap (·.bytes)
    let s := s.publish (.close me lane)
    let b := if c.inLearn then s.b.observe s.mem c.ctx (bytes.map fun x => (x.1, x.2.toNat)) flushed else s.b
    let s := (s.setB b).finishCmd me c
    s.setB (s.b.unbind me c.ag)

/-- CLOSE_DONE. -/
def execCloseDone (me lane : Nat) (s : State) : Host.Outcome State Fault Refusal := .next (s.closeDone me lane)

end Sys2Proof.Machine
end

