-- ==== Sys2Proof/Machine/VecOps.lean ====
section
/-! DEFINITION. Vector instructions on registers: fields, decode checks, groups, masks, arithmetic, conversion, reductions, the weight update
(R105 to R122, R188). -/
namespace Sys2Proof.Machine
open Sys2Proof

/-! ### Fields (R109, R110) -/

structure VeIns where
  op : Nat
  fmt : Nat
  vd : Nat
  vs1 : Nat
  vs2 : Nat
  vs3 : Nat
  mask : Nat
  mpol : Bool
  subn : Bool
  ovfm : Bool
  /-- Bits [25:0]. -/
  lo : Nat
  deriving DecidableEq, Repr

def veIns (w : Nat) : VeIns where
  op := bits w 56 8
  fmt := bits w 52 4
  vd := bits w 47 5
  vs1 := bits w 42 5
  vs2 := bits w 37 5
  vs3 := bits w 32 5
  mask := bits w 29 3
  mpol := bitAt w 28
  subn := bitAt w 27
  ovfm := bitAt w 26
  lo := bits w 0 26

def oSetvl : Nat := 0x01
def oLoop : Nat := 0x02
def oEnd : Nat := 0x03
def oAdd : Nat := 0x10
def oMul : Nat := 0x11
def oFma : Nat := 0x12
def oMin : Nat := 0x13
def oMax : Nat := 0x14
def oCmp : Nat := 0x15
def oSel : Nat := 0x16
def oCvt : Nat := 0x20
def oPerm : Nat := 0x21
def oBcast : Nat := 0x22
def oLd : Nat := 0x30
def oSt : Nat := 0x31
def oUpd : Nat := 0x40
def oRsum : Nat := 0x50
def oRsumsq : Nat := 0x51
def oRmax : Nat := 0x52
def oRmin : Nat := 0x53

/-- The per-opcode bits, the register fields (vd, vs1, vs2, vs3), the mask fields, SUBN and OVFM that an opcode uses (R110). -/
structure VeUse where
  lo : Nat
  d : Bool := true
  s1 : Bool := true
  s2 : Bool := false
  s3 : Bool := false
  m : Bool := true
  subn : Bool := false
  ovfm : Bool := false

def veUse (op : Nat) : Option VeUse :=
  if op = oSetvl then some { lo := 0x38007FF, d := false, s1 := false, m := false } -- [25] SRC, [24:23] GROUP, [10:0] AVL
  else if op = oLoop then some { lo := 0xFFFF, d := false, s1 := false, m := false }
  else if op = oEnd then some { lo := 0, d := false, s1 := false, m := false }
  else if op = oAdd then some { lo := 0x1000000, s2 := true, subn := true, ovfm := true }
  else if op = oMul then some { lo := 0x2000000, s2 := true, subn := true, ovfm := true }
  else if op = oFma then some { lo := 0x3000000, s2 := true, s3 := true, subn := true, ovfm := true }
  else if op = oMin ∨ op = oMax then some { lo := 0, s2 := true, subn := true }
  else if op = oCmp then some { lo := 0x3C00000, s2 := true, subn := true }
  else if op = oSel then some { lo := 0x3800000, s2 := true }
  else if op = oCvt then some { lo := 0x3C00000, s3 := true, subn := true, ovfm := true }
  else if op = oPerm then some { lo := 0, s2 := true }
  else if op = oBcast then some { lo := 0x3FF0000 }
  else if op = oLd then some { lo := 0x3FFFFF0, s1 := false }
  else if op = oSt then some { lo := 0x3FFFFF0, d := false }
  else if op = oUpd then some { lo := 0x3FC0000, s2 := true, s3 := true, subn := true, ovfm := true }
  else if op = oRsum ∨ op = oRsumsq then some { lo := 0, subn := true, ovfm := true }
  else if op = oRmax ∨ op = oRmin then some { lo := 0x3E00000, subn := true }
  else none

def sfmtOf (i : VeIns) : Nat := bits i.lo 22 4
def predOf (i : VeIns) : Nat := bits i.lo 23 3
def invOf (i : VeIns) : Bool := bitAt i.lo 22
def smaskOf (i : VeIns) : Nat := bits i.lo 23 3
def idxOf (i : VeIns) : Nat := bits i.lo 16 10
def aregOf (i : VeIns) : Nat := bits i.lo 23 3
def piOf (i : VeIns) : Bool := bitAt i.lo 22
def modeOf (i : VeIns) : Nat := bits i.lo 20 2
def strideOf (i : VeIns) : Int := toSigned 16 (bits i.lo 4 16)
def viOf (i : VeIns) : Nat := bits i.lo 21 5
def rstreamOf (i : VeIns) : Nat := bits i.lo 18 8

/-- Bits of an element of a format code; 8 where the code names none. -/
def codeWidth (c : Nat) : Nat := match fmtOfCode c with | some f => fmtWidth f | none => 8

/-- Bytes of an element that LD and ST move. -/
def codeSize (c : Nat) : Nat := max 1 (codeWidth c / 8)

/-! ### Groups (R105) -/

/-- The smallest power of two of registers that holds `n` elements of `w` bits. -/
def groupSize (n w : Nat) : Nat := ([1, 2, 4, 8, 16].find? fun g => n * w ≤ g * 8192).getD 32

/-- The operand groups of an instruction at a vector length: base, size, destination (R105, R108). -/
def veGroups (i : VeIns) (vl : Nat) : List (Nat × Nat × Bool) :=
  let w := codeWidth i.fmt
  let g := groupSize vl w
  if i.op = oAdd ∨ i.op = oMul ∨ i.op = oMin ∨ i.op = oMax ∨ i.op = oSel then [(i.vd, g, true), (i.vs1, g, false), (i.vs2, g, false)]
  else if i.op = oFma then [(i.vd, g, true), (i.vs1, g, false), (i.vs2, g, false), (i.vs3, g, false)]
  else if i.op = oCmp then [(i.vs1, g, false), (i.vs2, g, false)]
  else if i.op = oCvt then
    [(i.vd, g, true), (i.vs1, groupSize vl (codeWidth (sfmtOf i)), false)] ++
      (if mxCode i.fmt then [(i.vs3, 1, true)] else if mxCode (sfmtOf i) then [(i.vs3, 1, false)] else [])
  else if i.op = oPerm then [(i.vd, g, true), (i.vs1, g, false), (i.vs2, groupSize vl 16, false)]
  else if i.op = oBcast then [(i.vd, g, true), (i.vs1, g, false)]
  else if i.op = oLd then [(i.vd, g, true)]
  else if i.op = oSt then [(i.vs1, g, false)]
  else if i.op = oUpd then
    let h := groupSize vl 16
    [(i.vd, h, true), (i.vs1, h, false), (i.vs2, h, false), (i.vs2, h, true), (i.vs3, groupSize vl 32, false)]
  else if i.op = oRsum ∨ i.op = oRsumsq then [(i.vd, 1, true), (i.vs1, g, false)]
  else if i.op = oRmax ∨ i.op = oRmin then [(i.vd, 1, true), (viOf i, 1, true), (i.vs1, g, false)]
  else []

def overlap (a b : Nat × Nat × Bool) : Bool := decide (a.1 < b.1 + b.2.1 ∧ b.1 < a.1 + a.2.1)

/-- Do the groups obey R105 and R108? -/
def groupsOk (i : VeIns) (vl : Nat) : Bool :=
  let gs := veGroups i vl
  (gs.all fun x => x.1 % x.2.1 = 0 && decide (x.1 + x.2.1 ≤ 32)) &&
    ((gs.filter fun x => x.2.2).all fun d => (gs.filter fun x => !x.2.2).all fun s => !overlap d s || (d.1 = s.1 && d.2.1 = s.2.1)) &&
    (i.op ≠ oPerm || (gs.zipIdx.all fun x => gs.zipIdx.all fun y => x.2 = y.2 || !overlap x.1 y.1)) &&
    ((i.op ≠ oRmax && i.op ≠ oRmin) || viOf i ≠ i.vd) && (i.op ≠ oCmp || decide (1 ≤ i.vd ∧ i.vd ≤ 7))

/-! ### Decode checks (R108) -/

/-- RSV bits and fields that the opcode does not use, and the ranges R110 gives. -/
def veRsvOk (i : VeIns) (u : VeUse) : Bool :=
  (i.lo &&& u.lo = i.lo) && (u.d || i.vd = 0) && (u.s1 || i.vs1 = 0) && (u.s2 || i.vs2 = 0) && (u.s3 || i.vs3 = 0) &&
    (u.m || (i.mask = 0 && !i.mpol)) && (u.subn || !i.subn) && (u.ovfm || !i.ovfm) && (i.op ≠ oSt || !i.mpol) &&
    (i.op ≠ oCvt || mxCode i.fmt || mxCode (sfmtOf i) || i.vs3 = 0) &&
    ((i.op ≠ oLoop && i.op ≠ oEnd) || i.fmt = 0) && (i.op ≠ oLoop || bits i.lo 0 16 ≠ 0) && (i.op ≠ oCmp || predOf i ≠ 7) &&
    ((i.op ≠ oLd && i.op ≠ oSt) || modeOf i ≠ 3) && (i.op ≠ oSt || modeOf i ≠ 2)

/-- Is it a conversion to or from an MX format? -/
def mxCvt (i : VeIns) : Bool := i.op = oCvt && (mxCode i.fmt || mxCode (sfmtOf i))

/-- The rows of R108 before those about addresses. -/
def veCheck (i : VeIns) (vl : Nat) : Option Nat :=
  match veUse i.op with
  | none => some cVeOp
  | some u =>
    if !veRsvOk i u then some cVeRsv
    else if !groupsOk i vl then some cVeReg
    else if mxCvt i && vl % 32 ≠ 0 then some cVeVl
    else if mxCvt i && i.mask ≠ 0 then some cVeMask
    else none

/-- Formats for arithmetic, moves and reductions (R110). -/
def scalarCode (c : Nat) : Bool := decide (c ≤ 4)

/-- The last row of R108, with the reserved codes of R66. -/
def veFmtCheck (i : VeIns) : Option Nat :=
  if i.op = oLoop ∨ i.op = oEnd then none
  else if (fmtOfCode i.fmt).isNone ∨ (i.op = oCvt ∧ (fmtOfCode (sfmtOf i)).isNone) then some cFmtRsv
  else if i.op = oSetvl then none
  else if i.op = oUpd then (if i.fmt = 1 then none else some cFmtRole)
  else if i.op = oCvt then
    (if sfmtOf i = i.fmt || (mxCode i.fmt && mxCode (sfmtOf i)) || (mxCode i.fmt && 2 < sfmtOf i) then some cFmtRole else none)
  else if scalarCode i.fmt then none else some cFmtRole

/-! ### Registers -/

/-- The bits of a register group (R105). -/
def getGroup (v : Tbl Nat) (base g : Nat) : Nat := ((List.range g).map fun k => v.get 0 (base + k) * 2 ^ (8192 * k)).sum

/-- Write a register group. -/
def putGroup (v : Tbl Nat) (base g bs : Nat) : Tbl Nat := (List.range g).foldl (fun v k => v.set (base + k) (bits bs (8192 * k) 8192)) v

/-- Element `i` of `n` elements of `w` bits at a base register. -/
def getElem (v : Tbl Nat) (base w n i : Nat) : Nat := bits (getGroup v base (groupSize n w)) (w * i) w

/-- Replace element `i` in a group's bits. -/
def setBits (bs w i c : Nat) : Nat := bs - bits bs (w * i) w * 2 ^ (w * i) + c % 2 ^ w * 2 ^ (w * i)

/-- Write elements, each by its index. -/
def putElems (v : Tbl Nat) (base w n : Nat) (es : List (Nat × Nat)) : Tbl Nat :=
  if es.isEmpty then v
  else putGroup v base (groupSize n w) (es.foldl (fun bs e => setBits bs w e.1 e.2) (getGroup v base (groupSize n w)))

/-- A mask register; m0 reads as all ones (R104). -/
def maskReg (x : Ve) (m : Nat) : Nat := if m = 0 then 2 ^ 1024 - 1 else x.m.get 0 m

/-- Is element `i` active under a mask field (R106)? Only elements below VL are asked about. -/
def activeEl (x : Ve) (m i : Nat) : Bool := m = 0 || bitAt (x.m.get 0 m) i

/-- The elements an instruction writes: computed where active, zero where masked under MPOL (R106); and the flags. -/
def eachEl (x : Ve) (i : VeIns) (f : Nat → Nat × NumFlags) : List (Nat × Nat) × NumFlags :=
  (List.range x.vl).foldl (fun acc n =>
    if activeEl x i.mask n then
      let r := f n
      (acc.1 ++ [(n, r.1)], orFlags acc.2 r.2)
    else if i.mpol then (acc.1 ++ [(n, 0)], acc.2) else acc) ([], noFlags)

/-- The format an instruction names. -/
def insFmt (i : VeIns) : Fmt := (fmtOfCode i.fmt).getD .fp32

/-- Read element `n` of a source of the instruction's format, under SUBN (R60, R113). -/
def srcVal (x : Ve) (i : VeIns) (r n : Nat) : Val × NumFlags :=
  readFp (insFmt i) i.subn (getElem x.v r (fmtWidth (insFmt i)) x.vl n)

/-- Round an exact result into the format, with the flags of the operation (R63, R113). -/
def rounded (i : VeIns) (o : Op) (fl : NumFlags) : Nat × NumFlags :=
  let r := convertVal (insFmt i) i.subn i.ovfm o.val
  (r.1, orFlags fl (orFlags (flIf o.invalid flValInv) r.2))

/-- Write the elements of an instruction to vd. -/
def toVd (x : Ve) (i : VeIns) (es : List (Nat × Nat) × NumFlags) : Ve × NumFlags :=
  ({ x with v := putElems x.v i.vd (codeWidth i.fmt) x.vl es.1 }, es.2)

/-! ### The instructions -/

/-- SETVL (R111). -/
def vSetvl (x : Ve) (i : VeIns) : Ve × NumFlags :=
  let g := 2 ^ bits i.lo 23 2
  let mx := min 1024 (g * 8192 / codeWidth i.fmt)
  let mx := if mxCode i.fmt then mx - mx % 32 else mx
  let src := bitAt i.lo 25
  let vl := min (if src then x.n else bits i.lo 0 11) mx
  ({ x with vl := vl, n := if src then x.n - vl else x.n }, noFlags)

/-- ADD (R110, R113). -/
def vAdd (x : Ve) (i : VeIns) : Ve × NumFlags :=
  toVd x i (eachEl x i fun n =>
    let a := srcVal x i i.vs1 n
    let b := srcVal x i i.vs2 n
    rounded i (addV a.1 (negV (bitAt i.lo 24) b.1)) (orFlags a.2 b.2))

/-- MUL. -/
def vMul (x : Ve) (i : VeIns) : Ve × NumFlags :=
  toVd x i (eachEl x i fun n =>
    let a := srcVal x i i.vs1 n
    let b := srcVal x i i.vs2 n
    let p := mulV a.1 b.1
    rounded i ⟨negV (bitAt i.lo 25) p.val, p.invalid⟩ (orFlags a.2 b.2))

/-- FMA: one rounding. -/
def vFma (x : Ve) (i : VeIns) : Ve × NumFlags :=
  toVd x i (eachEl x i fun n =>
    let a := srcVal x i i.vs1 n
    let b := srcVal x i i.vs2 n
    let c := srcVal x i i.vs3 n
    let p := mulV a.1 b.1
    let o := addV (negV (bitAt i.lo 25) p.val) (negV (bitAt i.lo 24) c.1)
    rounded i ⟨o.val, p.invalid || o.invalid⟩ (orFlags a.2 (orFlags b.2 c.2)))

/-- MIN and MAX of R56: `lo` for the minimum. -/
def minMaxV (lo : Bool) (a b : Val) : Op :=
  if isNanV a || isNanV b then ⟨.nan false, isSnanV a || isSnanV b⟩
  else if lo then ⟨if ltTotal b a then b else a, false⟩ else ⟨if ltTotal a b then b else a, false⟩

def vMinMax (lo : Bool) (x : Ve) (i : VeIns) : Ve × NumFlags :=
  toVd x i (eachEl x i fun n =>
    let a := srcVal x i i.vs1 n
    let b := srcVal x i i.vs2 n
    let o := minMaxV lo a.1 b.1
    ((convertVal (insFmt i) false true o.val).1, orFlags (flIf o.invalid flValInv) (orFlags a.2 b.2)))

/-- The predicates of R114. -/
def predV (p : Nat) (a b : Val) : Bool :=
  match p with
  | 0 => eqV a b
  | 1 => !eqV a b
  | 2 => ltV a b
  | 3 => ltV a b || eqV a b
  | 4 => ltV b a
  | 5 => ltV b a || eqV a b
  | _ => isNanV a || isNanV b

/-- CMP: bits of a mask register (R106, R114). -/
def vCmp (x : Ve) (i : VeIns) : Ve × NumFlags :=
  let r := (List.range x.vl).foldl (fun (acc : Nat × NumFlags) n =>
    if activeEl x i.mask n then
      let a := srcVal x i i.vs1 n
      let b := srcVal x i i.vs2 n
      let inv := isSnanV a.1 || isSnanV b.1
      (setBits acc.1 1 n (b2n (predV (predOf i) a.1 b.1 != invOf i)), orFlags acc.2 (orFlags (flIf inv flValInv) (orFlags a.2 b.2)))
    else if i.mpol then (setBits acc.1 1 n 0, acc.2) else acc) (x.m.get 0 i.vd, noFlags)
  ({ x with m := x.m.set i.vd r.1 }, r.2)

/-- SEL moves bits (R110, R113). -/
def vSel (x : Ve) (i : VeIns) : Ve × NumFlags :=
  let w := codeWidth i.fmt
  toVd x i (eachEl x i fun n => (getElem x.v (if activeEl x (smaskOf i) n then i.vs1 else i.vs2) w x.vl n, noFlags))

/-- PERM (R116). -/
def vPerm (x : Ve) (i : VeIns) : Ve × NumFlags :=
  let w := codeWidth i.fmt
  toVd x i (eachEl x i fun n =>
    let k := getElem x.v i.vs2 16 x.vl n
    if k < x.vl then (getElem x.v i.vs1 w x.vl k, noFlags) else (0, flPerm))

/-- BCAST (R117). -/
def vBcast (x : Ve) (i : VeIns) : Ve × NumFlags :=
  let w := codeWidth i.fmt
  toVd x i (eachEl x i fun _ => if idxOf i < x.vl then (getElem x.v i.vs1 w x.vl (idxOf i), noFlags) else (0, flPerm))

/-- The blocks of a conversion to MX: scale and elements of each (R64, R115). -/
def mxBlocks (x : Ve) (i : VeIns) : List (Nat × List Nat × NumFlags) :=
  let sf := (fmtOfCode (sfmtOf i)).getD .fp32
  (List.range (x.vl / 32)).map fun b =>
    convertToMx sf (insFmt i) i.subn ((List.range 32).map fun k => getElem x.v i.vs1 (fmtWidth sf) x.vl (32 * b + k))

/-- CVT (R63, R64, R115). Where vd and the scales' register overlap, the spec does not say which is written last: free. -/
def vCvt (x : Ve) (i : VeIns) (free : Nat) : Ve × NumFlags :=
  let sf := (fmtOfCode (sfmtOf i)).getD .fp32
  let f := insFmt i
  if isMx f then
    let bs := mxBlocks x i
    let es := (bs.flatMap fun b => b.2.1).zipIdx.map fun e => (e.2, e.1)
    let sc := bs.zipIdx.map fun e => (e.2, e.1.1)
    let fl := bs.foldl (fun a b => orFlags a b.2.2) noFlags
    let elems := fun v => putElems v i.vd (fmtWidth f) x.vl es
    let scales := fun v => putElems v i.vs3 8 1 sc
    ({ x with v := if free % 2 = 0 then scales (elems x.v) else elems (scales x.v) }, fl)
  else toVd x i (eachEl x i fun n =>
    let c := getElem x.v i.vs1 (fmtWidth sf) x.vl n
    if isMx sf then convertVal f i.subn i.ovfm (mxValue sf (getElem x.v i.vs3 8 1 (n / 32)) c)
    else convertCode sf f i.subn i.ovfm c)

/-! ### The weight update (R119, R188) -/

/-- The BF16 neighbours of a number that is no BF16 value: the largest below and the smallest above, by code. -/
def bf16Below (neg : Bool) (m : Nat) (e : Int) : Nat × Nat :=
  let t := truncBf16 m e
  let near := encodeFp .bf16 neg t.1 t.2
  if neg then (near + 1, near) else (near, near + 1)

/-- The value of a finite code as an exact signed number: sign, magnitude, exponent. -/
def exactOf (f : Fmt) (c : Nat) : Bool × Nat × Int :=
  match decodeFp f c with
  | .fin n m e => (n, m, e)
  | v => (negOf v, 0, 0)

/-- a − b for two exact numbers. -/
def exactSub (a b : Bool × Nat × Int) : Val := (addV (.fin a.1 a.2.1 a.2.2) (.fin (!b.1) b.2.1 b.2.2)).val

/-- ⌊(s − lo) · 65536 / (hi − lo)⌋ (R188). -/
def roundShare (s lo hi : Bool × Nat × Int) : Nat :=
  match exactSub s lo, exactSub hi lo with
  | .fin _ m e, .fin _ n d =>
    let c := min e d
    (m * 2 ^ (e - c).toNat * 65536) / (n * 2 ^ (d - c).toNat)
  | _, _ => 0

/-- The exact sum of three numbers, with the sign rule of R55. -/
def sum3 (a b c : Val) : Val := (addV (addV a b).val c).val

/-- upd of R188: the new weight, the new bittern, the flags. -/
def updElem (w b d u : Nat) (subn ovfm : Bool) : Nat × Nat × NumFlags :=
  let vs := [decodeFp .bf16 w, decodeFp .bf16 b, decodeFp .fp32 d]
  let pair := (vs.any fun v => v = .inf true) && vs.any fun v => v = .inf false
  if vs.any isNanV || pair then (canonicalNan .bf16, canonicalNan .bf16, flIf (vs.any isSnanV || pair) flValInv)
  else
    let x := readFp .bf16 subn w
    let y := readFp .bf16 subn b
    let z := readFp .fp32 subn d
    let fl := orFlags x.2 (orFlags y.2 z.2)
    match vs.find? isInfV with
    | some v => (infCode .bf16 (negOf v), 0, fl)
    | none =>
      let s := exactOf .t64 (convertVal .t64 false true (sum3 x.1 y.1 z.1)).1
      if s.2.1 = 0 then (signBit .bf16 s.1, signBit .bf16 s.1, fl)
      else if overMax .bf16 s.2.1 s.2.2 then (overflowResult .bf16 s.1 ovfm, 0, orFlags fl flValOvf)
      else
        let t := truncBf16 s.2.1 s.2.2
        let w1 := if isZeroV (exactSub s (s.1, t.1, t.2)) then encodeFp .bf16 s.1 t.1 t.2
          else
            let n := bf16Below s.1 s.2.1 s.2.2
            let lo := exactOf .bf16 n.1
            let hi := exactOf .bf16 n.2
            let c := if u < roundShare s lo hi then n.2 else n.1
            if isZeroCode .bf16 c then signBit .bf16 s.1 else c
        let tiny := subn && isSubnormalCode .bf16 w1
        let w1 := if tiny then signBit .bf16 s.1 else w1
        let fl := orFlags fl (flIf tiny flSubn)
        let r := convertVal .bf16 subn false (exactSub s (exactOf .bf16 w1))
        (w1, r.1, orFlags fl r.2)

/-- UPD (R119): where vd and vs2 overlap, the spec does not say which is written last: free. -/
def vUpd (x : Ve) (i : VeIns) (seed step pos free : Nat) : Ve × NumFlags :=
  let one := fun n => updElem (getElem x.v i.vs1 16 x.vl n) (getElem x.v i.vs2 16 x.vl n) (getElem x.v i.vs3 32 x.vl n)
    (draw16 seed step pos (rstreamOf i) ((x.db + n) % 2 ^ 43)) i.subn i.ovfm
  let ws := eachEl x i fun n => ((one n).1, (one n).2.2)
  let bs := eachEl x i fun n => ((one n).2.1, noFlags)
  let putW := fun v => putElems v i.vd 16 x.vl ws.1
  let putB := fun v => putElems v i.vs2 16 x.vl bs.1
  ({ x with v := if free % 2 = 0 then putB (putW x.v) else putW (putB x.v), db := (x.db + x.vl) % 2 ^ 64 }, ws.2)

/-! ### Reductions (R120 to R122) -/

/-- A node of the tree: absent, or a value with the index that the maximum and minimum carry. -/
abbrev Node := Option (Val × Nat)

/-- One level of the tree. -/
def pairUp (f : Node → Node → Node × NumFlags) : List Node → List Node × NumFlags
  | a :: b :: t =>
    let x := f a b
    let r := pairUp f t
    (x.1 :: r.1, orFlags x.2 r.2)
  | t => (t, noFlags)

/-- Ten levels. -/
def tree (f : Node → Node → Node × NumFlags) : Nat → List Node → Node × NumFlags
  | 0, l => (l.head?.join, noFlags)
  | n + 1, l =>
    let x := pairUp f l
    let r := tree f n x.1
    (r.1, orFlags x.2 r.2)

/-- A sum node (R120): exact, then R63 into binary32. -/
def combineSum (i : VeIns) (a b : Node) : Node × NumFlags :=
  match a, b with
  | none, y => (y, noFlags)
  | x, none => (x, noFlags)
  | some x, some y =>
    let o := addV x.1 y.1
    let r := convertVal .fp32 i.subn i.ovfm o.val
    (some (decodeFp .fp32 r.1, 0), orFlags (flIf o.invalid flValInv) r.2)

/-- A maximum or minimum node (R120): equal values keep the lower index. -/
def combineExt (lo : Bool) (a b : Node) : Node × NumFlags :=
  match a, b with
  | none, y => (y, noFlags)
  | x, none => (x, noFlags)
  | some x, some y =>
    if isNanV x.1 then (some x, noFlags)
    else if isNanV y.1 then (some y, noFlags)
    else if (if lo then ltTotal y.1 x.1 else ltTotal x.1 y.1) then (some y, noFlags) else (some x, noFlags)

/-- The leaves of a reduction (R120). -/
def leaves (x : Ve) (i : VeIns) : List Node × NumFlags :=
  (List.range 1024).foldl (fun acc n =>
    if n < x.vl && activeEl x i.mask n then
      let v := srcVal x i i.vs1 n
      if i.op = oRsumsq then
        let o := mulV v.1 v.1
        let r := convertVal .fp32 i.subn i.ovfm o.val
        (acc.1 ++ [some (decodeFp .fp32 r.1, n)], orFlags acc.2 (orFlags v.2 (orFlags (flIf o.invalid flValInv) r.2)))
      else (acc.1 ++ [some (if isNanV v.1 then .nan false else v.1, n)], orFlags acc.2 (orFlags v.2 (flIf (isSnanV v.1) flValInv)))
    else (acc.1 ++ [none], acc.2)) ([], noFlags)

/-- RSUM and RSUMSQ: the FP32 result goes to bits [31:0] of vd (R121). -/
def vSum (x : Ve) (i : VeIns) : Ve × NumFlags :=
  let l := leaves x i
  let r := tree (combineSum i) 10 l.1
  let c := match r.1 with | some v => (convertVal .fp32 false true v.1).1 | none => 0
  ({ x with v := putElems x.v i.vd 32 1 [(0, c)] }, orFlags l.2 r.2)

/-- RMAX and RMIN (R121, R122): the value to element 0 of vd, the winner's index to bits [31:0] of vi. -/
def vExt (lo : Bool) (x : Ve) (i : VeIns) : Ve × NumFlags :=
  let l := leaves x i
  let r := tree (combineExt lo) 10 l.1
  let f := insFmt i
  let c := match r.1 with
    | some v => ((convertVal f false true v.1).1, v.2)
    | none => (if hasInf f then infCode f (!lo) else signBit f (!lo) + maxFiniteCode f, 0xFFFFFFFF)
  ({ x with v := putElems (putElems x.v i.vd (fmtWidth f) 1 [(0, c.1)]) (viOf i) 32 1 [(0, c.2)] }, orFlags l.2 r.2)

end Sys2Proof.Machine
end

