-- ==== Sys2Proof/Machine/Vector.lean ====
section
/-! DEFINITION. Launches and streams of the vector engines, and the vector instructions (06; R133, R173). -/
namespace Sys2Proof.Machine
open Sys2Proof

/-! ### Launches (R107, R133, R173) -/

/-- The queued streams of an engine: the running one and the waiting ones (R173). -/
def veLoad (v : Ve) : Nat := v.q.length + b2n v.next.isSome + b2n v.run.isSome

/-- May it hold one stream more (R107)? -/
def veRoom (v : Ve) : Bool := decide (v.q.length + b2n v.next.isSome < 8)

/-- Bytes of the granules of a launch's addresses for which a die holds a copy (R173). -/
def Blk.launchScore (b : Blk) (ctx die : Nat) (l : LaunchRec) : Nat :=
  let gs := ((l.addr :: l.a.filter (· ≠ 0)).map fun a => a / granBytes).eraseDups
  granBytes * (gs.filter fun g => match b.gran ctx g with | some x => holdsCopy x die | none => false).length

/-- The least element of a list by a key; the first of equals. -/
def argMin (key : Nat → Nat) : List Nat → Option Nat
  | [] => none
  | x :: xs => some (xs.foldl (fun m y => if key y < key m then y else m) x)

/-- The engine that a launch goes to (R173). -/
def Blk.launchVe (b : Blk) (ctx : Nat) (l : LaunchRec) : Option Nat :=
  let cands := (List.range 16).filter fun v => (l.die = 15 || l.die = v / 4) && (l.ve = 15 || l.ve = v % 4)
  let live := cands.filter fun v => b.works (vePan v)
  let live := if live.isEmpty then cands else live
  let dies := (live.map (· / 4)).eraseDups
  let onDie := fun d => ((List.range 4).map fun i => veLoad (b.veOf (4 * d + i))).sum
  let best := (dies.map fun d => b.launchScore ctx d l).foldl max 0
  match argMin onDie (dies.filter fun d => b.launchScore ctx d l = best) with
  | none => none
  | some d => argMin (fun v => veLoad (b.veOf v)) (live.filter fun v => v / 4 = d)

/-- QLAUNCH. -/
def State.qlaunch (s : State) (core rd rs1 pc : Nat) (n : Nat) : State :=
  match s.b.mayIssue core with
  | none => s
  | some p =>
    if !recordAddrOk rs1 then s.setB (s.b.rkFault core cRkLocal pc)
    else
      let c := s.b.ctx p.ctx
      let l := launchRec n
      let bad := launchCheck n
      let ve := (s.b.launchVe p.ctx l).getD 0
      if 4096 ≤ c.open_.length || (bad.isNone && !veRoom (s.b.veOf ve)) then s
      else
        let x := s.accept core rd pc p
        match bad with
        | some cause => x.1.setB (x.1.b.ctxFault p.ctx cause hubPan x.2 false 0 0)
        | none =>
          let st : Stream := { ctx := p.ctx, seq := x.2, who := progIssuer core p, addr := l.addr, n := l.n, db := l.db, a := l.a }
          let b := x.1.b.modVe ve fun v => { v with q := v.q ++ [st] }
          x.1.setB (b.request (.streams ve) { cls := c.qos, ctx := p.ctx, cost := 1, what := .stream p.ctx x.2 })

/-- QLAUNCH (R132). -/
def execQlaunch (core rd rs1 pc : Nat) (s : State) : Host.Outcome State Fault Refusal :=
  .next (s.qlaunch core rd rs1 pc (s.b.rkNat core rs1 128))

/-- The arbiter of an engine's stream queue grants a stream: it is the next to run (R107, R238). -/
def Blk.grantStream (b : Blk) (ve ctx seq : Nat) : Blk :=
  b.modVe ve fun v => match v.q.find? fun x => x.ctx = ctx && x.seq = seq with
    | some x => { v with next := some x, q := v.q.filter fun y => y.ctx ≠ ctx || y.seq ≠ seq }
    | none => v

/-- STREAM_START: registers, masks and VL are cleared; a0–a7, N and DB come from the launch record (R104). -/
def Blk.streamStart (b : Blk) (ve : Nat) : Blk :=
  let v := b.veOf ve
  match v.run, v.next with
  | none, some x =>
    if b.works (vePan ve) then
      b.modVe ve fun v => { a := x.a.zipIdx.map fun p => (p.2, p.1), n := x.n, db := x.db, run := some x, q := v.q }
    else b
  | _, _ => b

/-- STREAM_START (R104). -/
def execStreamStart (ve : Nat) (s : State) : Host.Outcome State Fault Refusal := .next (s.setB (s.b.streamStart ve))

/-- STREAM_COMPLETE: END has issued and every ST is placed where every reader sees it (R107). -/
def State.streamComplete (s : State) (ve : Nat) : State :=
  match (s.b.veOf ve).run with
  | some x =>
    if x.ended then
      let s := s.publish (.ve ve)
      (s.setB (s.b.modVe ve fun v => { v with run := none })).complete x.ctx x.seq
    else s
  | none => s

/-- STREAM_COMPLETE (R107). -/
def execStreamComplete (ve : Nat) (s : State) : Host.Outcome State Fault Refusal := .next (s.streamComplete ve)

/-! ### Instructions of a stream (R107, R108) -/

/-- An instruction is rejected: the stream stops there, what issued before it keeps its effects, and the context is faulted with the instruction's offset. -/
def State.veFault (s : State) (ve : Nat) (x : Stream) (cause addr : Nat) (hub : Bool) : State :=
  let s := s.publish (.ve ve)
  s.setB (s.b.ctxFault x.ctx cause (if hub then hubPan else vePan ve) x.seq false addr (x.off % 2 ^ 64))

/-- The stream moves on by a number of bytes. -/
def Blk.advance (b : Blk) (ve : Nat) (d : Int) : Blk :=
  b.modVe ve fun v => { v with run := v.run.map fun x => { x with off := (((x.off : Int) + d) % 2 ^ 64).toNat } }

/-- Fetch the next instruction of a stream, and run `f` on it if it is a good one of opcode `op`. A word of no opcode, and an instruction that breaks an earlier
row of R108, faults whatever opcode is asked for; a good instruction of another opcode is left for its own command. -/
def State.veStep (s : State) (ve op : Nat) (f : State → Stream → VeIns → State) : State :=
  match (s.b.veOf ve).run with
  | none => s
  | some x =>
    let pc := (x.addr + x.off) % 2 ^ 64
    if x.ended || !s.b.works (vePan ve) then s
    else match access (s.b.ctx x.ctx) x.who false pc 8 with
      | .fault cause a hub => s.veFault ve x cause a hub
      | _ =>
        if !s.b.staged x.ctx (ve / 4) [(pc, 8)] then s
        else
          let i := veIns (s.viewNat none x.ctx pc 8)
          if (veUse i.op).isSome && i.op ≠ op then s
          else
            let s := s.setB (s.b.noteRead x.ctx (pc / granBytes) (ve / 4)).spend
            match veCheck i (s.b.veOf ve).vl with
            | some cause => s.veFault ve x cause 0 false
            | none => f s x i

/-- An instruction on registers: its format is checked, it takes effect, its flags are set, the stream moves on. -/
def State.veReg (s : State) (ve op : Nat) (f : Blk → Stream → Ve → VeIns → Ve × NumFlags) : State :=
  s.veStep ve op fun s x i =>
    match veFmtCheck i with
    | some cause => s.veFault ve x cause 0 false
    | none =>
      let r := f s.b x (s.b.veOf ve) i
      let b := s.b.modVe ve fun _ => r.1
      s.setB ((b.setFlags x.ctx x.who r.2).advance ve 8)

/-- SETVL (R111). -/
def execSetvl (ve : Nat) (s : State) : Host.Outcome State Fault Refusal := .next (s.veReg ve oSetvl fun _ _ v i => vSetvl v i)

/-- LOOP: back while N is not 0 (R110, R112). -/
def execLoop (ve : Nat) (s : State) : Host.Outcome State Fault Refusal :=
  .next (s.veStep ve oLoop fun s _ i =>
    s.setB (s.b.advance ve (if 0 < (s.b.veOf ve).n then -8 * (bits i.lo 0 16 : Int) else 8)))

/-- END ends the stream (R107, R110). -/
def execEnd (ve : Nat) (s : State) : Host.Outcome State Fault Refusal :=
  .next (s.veStep ve oEnd fun s _ _ => s.setB (s.b.modVe ve fun v => { v with run := v.run.map fun x => { x with ended := true } }))

/-- ADD (R113). -/
def execAdd (ve : Nat) (s : State) : Host.Outcome State Fault Refusal := .next (s.veReg ve oAdd fun _ _ v i => vAdd v i)
/-- MUL (R113). -/
def execMul (ve : Nat) (s : State) : Host.Outcome State Fault Refusal := .next (s.veReg ve oMul fun _ _ v i => vMul v i)
/-- FMA (R113). -/
def execFma (ve : Nat) (s : State) : Host.Outcome State Fault Refusal := .next (s.veReg ve oFma fun _ _ v i => vFma v i)
/-- MIN (R56, R113). -/
def execMin (ve : Nat) (s : State) : Host.Outcome State Fault Refusal := .next (s.veReg ve oMin fun _ _ v i => vMinMax true v i)
/-- MAX (R56, R113). -/
def execMax (ve : Nat) (s : State) : Host.Outcome State Fault Refusal := .next (s.veReg ve oMax fun _ _ v i => vMinMax false v i)
/-- CMP (R114). -/
def execCmp (ve : Nat) (s : State) : Host.Outcome State Fault Refusal := .next (s.veReg ve oCmp fun _ _ v i => vCmp v i)
/-- SEL (R113). -/
def execSel (ve : Nat) (s : State) : Host.Outcome State Fault Refusal := .next (s.veReg ve oSel fun _ _ v i => vSel v i)
/-- CVT (R115). -/
def execCvt (ve : Nat) (s : State) : Host.Outcome State Fault Refusal :=
  .next (s.veReg ve oCvt fun b _ v i => vCvt v i (Config.freeNat b.freeCtr))
/-- PERM (R116). -/
def execPerm (ve : Nat) (s : State) : Host.Outcome State Fault Refusal := .next (s.veReg ve oPerm fun _ _ v i => vPerm v i)
/-- BCAST (R117). -/
def execBcast (ve : Nat) (s : State) : Host.Outcome State Fault Refusal := .next (s.veReg ve oBcast fun _ _ v i => vBcast v i)
/-- RSUM (R120, R121). -/
def execRsum (ve : Nat) (s : State) : Host.Outcome State Fault Refusal := .next (s.veReg ve oRsum fun _ _ v i => vSum v i)
/-- RSUMSQ (R120, R121). -/
def execRsumsq (ve : Nat) (s : State) : Host.Outcome State Fault Refusal := .next (s.veReg ve oRsumsq fun _ _ v i => vSum v i)
/-- RMAX (R120 to R122). -/
def execRmax (ve : Nat) (s : State) : Host.Outcome State Fault Refusal := .next (s.veReg ve oRmax fun _ _ v i => vExt false v i)
/-- RMIN (R120 to R122). -/
def execRmin (ve : Nat) (s : State) : Host.Outcome State Fault Refusal := .next (s.veReg ve oRmin fun _ _ v i => vExt true v i)

/-- The step and data position of the last block drawn from a stream (R319). -/
def noteDraw (c : Ctx) (r : Nat) : Ctx := { c with draws := c.draws.set r (c.step, c.pos) }

/-- UPD (R119, R188 to R191). -/
def execUpd (ve : Nat) (s : State) : Host.Outcome State Fault Refusal :=
  .next (s.veStep ve oUpd fun s x i =>
    match veFmtCheck i with
    | some cause => s.veFault ve x cause 0 false
    | none =>
      let v := s.b.veOf ve
      let c := s.b.ctx x.ctx
      let r := vUpd v i c.rec_.seed c.step c.pos (Config.freeNat s.b.freeCtr)
      let b := s.b.modVe ve fun _ => r.1
      let b := if (List.range v.vl).any (activeEl v i.mask) then b.modCtx x.ctx fun c => noteDraw c (rstreamOf i) else b
      s.setB ((b.setFlags x.ctx x.who r.2).advance ve 8))

/-! ### LD and ST (R118) -/

/-- The factor s of an address step, in elements. -/
def stepOf (i : VeIns) : Int := if modeOf i = 0 then 1 else if modeOf i = 1 then strideOf i else 0

/-- The address of element `n`. -/
def elemAddr (v : Ve) (i : VeIns) (n : Nat) : Nat :=
  (((v.a.get 0 (aregOf i) : Int) + n * stepOf i * (codeSize i.fmt : Nat)) % 2 ^ 64).toNat

/-- The elements below VL whose addresses are checked: one in broadcast. -/
def addrElems (v : Ve) (i : VeIns) : List Nat := if modeOf i = 2 then List.range (min v.vl 1) else List.range v.vl

/-- The active elements. -/
def activeEls (v : Ve) (i : VeIns) : List Nat := (List.range v.vl).filter (activeEl v i.mask)

/-- The address after the instruction, where PI is 1. -/
def postInc (v : Ve) (i : VeIns) : Ve :=
  if !piOf i then v
  else
    let d : Int := if modeOf i = 2 then (codeSize i.fmt : Nat) else v.vl * stepOf i * (codeSize i.fmt : Nat)
    { v with a := v.a.set (aregOf i) ((((v.a.get 0 (aregOf i) : Int) + d) % 2 ^ 64).toNat) }

/-- The checks of R108 on addresses and formats, and those of R216 to R219 on the active elements. -/
def veMemCheck (c : Ctx) (x : Stream) (v : Ve) (i : VeIns) (write : Bool) : Access :=
  let sz := codeSize i.fmt
  let out := (addrElems v i).find? fun n => !covered c (elemAddr v i n) sz
  if v.a.get 0 (aregOf i) % sz ≠ 0 then .fault cVeAlign (v.a.get 0 (aregOf i)) false
  else match out with
    | some n => .fault cAddrRange (elemAddr v i n) false
    | none => match veFmtCheck i with
      | some cause => .fault cause 0 false
      | none => accessAll c x.who write ((activeEls v i).map fun n => (elemAddr v i n, sz))

/-- LD (R118, R163): it waits while a granule has no copy on the die. -/
def State.veLd (s : State) (ve : Nat) : State :=
  s.veStep ve oLd fun s x i =>
    let v := s.b.veOf ve
    let sz := codeSize i.fmt
    match veMemCheck (s.b.ctx x.ctx) x v i false with
    | .fault cause a hub => s.veFault ve x cause a hub
    | _ =>
      let rs := (activeEls v i).map fun n => (elemAddr v i n, sz)
      if !s.b.staged x.ctx (ve / 4) rs then s
      else
        let es := eachEl v i fun n => (s.viewNat (some (.ve ve)) x.ctx (elemAddr v i n) sz, noFlags)
        let v := { v with v := putElems v.v i.vd (8 * sz) v.vl es.1 }
        let b := s.b.noteReads x.ctx (ve / 4) (rangeGrans rs)
        let b := b.modVe ve fun _ => postInc v i
        s.setB (b.spend.advance ve 8)

/-- LD (R118). -/
def execLd (ve : Nat) (s : State) : Host.Outcome State Fault Refusal := .next (s.veLd ve)

/-- May the die's copy of a granule be written: a working copy, or a staged copy that may become one (R163, R165)? -/
def Blk.stReady (b : Blk) (ctx die g : Nat) : Bool :=
  b.writable ctx g && match b.gran ctx g with
    | some y => y.work = some die || (y.work.isNone && y.staged.contains die && decide (b.workCount die < 480))
    | none => false

/-- Would the die's staged copy of a granule become its working copy, were the die not to hold 480 already (R165)? -/
def Blk.promotionFull (b : Blk) (ctx die g : Nat) : Bool :=
  b.writable ctx g && match b.gran ctx g with
    | some y => y.work.isNone && y.staged.contains die && decide (480 ≤ b.workCount die)
    | none => false

/-- A promotion that finds 480 working copies on its die has one of them written back, and waits (R165). -/
def Blk.awaitPromotion (b : Blk) (ctx die g : Nat) : Blk :=
  if b.promotionFull ctx die g then (b.makeRoom (.work die)).waitMig ctx g (.work die) .sram else b

/-- A staged copy becomes the working copy (R163, R170): GEN rises and the promotion counts as a move. -/
def Blk.promote (b : Blk) (ctx die g : Nat) : Blk :=
  match b.gran ctx g with
  | some y =>
    if y.work.isNone && y.staged.contains die then
      (b.setGran ctx g (bumpGen { y with work := some die, staged := [], lastUse := y.lastUse.set die b.now })).modSlu fun u => { u with moves := satInc 32 u.moves }
    else b
  | none => b

/-- ST (R118, R163): the die's own copy is written, once it is the working copy. -/
def State.veSt (s : State) (ve : Nat) : State :=
  s.veStep ve oSt fun s x i =>
    let v := s.b.veOf ve
    let sz := codeSize i.fmt
    match veMemCheck (s.b.ctx x.ctx) x v i true with
    | .fault cause a hub => s.veFault ve x cause a hub
    | .wait => s
    | .ok =>
      let els := activeEls v i
      let cs := els.map fun n => (elemAddr v i n, leBytes sz (getElem v.v i.vs1 (8 * sz) v.vl n))
      let gs := rangeGrans (cs.map fun c => (c.1, sz))
      if !(gs.all (s.b.stReady x.ctx (ve / 4)) && cs.all fun c => s.canWrite x.ctx c.1 sz) then
        cs.foldl (fun s c => s.cowBlock x.ctx c.1 sz) (s.setB (gs.foldl (fun b g => b.awaitPromotion x.ctx (ve / 4) g) s.b))
      else
        let b := gs.foldl (fun b g => b.promote x.ctx (ve / 4) g) s.b
        let b := b.observe s.mem x.ctx (cs.flatMap fun c => cellsAt c.1 c.2) false
        let b := b.modVe ve fun _ => postInc v i
        (if cs.isEmpty then s.setB (b.advance ve 8) else (s.setB (b.advance ve 8)).hold (.ve ve) x.ctx cs sz)

/-- ST (R118). -/
def execSt (ve : Nat) (s : State) : Host.Outcome State Fault Refusal := .next (s.veSt ve)

end Sys2Proof.Machine
end

