-- ==== Sys2Proof/Machine/Arbiter.lean ====
section
/-! DEFINITION. The arbiters of shared resources, and what serving a request does (R178, R237 to R243). -/
namespace Sys2Proof.Machine
open Sys2Proof

/-! ### Event records on their way (R241, R243) -/

/-- The 64 bytes of an event record (R241). -/
def recBytes (r : EventRec) : List Nat :=
  leBytes 2 r.code ++ [r.sev % 256, b2n (r.mergeCount ≠ 0) + 2 * b2n r.test + 4 * b2n r.gap + 8 * (r.rsv % 32)] ++ leBytes 2 r.ctx ++ leBytes 2 r.mergeCount ++
    leBytes 4 r.pan ++ leBytes 4 r.seq ++ leBytes 8 r.tide ++ leBytes 4 r.phase ++ leBytes 4 r.step ++ leBytes 32 r.detail

/-- The event record that 64 bytes hold (R241). -/
def recAt (l : List Nat) : EventRec :=
  let f := fieldAt l 3 1
  { code := fieldAt l 0 2, sev := fieldAt l 2 1, test := bitAt f 1, gap := bitAt f 2, rsv := f / 8, ctx := fieldAt l 4 2, mergeCount := fieldAt l 6 2, pan := fieldAt l 8 4,
    seq := fieldAt l 0xC 4, tide := fieldAt l 0x10 8, phase := fieldAt l 0x18 4, step := fieldAt l 0x1C 4, detail := fieldAt l 0x20 32 }

/-- The bucket whose sink a waiting record goes to: the module's once the context is gone. -/
def Blk.servKey (b : Blk) (key : Nat) : Nat := if key = moduleCtx || ctxLives (b.ctx key).st then key else moduleCtx

/-- The event path serves a record: it takes its sink's next EVENT_SEQ, is mirrored, and leaves as one EVENT message (R241, R243). -/
def Blk.serveEvent (b : Blk) (key : Nat) (r : EventRec) : Blk :=
  let sink := b.sinkOf (b.servKey key)
  let n := b.evSeq.get 0 sink
  let r := { r with seq := n }
  let b := { b with evSeq := b.evSeq.set sink ((n + 1) % 2 ^ 32) }
  let b := b.mirror r
  b.issue sink { typ := tEvent, ctx := if r.ctx = moduleCtx then 0 else r.ctx, msgId := 0, psn := 0, count := 0, len := 64, data := recBytes r, use_ := .event }

/-! ### Memory operations in flight (R178) -/

/-- The places reserved for traffic of the lane, and those of contexts and of the moves and staging made for them (R178). -/
def opsReserved : Nat := 4096
def opsForCtx : Nat := 28672

/-- The memory operation that a request stands for. -/
def opOf (r : Req) : MemOp := { cls := r.cls, ctx := r.ctx, lane := r.lane, mc := r.mc }

/-- An operation takes a place, reserved or of its class, from its issue (R178, R184). -/
def takePlace (s : Sluice) (r : Req) : Sluice :=
  let t := { s with flight := s.flight ++ [opOf r] }
  { t with opsPeak := max s.opsPeak t.opsNow }

/-- Once its memory controller has served it, its data is placed or delivered, and it gives the place back (R178; DEDUCED, log 11). -/
def freePlace (s : Sluice) (r : Req) : Sluice := { s with flight := s.flight.erase (opOf r) }

/-- Is a request that comes to an arbiter one that it serves: an operation costs one place, and moves 64 to 512 bytes through a controller (R178, R238)? -/
def arrivesAt (a : ArbId) (r : Req) : Bool :=
  decide (r.cls < 8 ∧ r.lane ≤ 5) && r.what = .transfer &&
  match a with
  | .opPlaces => decide (r.cost = 1) && isMc r.mc
  | .mc p => decide (1 ≤ r.cost ∧ r.cost ≤ 8 ∧ r.mc = p)
  | _ => true

/-! ### The grant (R239) -/

/-- Can a waiting request be served now? -/
def Blk.servable (b : Blk) (a : ArbId) (r : Req) : Bool :=
  match r.what, a with
  | .event _, _ => b.streamUp (b.sinkOf (b.servKey r.ctx))
  | .initCmd c q, .inits me => b.initServable me c q
  | .stream _ _, .streams ve => (b.veOf ve).next.isNone
  | .slot n, _ => b.slotFree && b.slu.stalls.any fun x => x.n = n
  | .coll _ _ _, _ => false
  | .transfer, .opPlaces => if r.lane = 0 then decide (b.slu.opsCtx < opsForCtx) else decide (b.slu.opsRsv < opsReserved)
  | _, _ => true

/-- Severity of a waiting record, 0 for anything else. -/
def reqSev (r : Req) : Nat := match r.what with | .event e => e.sev | _ => 0

/-- The migration a waiting request for a slot asks for. -/
def Blk.slotKind (b : Blk) (r : Req) : Option MigKind :=
  match r.what with
  | .slot n => (b.slu.stalls.find? fun x => x.n = n).map (·.kind)
  | _ => none

/-- Does a request for a slot stand behind another: a prefetch behind its context's demand staging (R177)? -/
def Blk.slotBehind (b : Blk) (rs : List Req) (r : Req) : Bool :=
  (match b.slotKind r with
    | some (.stage _ true) => true
    | _ => false) &&
  rs.any fun x => x.ctx = r.ctx && (match b.slotKind x with
    | some (.stage _ false) => true
    | _ => false)

/-- The requests that may be granted: on the event path records of severity 3 and 4 before any other (R243); at the operation places a class that
holds fewer than its MIN_OPS first, so that what it lends comes back to it (R178); at the slots demand staging before its context's prefetch (R177). -/
def Blk.candidates (b : Blk) (a : ArbId) (rs : List Req) : List Req :=
  let rs := rs.filter (b.servable a)
  match a with
  | .eventPath => if rs.any fun r => 3 ≤ reqSev r then rs.filter fun r => 3 ≤ reqSev r else rs
  | .opPlaces =>
    let low := rs.filter fun r => r.lane ≠ 0 || decide (b.slu.opsQ r.cls < b.cfg.slu.minOps.getD r.cls 0)
    if low.isEmpty then rs else low
  | .migrSlots => rs.filter fun r => !b.slotBehind rs r
  | _ => rs

/-- The first lane request in lane order (R240). -/
def firstLane (rs : List Req) : Option Req :=
  rs.foldl (fun o r => if r.lane = 0 then o else match o with
    | some x => if r.lane < x.lane then some r else o
    | none => some r) none

/-- The waiting class with the least s; a tie goes to the higher one (R239). -/
def leastClass (s : Tbl Nat) (qs : List Nat) : Option Nat :=
  qs.foldl (fun o q => match o with
    | some x => if s.get 0 q ≤ s.get 0 x then some q else o
    | none => some q) none

/-- The next request of a class: round robin over its contexts, ascending from the last one served (R239). -/
def nextOf (rs : List Req) (q : Nat) (last : Option Nat) : Option Req :=
  let l := rs.filter fun r => r.lane = 0 && r.cls = q
  let least := fun (l : List Req) => l.foldl (fun (o : Option Req) r => match o with
    | some x => if r.ctx < x.ctx then some r else o
    | none => some r) none
  match last with
  | none => least l
  | some c => (least (l.filter fun r => c < r.ctx)) <|> least l

/-- The units that a grant counts; the lane's share begins anew after each 4,096 (R239). -/
def countUnits (x : Arb) (cost : Nat) : Arb :=
  let u := x.units + cost
  if 4096 ≤ u then { x with units := u - 4096, rsvUsed := 0 } else { x with units := u }

/-- Each class that has just become backlogged begins at max(f, v), whether or not one of its requests may be granted now (R239). -/
def newlyBacklogged (x : Arb) : Tbl Nat :=
  (waitClasses x.waiting).foldl (fun s q => if x.backlog.contains q then s else s.set q (max (x.f.get 0 q) x.v)) x.s

/-- The grant of R239 over the requests `rs` that may be granted: the request served, if any, and the arbiter's new figures. A grant to the lane leaves the classes'
figures as they are. -/
def arbGrant (hasLane : Bool) (weight : List Nat) (x : Arb) (rs : List Req) : Option Req × Arb :=
  let lane := firstLane rs
  let qs := waitClasses rs
  let s := newlyBacklogged x
  let take := fun (r : Req) (x : Arb) => (some r, countUnits { x with waiting := x.waiting.erase r } r.cost)
  if hasLane && lane.isSome && decide (x.rsvUsed < 256) then
    match lane with
    | some r => take r { x with rsvUsed := x.rsvUsed + r.cost }
    | none => (none, x)
  else match (leastClass s qs).bind fun q => (nextOf rs q (x.last.find q)).map fun r => (q, r) with
    | some (q, r) =>
      let f := s.get 0 q + r.cost * 65536 / max 1 (weight.getD q 1)
      take r { x with f := x.f.set q f, v := s.get 0 q, s := s.set q f, last := x.last.set q r.ctx, backlog := waitClasses (x.waiting.erase r) }
    | none => match lane with
      | some r => take r x
      | none => (none, x)

/-- Serving a request (R87, R107, R170, R178, R243). -/
def Blk.serve (b : Blk) (a : ArbId) (r : Req) : Blk :=
  match r.what, a with
  | .event e, _ => b.serveEvent r.ctx e
  | .initCmd c q, .inits me => b.grantInit me c q
  | .stream c q, .streams ve => b.grantStream ve c q
  | .slot n, _ => match b.slu.stalls.find? fun x => x.n = n with
    | some x => b.resume x true
    | none => b
  | .transfer, .opPlaces => b.modSlu fun s => takePlace s r
  | .transfer, .mc _ => b.modSlu fun s => freePlace s r
  | _, _ => b

/-- ARBITER_GRANT: transfers that have come join the waiting requests; one request is granted (R239). -/
def Blk.arbiterGrant (b : Blk) (a : ArbId) (arrivals : List Req) : Blk :=
  let new := arrivals.filter (arrivesAt a)
  let b := b.modArb a fun x => { x with waiting := x.waiting ++ new }
  let x := b.arbOf a
  let g := arbGrant a.hasLane b.cfg.qos.weight x (b.candidates a x.waiting)
  let b := b.modArb a fun _ => g.2
  match g.1 with
  | some r => b.serve a r
  | none => b

/-- ARBITER_GRANT (R239). -/
def execArbiterGrant (arb : ArbId) (transfers : List Req) (s : State) : Host.Outcome State Fault Refusal :=
  .next (s.setB (s.b.arbiterGrant arb transfers))

end Sys2Proof.Machine
end

