-- ==== Sys2Proof/Machine/Zstd.lean ====
section
/-! DEFINITION. Zstandard frames without dictionaries (RFC 8878), as R202 stores them and R209 decompresses them: bytes to bytes, or none where a frame is
malformed. -/
namespace Sys2Proof.Machine
open Sys2Proof

/-! ### Backward bit streams -/

/-- A bit stream read from its end: the number its bytes spell and how many bits are left; below the first bit it reads zeros. -/
structure BackBits where
  n : Nat
  left : Int
  deriving DecidableEq, Repr

/-- The stream that bytes hold: a 1 above its last bit ends it. -/
def backBits (l : List Nat) : Option BackBits :=
  if l.getLastD 0 = 0 then none else let n := ofLeBytes l; some { n := n, left := (Nat.log2 n : Nat) }

/-- Take `w` bits off the end. -/
def BackBits.take (s : BackBits) (w : Nat) : Nat × BackBits :=
  let lo := s.left - w
  ((if lo < 0 then (s.n * 2 ^ lo.natAbs) % 2 ^ w else bits s.n lo.toNat w), { s with left := lo })

/-! ### Finite-state entropy tables -/

/-- An entry of a decoding table: symbol, bits to read, base of the next state. -/
structure FseEnt where
  sym : Nat
  nb : Nat
  base : Nat
  deriving DecidableEq, Repr

/-- A decoding table and its accuracy log. -/
structure Fse where
  al : Nat
  ents : List FseEnt
  deriving DecidableEq, Repr

/-- Zero counts that a repeat code adds. -/
def fseZeros (n : Nat) : Nat → Nat → Nat → Nat × Nat
  | 0, pos, k => (pos, k)
  | fuel + 1, pos, k =>
    let r := bits n pos 2
    if r = 3 then fseZeros n fuel (pos + 2) (k + 3) else (pos + 2, k + r)

/-- The normalised counts of a table description: the bits from `pos` on, points still to give out. -/
def fseCounts (n : Nat) : Nat → Nat → Nat → List Int → Option (List Int × Nat)
  | 0, _, _, _ => none
  | fuel + 1, pos, left, acc =>
    if left = 0 then some (acc, pos)
    else if 255 < acc.length then none
    else
      let w := Nat.log2 (left + 1) + 1
      let v := bits n pos w
      let low := v % 2 ^ (w - 1)
      let thr := 2 ^ w - 1 - (left + 1)
      let short := decide (low < thr)
      let v := if short then low else if 2 ^ (w - 1) ≤ v then v - thr else v
      let p : Int := (v : Int) - 1
      let pos := pos + (if short then w - 1 else w)
      if left < p.natAbs then none
      else if p = 0 then
        let z := fseZeros n 128 pos 0
        fseCounts n fuel z.1 left (acc ++ List.replicate (z.2 + 1) 0)
      else fseCounts n fuel pos (left - p.natAbs) (acc ++ [p])

/-- Symbols by state: those of count −1 from the top down, the others along the step (RFC 8878 4.1.1). -/
def fseSpread (al : Nat) (cs : List Int) : Tbl Nat :=
  let size := 2 ^ al
  let rare := ((List.range cs.length).filter fun s => cs.getD s 0 = -1)
  let hi := size - rare.length
  let step := size / 2 + size / 8 + 3
  let order := ((List.range size).map fun j => j * step % size).filter fun p => decide (p < hi)
  let syms := (List.range cs.length).flatMap fun s => if 0 < cs.getD s 0 then List.replicate (cs.getD s 0).toNat s else []
  let t := (order.zip syms).foldl (fun t x => Tbl.set t x.1 x.2) []
  (rare.zipIdx).foldl (fun t x => Tbl.set t (size - 1 - x.2) x.1) t

/-- The entries in state order; `next` counts the states of each symbol. -/
def fseEnts (al : Nat) : List (Nat × Nat) → Tbl Nat → List FseEnt
  | [], _ => []
  | (_, s) :: l, next =>
    let k := next.get 1 s
    let nb := al - Nat.log2 k
    { sym := s, nb := nb, base := k * 2 ^ nb - 2 ^ al } :: fseEnts al l (next.set s (k + 1))

/-- The table of some counts. -/
def fseTable (al : Nat) (cs : List Int) : Fse :=
  { al := al, ents := fseEnts al (fseSpread al cs) ((List.range cs.length).filterMap fun s => if cs.getD s 0 = 0 then none else some (s, (cs.getD s 0).natAbs)) }

/-- A table description at the front of some bytes: the table, and the bytes it took. -/
def fseRead (l : List Nat) (maxAl maxSym : Nat) : Option (Fse × Nat) :=
  let n := ofLeBytes (l.take 512)
  let al := bits n 0 4 + 5
  if maxAl < al then none
  else match fseCounts n 600 4 (2 ^ al) [] with
    | none => none
    | some (cs, pos) =>
      let used := (pos + 7) / 8
      if l.length < used || maxSym + 1 < cs.length then none else some (fseTable al cs, used)

def Fse.ent (t : Fse) (s : Nat) : FseEnt := t.ents.getD s { sym := 0, nb := 0, base := 0 }

/-- The next state. -/
def Fse.next (t : Fse) (s : Nat) (b : BackBits) : Nat × BackBits := let r := b.take (t.ent s).nb; ((t.ent s).base + r.1, r.2)

/-! ### Huffman codes -/

/-- A Huffman table: its longest code, and symbol and length by the next bits. -/
structure Huf where
  max : Nat
  ents : List (Nat × Nat)
  deriving DecidableEq, Repr

/-- Two interleaved states give the weights until the stream runs dry. -/
def hufWeights (t : Fse) : Nat → Nat → Nat → BackBits → List Nat → Option (List Nat)
  | 0, _, _, _, _ => none
  | fuel + 1, s1, s2, b, acc =>
    let acc := acc ++ [(t.ent s1).sym]
    let r := t.next s1 b
    if r.2.left < 0 then some (acc ++ [(t.ent s2).sym]) else hufWeights t fuel s2 r.1 r.2 acc

/-- The table of some weights, the last one implied. -/
def hufTable (ws : List Nat) : Option Huf :=
  let sum := (ws.map fun w => if w = 0 then 0 else 2 ^ (w - 1)).sum
  if sum = 0 || ws.any fun w => decide (11 < w) then none
  else
    let mx := Nat.log2 sum + 1
    let rest := 2 ^ mx - sum
    if 11 < mx || rest ≠ 2 ^ Nat.log2 rest then none
    else
      let ls := (ws ++ [Nat.log2 rest + 1]).map fun w => if w = 0 then 0 else mx + 1 - w
      some { max := mx, ents := (List.range mx).flatMap fun i =>
        let nb := mx - i
        (ls.zipIdx.filter fun x => x.1 = nb).flatMap fun x => List.replicate (2 ^ i) (x.2, nb) }

/-- A Huffman tree description: the table and the bytes it took. -/
def hufRead (l : List Nat) : Option (Huf × Nat) :=
  match l with
  | [] => none
  | h :: l =>
    if h < 128 then
      if l.length < h then none
      else match fseRead (l.take h) 6 255 with
        | none => none
        | some (t, used) => match backBits ((l.take h).drop used) with
          | none => none
          | some b =>
            let x := b.take t.al
            let y := x.2.take t.al
            ((hufWeights t 256 x.1 y.1 y.2 []).bind fun ws => if 255 < ws.length then none else hufTable ws).map fun k => (k, h + 1)
    else
      let n := h - 127
      let bytes := (n + 1) / 2
      if l.length < bytes then none
      else (hufTable ((List.range n).map fun i => if i % 2 = 0 then l.getD (i / 2) 0 / 16 else l.getD (i / 2) 0 % 16)).map fun k => (k, bytes + 1)

/-- The symbols of one Huffman stream, until its bits are used up exactly. -/
def hufStream (t : Huf) : Nat → BackBits → List Nat → Option (List Nat)
  | 0, _, _ => none
  | fuel + 1, b, acc =>
    if b.left = 0 then some acc.reverse
    else
      let e := t.ents.getD (b.take t.max).1 (0, 0)
      let left := b.left - e.2
      if e.2 = 0 || left < 0 then none else hufStream t fuel { b with left := left } (e.1 :: acc)

def hufBytes (t : Huf) (l : List Nat) : Option (List Nat) := (backBits l).bind fun b => hufStream t (8 * l.length + 1) b []

/-- One stream, or four behind a jump table. -/
def hufStreams (t : Huf) (four : Bool) (l : List Nat) : Option (List Nat) :=
  if !four then hufBytes t l
  else
    let s := fun i => ofLeBytes ((l.drop (2 * i)).take 2)
    let b := l.drop 6
    if l.length < 6 || b.length < s 0 + s 1 + s 2 then none
    else do
      let w ← hufBytes t (b.take (s 0))
      let x ← hufBytes t ((b.drop (s 0)).take (s 1))
      let y ← hufBytes t ((b.drop (s 0 + s 1)).take (s 2))
      let z ← hufBytes t (b.drop (s 0 + s 1 + s 2))
      pure (w ++ x ++ y ++ z)

/-! ### Blocks -/

/-- What one block leaves to the next ones of its frame: Huffman table, tables of literal lengths, offsets and match lengths, repeat offsets. -/
structure ZCtx where
  huf : Option Huf := none
  ll : Option Fse := none
  of_ : Option Fse := none
  ml : Option Fse := none
  rep : Nat × Nat × Nat := (1, 4, 8)
  deriving DecidableEq, Repr

/-- The literals section: literals, the context, the bytes it took. -/
def zLiterals (c : ZCtx) (l : List Nat) : Option (List Nat × ZCtx × Nat) :=
  let b0 := l.getD 0 0
  let kind := b0 % 4
  let sf := b0 / 4 % 4
  let n := ofLeBytes (l.take 5)
  if l.isEmpty then none
  else if kind ≤ 1 then
    let h := if sf % 2 = 0 then 1 else if sf = 1 then 2 else 3
    let size := if sf % 2 = 0 then b0 / 8 else if sf = 1 then bits n 4 12 else bits n 4 20
    if l.length < h || 131072 < size then none
    else if kind = 0 then (if l.length < h + size then none else some ((l.drop h).take size, c, h + size))
    else if l.length < h + 1 then none else some (List.replicate size (l.getD h 0), c, h + 1)
  else
    let w := if sf ≤ 1 then 10 else if sf = 2 then 14 else 18
    let h := if sf ≤ 1 then 3 else if sf = 2 then 4 else 5
    let size := bits n 4 w
    let comp := bits n (4 + w) w
    if l.length < h + comp || 131072 < size then none
    else
      let body := (l.drop h).take comp
      let t : Option (Huf × Nat) := if kind = 2 then hufRead body else c.huf.map fun t => (t, 0)
      match t with
      | none => none
      | some (t, used) => match hufStreams t (sf ≠ 0) (body.drop used) with
        | none => none
        | some ls => if ls.length ≠ size then none else some (ls, { c with huf := some t }, h + comp)

/-- Baseline and extra bits of the length codes. -/
def llCode (c : Nat) : Nat × Nat :=
  if c < 16 then (c, 0)
  else [(16, 1), (18, 1), (20, 1), (22, 1), (24, 2), (28, 2), (32, 3), (40, 3), (48, 4), (64, 6), (128, 7), (256, 8), (512, 9), (1024, 10), (2048, 11),
    (4096, 12), (8192, 13), (16384, 14), (32768, 15), (65536, 16)].getD (c - 16) (0, 0)

def mlCode (c : Nat) : Nat × Nat :=
  if c < 32 then (c + 3, 0)
  else [(35, 1), (37, 1), (39, 1), (41, 1), (43, 2), (47, 2), (51, 3), (59, 3), (67, 4), (83, 4), (99, 5), (131, 7), (259, 8), (515, 9), (1027, 10),
    (2051, 11), (4099, 12), (8195, 13), (16387, 14), (32771, 15), (65539, 16)].getD (c - 32) (0, 0)

/-- The predefined counts. -/
def llDefault : List Int := [4, 3, 2, 2, 2, 2, 2, 2, 2, 2, 2, 2, 2, 1, 1, 1, 2, 2, 2, 2, 2, 2, 2, 2, 2, 3, 2, 1, 1, 1, 1, 1, -1, -1, -1, -1]
def ofDefault : List Int := [1, 1, 1, 1, 1, 1, 2, 2, 2] ++ List.replicate 15 1 ++ List.replicate 5 (-1)
def mlDefault : List Int := [1, 4, 3, 2, 2, 2, 2, 2, 2] ++ List.replicate 37 1 ++ List.replicate 7 (-1)

/-- A table by its mode: predefined, one symbol, described, or the one before. -/
def zTable (mode : Nat) (l : List Nat) (dflt : List Int) (dAl maxAl maxSym : Nat) (old : Option Fse) : Option (Fse × Nat) :=
  if mode = 0 then some (fseTable dAl dflt, 0)
  else if mode = 1 then
    (match l with
      | s :: _ => if maxSym < s then none else some ({ al := 0, ents := [{ sym := s, nb := 0, base := 0 }] }, 1)
      | [] => none)
  else if mode = 2 then fseRead l maxAl maxSym
  else old.map fun t => (t, 0)

/-- The offset that an offset value means, and the repeat offsets after it. -/
def zOffset (rep : Nat × Nat × Nat) (v ll : Nat) : Nat × (Nat × Nat × Nat) :=
  if 3 < v then (v - 3, (v - 3, rep.1, rep.2.1))
  else
    let i := v - 1 + (if ll = 0 then 1 else 0)
    if i = 0 then (rep.1, rep)
    else
      let o := if i = 1 then rep.2.1 else if i = 2 then rep.2.2 else rep.1 - 1
      (o, (o, rep.1, if i = 1 then rep.2.2 else rep.2.1))

/-- Copy `len` bytes from `off` back, one after the other. -/
def zCopy : Nat → Nat → Array Nat → Array Nat
  | 0, _, out => out
  | k + 1, off, out => zCopy k off (out.push (out.getD (out.size - off) 0))

/-- The three states of the sequence decoder. -/
structure ZSt where
  ll : Nat
  of_ : Nat
  ml : Nat
  b : BackBits

/-- Decode and execute `k` sequences; `lits` are the literals still to be used. -/
def zSeqs (tl tof tm : Fse) : Nat → ZSt → List Nat → (Nat × Nat × Nat) → Array Nat → Option (List Nat × (Nat × Nat × Nat) × Array Nat)
  | 0, s, lits, rep, out => if s.b.left = 0 then some (lits, rep, out) else none
  | k + 1, s, lits, rep, out =>
    let oc := (tof.ent s.of_).sym
    let lc := llCode (tl.ent s.ll).sym
    let mc := mlCode (tm.ent s.ml).sym
    let o := s.b.take oc
    let m := o.2.take mc.2
    let l := m.2.take lc.2
    let ll := lc.1 + l.1
    let x := zOffset rep (2 ^ oc + o.1) ll
    if l.2.left < 0 || lits.length < ll then none
    else
      let out := (lits.take ll).foldl Array.push out
      if x.1 = 0 || out.size < x.1 then none
      else
        let out := zCopy (mc.1 + m.1) x.1 out
        if k = 0 then zSeqs tl tof tm 0 { s with b := l.2 } (lits.drop ll) x.2 out
        else
          let a := tl.next s.ll l.2
          let b := tm.next s.ml a.2
          let c := tof.next s.of_ b.2
          zSeqs tl tof tm k { ll := a.1, of_ := c.1, ml := b.1, b := c.2 } (lits.drop ll) x.2 out

/-- The number of sequences, and the bytes it took. -/
def zSeqCount (l : List Nat) : Option (Nat × Nat) :=
  match l with
  | [] => none
  | a :: l => if a < 128 then some (a, 1)
    else match l with
      | [] => none
      | b :: l => if a < 255 then some ((a - 128) * 256 + b, 2)
        else match l with
          | [] => none
          | c :: _ => some (b + 256 * c + 0x7F00, 3)

/-- A compressed block: what it adds to the output. -/
def zBlock (c : ZCtx) (l : List Nat) (out : Array Nat) : Option (ZCtx × Array Nat) := do
  let (lits, c, used) ← zLiterals c l
  let l := l.drop used
  let (n, used) ← zSeqCount l
  let l := l.drop used
  if n = 0 then (if l.isEmpty then some (c, lits.foldl Array.push out) else none)
  else
    match l with
    | [] => none
    | modes :: l =>
      if modes % 4 ≠ 0 then none
      else do
        let (tl, u) ← zTable (modes / 64) l llDefault 6 9 35 c.ll
        let l := l.drop u
        let (tof, u) ← zTable (modes / 16 % 4) l ofDefault 5 8 31 c.of_
        let l := l.drop u
        let (tm, u) ← zTable (modes / 4 % 4) l mlDefault 6 9 52 c.ml
        let b ← backBits (l.drop u)
        let x := b.take tl.al
        let y := x.2.take tof.al
        let z := y.2.take tm.al
        if z.2.left < 0 then none
        else do
          let (rest, rep, out) ← zSeqs tl tof tm n { ll := x.1, of_ := y.1, ml := z.1, b := z.2 } lits c.rep out
          pure ({ c with ll := some tl, of_ := some tof, ml := some tm, rep := rep }, rest.foldl Array.push out)

/-- The blocks of a frame: its content, and the bytes behind the last block. No block gives more than 128 KiB or the window. -/
def zBlocks (most : Nat) : Nat → ZCtx → List Nat → Array Nat → Option (Array Nat × List Nat)
  | 0, _, _, _ => none
  | fuel + 1, c, l, out =>
    if l.length < 3 then none
    else
      let h := ofLeBytes (l.take 3)
      let size := h / 8
      let l := l.drop 3
      let kind := h / 2 % 4
      let r : Option (ZCtx × Array Nat × Nat) :=
        if most < size then none
        else if kind = 0 then (if l.length < size then none else some (c, (l.take size).foldl Array.push out, size))
        else if kind = 1 then (match l with | x :: _ => some (c, (List.replicate size x).foldl Array.push out, 1) | [] => none)
        else if kind = 2 then (if l.length < size then none else (zBlock c (l.take size) out).map fun r => (r.1, r.2, size))
        else none
      match r with
      | none => none
      | some (c, o, used) =>
        if most < o.size - out.size then none
        else if h % 2 = 1 then some (o, l.drop used) else zBlocks most fuel c (l.drop used) o

/-! ### The content checksum -/

def xxRot (x n : Nat) : Nat := (x <<< n ||| x >>> (64 - n)) % 2 ^ 64

def xxP1 : Nat := 0x9E3779B185EBCA87
def xxP2 : Nat := 0xC2B2AE3D27D4EB4F
def xxP3 : Nat := 0x165667B19E3779F9
def xxP4 : Nat := 0x85EBCA77C2B2AE63
def xxP5 : Nat := 0x27D4EB2F165667C5

def xxRound (acc x : Nat) : Nat := xxRot ((acc + x * xxP2) % 2 ^ 64) 31 * xxP1 % 2 ^ 64

/-- The four lanes over whole stripes of 32 bytes. -/
def xxStripes : Nat → List Nat → List Nat → List Nat
  | 0, v, _ => v
  | k + 1, v, l => xxStripes k (v.zipIdx.map fun x => xxRound x.1 (ofLeBytes ((l.drop (8 * x.2)).take 8))) (l.drop 32)

/-- The bytes that no stripe took. -/
def xxTail : Nat → Nat → List Nat → Nat
  | 0, h, _ => h
  | k + 1, h, l =>
    if 8 ≤ l.length then xxTail k ((xxRot (h ^^^ xxRound 0 (ofLeBytes (l.take 8))) 27 * xxP1 + xxP4) % 2 ^ 64) (l.drop 8)
    else if 4 ≤ l.length then xxTail k ((xxRot (h ^^^ ofLeBytes (l.take 4) * xxP1 % 2 ^ 64) 23 * xxP2 + xxP3) % 2 ^ 64) (l.drop 4)
    else match l with
      | [] => h
      | x :: l => xxTail k (xxRot (h ^^^ x * xxP5 % 2 ^ 64) 11 * xxP1 % 2 ^ 64) l

/-- XXH64 with seed 0. -/
def xxh64 (l : List Nat) : Nat :=
  let n := l.length
  let v := xxStripes (n / 32) [(xxP1 + xxP2) % 2 ^ 64, xxP2, 0, (2 ^ 64 - xxP1) % 2 ^ 64] l
  let g := fun i => v.getD i 0
  let h := if n < 32 then xxP5
    else
      let h := (xxRot (g 0) 1 + xxRot (g 1) 7 + xxRot (g 2) 12 + xxRot (g 3) 18) % 2 ^ 64
      v.foldl (fun h x => ((h ^^^ xxRound 0 x) * xxP1 + xxP4) % 2 ^ 64) h
  let h := xxTail 32 ((h + n) % 2 ^ 64) (l.drop (n / 32 * 32))
  let h := (h ^^^ h >>> 33) * xxP2 % 2 ^ 64
  let h := (h ^^^ h >>> 29) * xxP3 % 2 ^ 64
  h ^^^ h >>> 32

/-! ### Frames -/

/-- The window a descriptor byte gives. -/
def zWindow (d : Nat) : Nat := let base := 2 ^ (10 + d / 8); base + base / 8 * (d % 8)

/-- One frame at the front of some bytes: its content and what follows it. A skippable frame has no content. -/
def zFrame (l : List Nat) : Option (List Nat × List Nat) :=
  let magic := ofLeBytes (l.take 4)
  if l.length < 5 then none
  else if magic / 16 = 0x184D2A5 then
    let n := ofLeBytes ((l.drop 4).take 4)
    if l.length < 8 + n then none else some ([], l.drop (8 + n))
  else if magic ≠ 0xFD2FB528 then none
  else
    let d := l.getD 4 0
    let single := d / 32 % 2 = 1
    let dict := [0, 1, 2, 4].getD (d % 4) 0
    let fcsLen := if d / 64 = 0 then (if single then 1 else 0) else 2 ^ (d / 64)
    let win := if single then 0 else 1
    let hdr := 5 + win + dict + fcsLen
    let fcs := ofLeBytes ((l.drop (5 + win + dict)).take fcsLen) + (if d / 64 = 1 then 256 else 0)
    if d / 8 % 2 = 1 || l.length < hdr || ofLeBytes ((l.drop (5 + win)).take dict) ≠ 0 then none
    else
      let window := if single then fcs else zWindow (l.getD 5 0)
      match zBlocks (min 131072 window) l.length {} (l.drop hdr) #[] with
      | none => none
      | some (out, rest) =>
        let out := out.toList
        if fcsLen ≠ 0 && out.length ≠ fcs then none
        else if d / 4 % 2 = 0 then some (out, rest)
        else if rest.length < 4 || ofLeBytes (rest.take 4) ≠ xxh64 out % 2 ^ 32 then none
        else some (out, rest.drop 4)

/-- All frames laid end to end (R202). -/
def zFrames : Nat → List Nat → Option (List Nat)
  | 0, l => if l.isEmpty then some [] else none
  | fuel + 1, l =>
    if l.isEmpty then some []
    else match zFrame l with
      | none => none
      | some (a, rest) => (zFrames fuel rest).map fun b => a ++ b

/-- What some frames decompress to; none where one is malformed. -/
def unzstd (l : List Nat) : Option (List Nat) := zFrames l.length l

end Sys2Proof.Machine
end

