-- ==== Sys2Proof/Machine/Flash.lean ====
section
/-! DEFINITION. Bytes as the configuration flash and a package file hold them, the executables in them, and what a package of the seal store holds
(R127, R131, R202, R203, R372). -/
namespace Sys2Proof.Machine
open Sys2Proof

/-! ### Bytes by offset; one that is not listed reads 0xFF -/

/-- A byte of a slot: erased flash reads 0xFF. -/
def flashRead : List Host.Cell → Nat → Nat
  | [], _ => 0xFF
  | (i, x) :: t, k => if i = k then x.toNat else if k < i then 0xFF else flashRead t k

/-- Write one byte, keeping offsets rising and no 0xFF listed. -/
def flashWrite : List Host.Cell → Nat → Nat → List Host.Cell
  | [], k, v => if v % 256 = 0xFF then [] else [(k, BitVec.ofNat 8 v)]
  | (i, x) :: t, k, v =>
    if k < i then (if v % 256 = 0xFF then (i, x) :: t else (k, BitVec.ofNat 8 v) :: (i, x) :: t)
    else if k = i then (if v % 256 = 0xFF then t else (k, BitVec.ofNat 8 v) :: t)
    else (i, x) :: flashWrite t k v

/-- Write bytes from an offset on. -/
def flashWriteBytes : List Host.Cell → Nat → List Nat → List Host.Cell
  | m, _, [] => m
  | m, k, b :: bs => flashWriteBytes (flashWrite m k b) (k + 1) bs

/-- `len` bytes of a slot from an offset. -/
def flashBytes (m : List Host.Cell) (o len : Nat) : List Nat := (List.range len).map fun i => flashRead m (o + i)

/-- A little-endian number of `len` bytes. -/
def leAt (m : List Host.Cell) (len o : Nat) : Nat := ofLeBytes (flashBytes m o len)

/-- A big-endian number of `len` bytes. -/
def beAt (m : List Host.Cell) (len o : Nat) : Nat := ofBeBytes (flashBytes m o len)

/-- Are bytes from `lo` up to but not including `hi` all 0? -/
def zeroAt (m : List Host.Cell) (lo hi : Nat) : Bool := (List.range (hi - lo)).all fun i => flashRead m (lo + i) = 0

/-- Bytes of a list, by offset. -/
def flashOf (l : List Nat) : List Host.Cell := flashWriteBytes [] 0 l

/-- Bytes as a read finds them, some of them wrong. -/
def flashWrong (m : List Host.Cell) (wrong : List (Nat × Nat)) : List Host.Cell := wrong.foldl (fun m x => flashWrite m x.1 x.2) m

/-! ### Executables (R131) -/

/-- The user part of local memory ends here (R127). -/
def userEnd : Nat := localBase + 196608

/-- An ELF executable of `len` bytes (R131): its entry point and PT_LOAD segments, or none where it is no little-endian RV64 executable or breaks the limits. -/
def elfAt (m : List Host.Cell) (o len : Nat) : Option ProgRec :=
  let ph := leAt m 8 (o + 32)
  let n := leAt m 2 (o + 56)
  if decide (len < 64) || decide (flashBytes m o 7 ≠ [0x7F, 0x45, 0x4C, 0x46, 2, 1, 1]) || decide (leAt m 2 (o + 16) ≠ 2) || decide (leAt m 2 (o + 18) ≠ 243) ||
      decide (leAt m 2 (o + 54) ≠ 56) || decide (len < ph + 56 * n) then none
  else
    let hs := ((List.range n).map fun i => o + ph + 56 * i).filter fun p => leAt m 4 p = 1
    let ok := hs.all fun p =>
      decide (leAt m 8 (p + 8) + leAt m 8 (p + 32) ≤ len) && decide (leAt m 8 (p + 32) ≤ leAt m 8 (p + 40)) &&
      decide (localBase ≤ leAt m 8 (p + 16)) && decide (leAt m 8 (p + 16) + leAt m 8 (p + 40) ≤ userEnd)
    if !ok || decide (196608 < (hs.map fun p => leAt m 8 (p + 40)).sum) then none
    else some
      { entry := leAt m 8 (o + 24)
        segs := hs.map fun p =>
          let f := leAt m 8 (p + 32)
          (leAt m 8 (p + 16), flashBytes m (o + leAt m 8 (p + 8)) f ++ List.replicate (leAt m 8 (p + 40) - f) 0) }

/-! ### Packages (R202, R203, R131) -/

/-- A chunk of a body: 64 MiB. -/
def sealChunk : Nat := 67108864

/-- Where the signature stands in a manifest. -/
def manifestSig (tensors chunks : Nat) : Nat := 64 + 32 * tensors + 32 * chunks

/-- Where the body begins: the first 4,096-byte boundary after the manifest. -/
def bodyStart (tensors chunks : Nat) : Nat := (manifestSig tensors chunks + 384 + 4095) / 4096 * 4096

/-- The enrolled key of a digest; a program needs one that may sign programs (R205). -/
def Blk.keyFor (b : Blk) (digest : Nat) (program : Bool) : Option KeyRec := b.cfg.keys.find? fun k => k.digest = digest && (!program || k.program)

/-- Does the manifest's signature verify under a key? -/
def manifestSigned (m : List Host.Cell) (p : Package) (k : KeyRec) : Bool :=
  let o := manifestSig p.tensors.length p.chunks
  sigVerifies k.modulus (flashBytes m 0 o) (beAt m 384 o)

/-- The digest that a manifest gives chunk `k` (R202). -/
def chunkDigest (p : Package) (man : List Host.Cell) (k : Nat) : Nat := leAt man 32 (64 + 32 * p.tensors.length + 32 * k)

/-- Does chunk `k` of a body fit its digest (R206, R209)? -/
def chunkFits (p : Package) (man body : List Host.Cell) (k : Nat) : Bool :=
  shaNat (flashBytes body (sealChunk * k) (min sealChunk (p.bodyLen - sealChunk * k))) = chunkDigest p man k

/-- The executable that the frames of a program package decompress to (R202): none where a frame is malformed, or the executable breaks the limits of R131. -/
def progOf (body : List Nat) : Option ProgRec := (unzstd body).bind fun l => elfAt (flashOf l) 0 l.length

/-- A program package's program (R131). -/
def Package.prog (p : Package) : Option ProgRec := if p.kind = 1 then progOf (flashBytes p.body 0 p.bodyLen) else none

/-- The source elements that a tensor's frames decompress to, in row-major order: none where a frame is malformed or their number is not ROWS × COLS (R203). -/
def tensorElems (t : TensorRec) (frames : List Nat) : Option (List Nat) :=
  let n := if t.srcFmt = 0 then 4 else 2
  (unzstd frames).bind fun l => if l.length = t.rows * t.cols * n then some ((List.range (t.rows * t.cols)).map fun i => ofLeBytes ((l.drop (n * i)).take n)) else none

end Sys2Proof.Machine
end

