-- ==== Sys2Proof/Machine/Raker.lean ====
section
/-! DEFINITION. Raker cores: waiting for commands, context accesses, faults, programs, and the firmware calls that need no network (07). -/
namespace Sys2Proof.Machine
open Sys2Proof

/-! ### Waiting for commands (R132) -/

/-- QWAIT: it waits while the command is pending; a complete one is an ordering point (R128). -/
def State.qwait (s : State) (core rd num pc : Nat) : State :=
  match s.b.mayIssue core with
  | none => s
  | some p =>
    let st := cmdStatus (s.b.ctx p.ctx) num
    if st = 1 then s.setB (s.b.modRk core fun r => { atPc r pc with wait := some (.cmd (num % 2 ^ 32) rd) })
    else
      let s := if st = 0 then s.publish (.rk core) else s
      s.setB (s.b.modRk core fun r => setX (atPc r pc) rd st)

/-- QWAIT (R132). -/
def execQwait (core rd num pc : Nat) (s : State) : Host.Outcome State Fault Refusal := .next (s.qwait core rd num pc)

/-- QTEST: the status, without waiting. -/
def State.qtest (s : State) (core rd num pc : Nat) : State :=
  match s.b.mayIssue core with
  | none => s
  | some p =>
    let st := cmdStatus (s.b.ctx p.ctx) num
    let s := if st = 0 then s.publish (.rk core) else s
    s.setB (s.b.modRk core fun r => setX (atPc r pc) rd st)

/-- QTEST (R132). -/
def execQtest (core rd num pc : Nat) (s : State) : Host.Outcome State Fault Refusal := .next (s.qtest core rd num pc)

/-- QFENCE: waits until every command and launch this core issued is complete. -/
def execQfence (core pc : Nat) (s : State) : Host.Outcome State Fault Refusal :=
  match s.b.mayIssue core with
  | none => .next s
  | some _ => .next ((s.setB (s.b.modRk core fun r => { atPc r pc with wait := some .fence })).wakeCore core)

/-- FENCE: an ordering point (R128). -/
def execFence (core pc : Nat) (s : State) : Host.Outcome State Fault Refusal :=
  match s.b.mayIssue core with
  | none => .next s
  | some _ => .next ((s.publish (.rk core)).setB ((s.publish (.rk core)).b.modRk core fun r => atPc r pc))

/-- RK_ILLEGAL_INSTR: the faults of R134 that need no access. -/
def execRkIllegalInstr (core pc : Nat) (trap : RkTrap) (s : State) : Host.Outcome State Fault Refusal :=
  match s.b.mayIssue core with
  | none => .next s
  | some _ => .next (s.setB (s.b.rkFault core (match trap with | .local_ => cRkLocal | _ => cRkIllegal) pc))

/-! ### Context accesses (R126, R127) -/

def accSize : RkAccess → Nat
  | .load n _ _ => n
  | .fload n _ => n
  | .store n _ => n
  | .lr n _ => n
  | .sc n _ _ => n
  | .amo _ n _ _ => n

def accWrites : RkAccess → Bool
  | .load _ _ _ => false
  | .fload _ _ => false
  | .lr _ _ => false
  | _ => true

/-- A value of `n` bytes sign-extended to 64 bits. -/
def sext (n v : Nat) : Nat := ((toSigned (8 * n) v) % 2 ^ 64).toNat

/-- What an AMO stores (RISC-V A). -/
def amoNew (op : AmoOp) (n old v : Nat) : Nat :=
  let w := 8 * n
  let x := old % 2 ^ w
  let y := v % 2 ^ w
  match op with
  | .swap => y
  | .add => (x + y) % 2 ^ w
  | .xor => x ^^^ y
  | .and_ => x &&& y
  | .or_ => x ||| y
  | .min => if toSigned w x ≤ toSigned w y then x else y
  | .max => if toSigned w x ≤ toSigned w y then y else x
  | .minu => min x y
  | .maxu => max x y

/-- A core's own held bytes in a range are overtaken by its atomic access. -/
def Blk.dropHeldBytes (b : Blk) (core ctx a len : Nat) : Blk :=
  { b with pend := b.pend.map fun p =>
    if p.who = .rk core && p.ctx = ctx then { p with bytes := p.bytes.filter fun x => decide (x.1 < a ∨ a + len ≤ x.1) } else p }

/-- The line a reservation covers. -/
def resvLine (a : Nat) : Nat := a / 64

/-- Write a floating-point register; a 32-bit value is NaN-boxed. -/
def setF (r : Rk) (fd size v : Nat) : Rk := { r with f := r.f.set (fd % 32) (if size = 4 then v % 2 ^ 32 + (2 ^ 32 - 1) * 2 ^ 32 else v % 2 ^ 64) }

/-- Perform an access on context memory: loads see the core's own stores, plain stores wait for an ordering point, atomics act at once (R127, R128). -/
def State.rkPerform (s : State) (core ctx a : Nat) (acc : RkAccess) : State :=
  let n := accSize acc
  let old := s.viewNat (some (.rk core)) ctx a n
  let s := s.setB (s.b.noteUses ctx a n)
  let put := fun (s : State) (v : Nat) => (s.setB (s.b.dropHeldBytes core ctx a n)).store ctx a (leBytes n v)
  match acc with
  | .load _ sg rd => s.setB (s.b.modRk core fun r => setX r rd (if sg then sext n old else old)).spend
  | .fload _ fd => s.setB (s.b.modRk core fun r => setF r fd n old).spend
  | .store _ v => s.hold (.rk core) ctx [(a, leBytes n v)]
  | .lr _ rd => s.setB (s.b.modRk core fun r => setX { r with resv := some (ctx, resvLine a) } rd (sext n old)).spend
  | .sc _ v rd =>
    if (s.b.rkOf core).resv = some (ctx, resvLine a) then
      let s := put s v
      s.setB (s.b.modRk core fun r => setX { r with resv := none } rd 0)
    else s.setB (s.b.modRk core fun r => setX { r with resv := none } rd 1)
  | .amo op _ v rd =>
    let s := put s (amoNew op n old v)
    s.setB (s.b.modRk core fun r => setX r rd (sext n old)).spend

/-- Perform an access on the user part of local memory. -/
def localPerform (r : Rk) (a : Nat) (acc : RkAccess) : Rk :=
  let n := accSize acc
  let old := ofLeBytes (locBytes r a n)
  let put := fun (r : Rk) (v : Nat) => { r with loc := memWriteBytes r.loc (a - localBase) (leBytes n v) }
  match acc with
  | .load _ sg rd => setX r rd (if sg then sext n old else old)
  | .fload _ fd => setF r fd n old
  | .store _ v => put r v
  | .lr _ rd => setX { r with resv := some (2 ^ 16, resvLine a) } rd (sext n old)
  | .sc _ v rd => if r.resv = some (2 ^ 16, resvLine a) then setX { put r v with resv := none } rd 0 else setX { r with resv := none } rd 1
  | .amo op _ v rd => setX (put r (amoNew op n old v)) rd (sext n old)

/-- RK_CONTEXT_ACCESS: a load, store, LR, SC or AMO (R127, R134, R163, R216, R219). -/
def State.rkAccess (s : State) (core pc a : Nat) (acc : RkAccess) : State :=
  match s.b.mayIssue core with
  | none => s
  | some p =>
    let n := accSize acc
    let s' := s.setB (s.b.modRk core fun r => atPc r pc)
    if localBase ≤ a then
      if inUserLocal a n then s'.setB (s'.b.modRk core fun r => localPerform r a acc) else s'.setB (s'.b.rkFault core cRkLocal pc)
    else if !covered (s.b.ctx p.ctx) a n then s'.setB (s'.b.rkFault core cAddrRange pc)
    else if a % n ≠ 0 then s'.setB (s'.b.rkFault core cRkAlign pc)
    else match access (s.b.ctx p.ctx) (progIssuer core p) (accWrites acc) a n with
      | .fault cause x _ => s'.setB (s'.b.ctxFault p.ctx cause hubPan noSeq false x 0)
      | .wait => s
      | .ok =>
        if accWrites acc && !s.canWrite p.ctx a n then s.cowBlock p.ctx a n
        else
          let writes := match acc with
            | .sc _ _ _ => decide ((s.b.rkOf core).resv = some (p.ctx, resvLine a))
            | _ => accWrites acc
          let s' := if writes then s'.setB (s'.b.observe s'.mem p.ctx (cellsAt a (match acc with
              | .store _ v => leBytes n v
              | .sc _ v _ => leBytes n v
              | .amo op _ v _ => leBytes n (amoNew op n (s.viewNat (some (.rk core)) p.ctx a n) v)
              | _ => [])) false) else s'
          s'.rkPerform core p.ctx a acc

/-- RK_CONTEXT_ACCESS (R127). -/
def execRkContextAccess (core pc addr : Nat) (acc : RkAccess) (s : State) : Host.Outcome State Fault Refusal := .next (s.rkAccess core pc addr acc)

/-! ### Programs (R129, R130) -/

/-- The raker cores of a context, ascending (R232). -/
def coresOf (c : Ctx) : List Nat := (List.range 64).filter (bitAt c.rec_.rkMask)

/-- The program of a phase: inline, or the one a seal package holds (R131). -/
def Blk.programOf (b : Blk) (c : Ctx) (ph : Phase) : Option ProgRec :=
  match (if ph = .learn then c.rec_.learnSeal else c.rec_.genSeal) with
  | some (id, ver) => (b.store.pkgs.find? fun k => k.id = id && k.ver = ver).bind Package.prog
  | none => if ph = .learn then c.rec_.learn else c.rec_.gen

/-- Local memory with a program's segments placed (R131). -/
def loadSegs (p : ProgRec) : List Host.Cell := p.segs.foldl (fun m x => memWriteBytes m (x.1 - localBase) x.2) []

def phaseRun (c : Ctx) (ph : Phase) : Option PhaseRun := if ph = .learn then c.learn else c.gen

def setRun (c : Ctx) (ph : Phase) (r : PhaseRun) : Ctx := if ph = .learn then { c with learn := some r } else { c with gen := some r }

/-- PROGRAM_START: a pending start on a core that has come free, with the firmware of the image in force (R129, R215, R219, R354). -/
def Blk.programStart (b : Blk) (core ctx : Nat) : Blk :=
  let c := b.ctx ctx
  match (b.prog core), phaseRun c c.phase, b.programOf c c.phase with
  | none, some r, some p =>
    if r.pending.contains core && c.st = .active && b.works (rkPan core) then
      let idx := (coresOf c).idxOf core
      let x : Rk := { freshRk (b.rkOf core) with
        prog := some { ctx := ctx, idx := idx, phase := c.phase, step := c.step, bound := currentBuf c }, pc := p.entry, npc := p.entry, fw := b.cfg.rkFwSha, loc := loadSegs p }
      let x := setX (setX (setX (setX (setX x 10 ctx) 11 idx) 12 (coresOf c).length) 13 (b2n (c.phase = .learn))) 14 (c.step % 2 ^ 64)
      (b.setCtx ctx (setRun c c.phase { r with ran := r.ran + 1, pending := r.pending.filter (· ≠ core) })).modRk core fun _ => x
    else b
  | _, _, _ => b

/-- PROGRAM_START (R129). -/
def execProgramStart (core ctx : Nat) (s : State) : Host.Outcome State Fault Refusal := .next (s.setB (s.b.programStart core ctx))

/-- EXIT: QFENCE on the core's behalf, then the program ends (R130, R135). -/
def execExit (core pc code : Nat) (s : State) : Host.Outcome State Fault Refusal :=
  match s.b.mayIssue core with
  | none => .next s
  | some _ => .next ((s.setB (s.b.modRk core fun r => { atPc r pc with wait := some (.exit code) })).wakeCore core)

/-! ### Firmware calls (R135, R437) -/

/-- A firmware call: its checks, then its effect; a call that fails a check faults the context with RK_ECALL (R437). -/
def State.call (s : State) (core pc : Nat) (ok : Bool) (f : Blk → Prog → Blk) : State :=
  match s.b.mayIssue core with
  | none => s
  | some p =>
    let b := s.b.modRk core fun r => atPc r pc
    s.setB (if ok then f b p else b.rkFault core cRkEcall pc)

/-- EVENT_CALL: a program event (R135, R243). -/
def execEventCall (core pc a0 a1 : Nat) (s : State) : Host.Outcome State Fault Refusal :=
  .next (s.call core pc (decide (0x5800 ≤ a0 ∧ a0 ≤ 0x5FFF) && inUserLocal a1 32) fun b p => b.raise a0 p.ctx (rkPan core) (b.rkNat core a1 32))

/-- TIDE_CALL: tide number and phase. -/
def execTideCall (core pc : Nat) (s : State) : Host.Outcome State Fault Refusal :=
  .next (s.call core pc true fun b _ => b.modRk core fun r => setX (setX r 10 b.tide.num) 11 b.phase)

/-- WAIT_TIDE: sleeps until an instant has passed; returns at once if it has. -/
def execWaitTide (core pc a0 a1 : Nat) (s : State) : Host.Outcome State Fault Refusal :=
  .next (s.call core pc (decide (a0 < 2 ^ 48 ∧ a1 < s.b.tide.period)) fun b _ =>
    if b.due a0 a1 then b else b.modRk core fun r => { r with wait := some (.tide a0 a1) })

/-- WAIT_TIDE_WAKE: the instant has passed. -/
def execWaitTideWake (core : Nat) (s : State) : Host.Outcome State Fault Refusal :=
  match (s.b.rkOf core).wait with
  | some (.tide n ph) => if s.b.due n ph then .next (s.setB (s.b.modRk core fun r => { r with wait := none })) else .next s
  | _ => .next s

/-- ECALL with a call number of 8 or above faults the context (R134, R437); the calls below have commands of their own. -/
def execEcall (core pc a7 : Nat) (s : State) : Host.Outcome State Fault Refusal :=
  if a7 < 8 then .next s else .next (s.call core pc false fun b _ => b)

end Sys2Proof.Machine
end

