-- ==== Sys2Proof/Machine/Image.lean ====
section
/-! DEFINITION. Reading the records of a Kartile image from the bytes of a slot (19, R366 to R368, with the layouts of the other chapters). -/
namespace Sys2Proof.Machine
open Sys2Proof

/-! ### Confidential parts (R370) -/

/-- What reading an image takes beside the slot's bytes: the content key of its confidential parts, where the key store unwraps it, and the module's active
position, to which no record gives a place. -/
structure KeyStoreOut where
  key : Option XtsKey := none
  pos : Nat := 0
  deriving DecidableEq, Repr

/-- The entry of the wrap table for a serial number: where it lies. -/
def wrapFor (m : List Host.Cell) (serial : Nat) : Option Nat :=
  ((List.range (min 128 (leAt m 4 0x24))).map fun i => leAt m 4 0x20 + 400 * i).find? fun o => leAt m 8 o = serial

/-- The content key, unwrapped with this module's image key: the data key, then the tweak key. -/
def contentKey (m : List Host.Cell) (sec : SecSt) : Option XtsKey :=
  match wrapFor m sec.serial with
  | none => none
  | some o => match oaepOpen sec.imageKey (beAt m 384 (o + 16)) with
    | some l => if l.length = 64 then some { data := ofLeBytes (l.take 32), tweak := ofLeBytes (l.drop 32) } else none
    | none => none

/-! ### Header and directory (R366, R367) -/

/-- Bytes of one slot. -/
def slotSize : Nat := 125829120

/-- A directory entry. -/
structure DirEnt where
  typ : Nat
  conf : Bool
  rsvOk : Bool
  off : Nat
  len : Nat
  deriving DecidableEq, Repr

/-- The entry at an offset. -/
def dirEnt (m : List Host.Cell) (o : Nat) : DirEnt :=
  { typ := leAt m 2 o, conf := leAt m 2 (o + 2) % 2 = 1, rsvOk := leAt m 2 (o + 2) / 2 = 0 && leAt m 4 (o + 12) = 0,
    off := leAt m 4 (o + 4), len := leAt m 4 (o + 8) }

/-- A directory of `n` entries. -/
def dirAt (m : List Host.Cell) (o n : Nat) : List DirEnt := (List.range n).map fun i => dirEnt m (o + 16 * i)

/-- The directory of an image; its length is read only as far as R366 allows it. -/
def imageDir (m : List Host.Cell) : List DirEnt := dirAt m (leAt m 4 0x18) (min 1500 (leAt m 4 0x1C))

/-- The embedded directory of an adoption set (R368). -/
def setDir (m : List Host.Cell) (e : DirEnt) : List DirEnt := dirAt m (leAt m 4 (e.off + 4)) (min 1500 (leAt m 4 (e.off + 8)))

/-! ### The records -/

/-- A line of a confidential part: its tweak is its index in the part, with memory code 4 (R370). -/
def confLine (k : XtsKey) (i : Nat) (l : List Nat) : List Nat := xtsLine (aes256Inv (leBytes 32 k.data)) k (i + 4 * 2 ^ 64) l

/-- The first `len` bytes of the confidential part at an offset: its lines are decrypted, each with its index in the part; zeros where there is no key (R370). -/
def confAt (m : List Host.Cell) (k : KeyStoreOut) (o len : Nat) : List Nat :=
  match k.key with
  | some x => ((List.range ((len + 63) / 64)).flatMap fun i => confLine x i (flashBytes m (o + 64 * i) 64)).take len
  | none => List.replicate len 0

/-- A port entry (R284). -/
def portRecAt (m : List Host.Cell) (o : Nat) : PortRec :=
  let a := flashRead m o
  { enable := bitAt a 0, kr := bitAt a 1, rateSel := bits a 2 2, macsec := bitAt a 4, keyPrio := flashRead m (o + 1), retrainMax := leAt m 2 (o + 2) }

/-- The seven port entries, addresses and keys of a module record or a port set (R368): `conf` is where the confidential part lies. -/
def portsAt (m : List Host.Cell) (k : KeyStoreOut) (ents addrs conf : Nat) : List PortRec × List Nat × List Nat :=
  let c := confAt m k conf 336
  ((List.range 7).map fun i => portRecAt m (ents + 16 * i), (List.range 7).map fun i => beAt m 16 (addrs + 16 * i),
   (List.range 7).map fun i => ofLeBytes ((c.drop (48 * i)).take 48))

/-- The code of a tide source in the module record (R368). -/
def srcOfCode (n : Nat) : TideSrc := if n = 1 then .ptp else if n = 2 then .tideIn else if n = 3 then .beacon else .none

/-- The module record (R368). -/
def moduleAt (m : List Host.Cell) (k : KeyStoreOut) (o : Nat) : ModuleRec :=
  let w := leAt m 4 (o + 0x10)
  let c := leAt m 4 (o + 0x14)
  let u := leAt m 4 (o + 0x28)
  let p := portsAt m k (o + 0x80) (o + 0xF0) (o + leAt m 4 (o + 0x44))
  { period := leAt m 4 o, holdLimit := leAt m 2 (o + 4), maxOffset := leAt m 2 (o + 6), epoch := leAt m 8 (o + 8)
    sources := ((List.range 3).map fun i => srcOfCode (bits w (4 * i) 4)).filter (· ≠ TideSrc.none)
    beaconTx := bitAt w 12, ptpDomain := bits w 16 8, calEvery := bits c 0 16, silentTides := bits c 16 8, attach := bitAt c 24
    calPhase := leAt m 4 (o + 0x18), rake := (List.range 4).map fun i => leAt m 2 (o + 0x1C + 2 * i)
    ceThresh := leAt m 2 (o + 0x24), repairThr := flashRead m (o + 0x26), udpPort := bits u 0 16, entropy := bits u 16 9
    mplUs := leAt m 4 (o + 0x2C), rtoMin := leAt m 2 (o + 0x30), targetDelay := leAt m 2 (o + 0x32), unkRate := leAt m 2 (o + 0x34)
    ompPort := leAt m 2 (o + 0x36), dscp := (List.range 8).map fun i => flashRead m (o + 0x38 + i)
    modSink := leAt m 2 (o + 0x40), powerCap := leAt m 2 (o + 0x42), ports := p.1, portAddr := p.2.1, macKeys := p.2.2 }

/-- The sluice record (R166). -/
def sluiceAt (m : List Host.Cell) (o : Nat) : SluRec :=
  { ceilPct := flashRead m o, retRate := flashRead m (o + 1), classes := (List.range 9).map fun i => sluClassOf (leAt m 4 (o + 4 + 4 * i)),
    minOps := (List.range 8).map fun i => leAt m 2 (o + 0x28 + 2 * i) }

/-- The QoS record (R237). -/
def qosAt (m : List Host.Cell) (o : Nat) : QosRec :=
  { weight := flashBytes m o 8, evtRate := (List.range 8).map fun i => leAt m 2 (o + 8 + 2 * i), evtBurst := flashBytes m (o + 0x18) 8,
    mirrorMin := flashRead m (o + 0x20) % 8 }

/-- The numeric record (R368). -/
def numericAt (m : List Host.Cell) (o : Nat) : NumRec :=
  { gaugeN := leAt m 4 o % 32, cmpFmt := (List.range 9).map fun i => bits (leAt m 4 (o + 4 + 4 * i)) 16 4,
    gThr := (List.range 9).map fun i => bits (leAt m 4 (o + 4 + 4 * i)) 0 16, zrThr := (List.range 9).map fun i => leAt m 2 (o + 0x28 + 2 * i) }

/-- The torus record (R295). -/
def torusAt (m : List Host.Cell) (o : Nat) : TorusRec :=
  { len := flashBytes m o 4, cut := (List.range 4).map fun i => bits (leAt m 2 (o + 4)) (4 * i) 4 }

/-- A group record (R297). -/
def groupAt (m : List Host.Cell) (o : Nat) : GroupRec :=
  { groupId := leAt m 2 o, axis := flashRead m (o + 2) % 16, shardTo := leAt m 2 (o + 4), abortTo := leAt m 2 (o + 6)
    members := (List.range (flashRead m (o + 3))).map fun i =>
      let p := o + 32 + 32 * i
      { position := flashRead m p, ports := flashRead m (p + 1) % 128, addr := beAt m 16 (p + 8) } }

/-- A protection-domain record at `p`, its tables' offsets counted from `o` (R258). -/
def pdAt (m : List Host.Cell) (o p : Nat) : PdRec :=
  let so := o + leAt m 4 (p + 8)
  let wo := o + leAt m 4 (p + 12)
  { pdId := leAt m 2 p % 4096, ports := flashRead m (p + 6) % 128, macsecHp := bitAt (flashRead m (p + 7)) 0
    streams := (List.range (leAt m 2 (p + 2))).map fun i =>
      let e := so + 32 * i
      { stream := leAt m 2 e % 2 ^ 14, peerStream := leAt m 2 (e + 2) % 2 ^ 14, peerCtx := leAt m 2 (e + 4) % 1024,
        peerHost := bitAt (leAt m 2 (e + 4)) 15, peerAddr := beAt m 16 (e + 8) }
    windows := (List.range (leAt m 2 (p + 4))).map fun i =>
      let e := wo + 32 * i
      let f := leAt m 2 (e + 2)
      { winId := leAt m 2 e, rd := bitAt f 0, wr := bitAt f 1, phaseReopen := bitAt f 2, base := leAt m 8 (e + 8), size := leAt m 8 (e + 16) } }

/-- The harvest record (R320). -/
def harvestAt (m : List Host.Cell) (o : Nat) : HrvRec :=
  let f := flashRead m (o + 3)
  { buddy0 := flashRead m o, buddy1 := flashRead m (o + 1), pct := flashRead m (o + 2), hostLog := bitAt f 0, spare := bitAt f 1
    sparePos := flashRead m (o + 4), logKeep := flashRead m (o + 5), nsEvery := leAt m 2 (o + 6), areaGranules := leAt m 4 (o + 8)
    pd := pdAt m o (o + leAt m 4 (o + 0x0C)), b0Stream := leAt m 2 (o + 0x10), b1Stream := leAt m 2 (o + 0x12)
    hostStream := leAt m 2 (o + 0x14), hostWin := leAt m 2 (o + 0x16), areaWin := leAt m 2 (o + 0x18) }

/-- A publisher key record (R205). The spec gives no layout: modulus, exponent, then [3:0] the index and [8] PROGRAM, as an operator's entry has it. -/
def keyAt (m : List Host.Cell) (o : Nat) : KeyRec :=
  let w := leAt m 4 (o + 388)
  { index := w % 16, modulus := beAt m 384 o, digest := keyDigest (beAt m 384 o), program := bitAt w 8 }

/-- The operator key record's entries (R377). -/
def operatorsAt (m : List Host.Cell) (o len : Nat) : List OperatorRec :=
  (List.range (len / 392)).map fun i => { modulus := beAt m 384 (o + 392 * i), roles := leAt m 4 (o + 392 * i + 388) }

/-- A region record (R233). -/
def regionAtOff (m : List Host.Cell) (p : Nat) : RegionRec :=
  let c := flashRead m (p + 0x0E)
  let d := flashRead m (p + 0x10)
  { base := leAt m 8 p, granules := leAt m 4 (p + 8), tensorId := leAt m 2 (p + 0x0C), cls := c % 16, recipe := c / 16, layer := flashRead m (p + 0x0F)
    die := d % 16, pair := bits d 4 2, isSealed := bitAt d 6, fmt := flashRead m (p + 0x11) % 16, mate := leAt m 2 (p + 0x12)
    sealId := leAt m 8 (p + 0x18), sealVer := leAt m 4 (p + 0x20), sealTensor := leAt m 2 (p + 0x24)
    rowFirst := leAt m 4 (p + 0x28), rowCount := leAt m 4 (p + 0x2C), colFirst := leAt m 4 (p + 0x30), colCount := leAt m 4 (p + 0x34) }

/-- A phase-schedule record (R213). -/
def schedAt (m : List Host.Cell) (p : Nat) : SchedRec :=
  let f := leAt m 2 (p + 6)
  { genTides := leAt m 3 p, genGrace := leAt m 2 (p + 4), genSeqs := f % 512, carry := bitAt f 9, learnLimit := leAt m 4 (p + 8)
    phaseGroup := leAt m 2 (p + 0x0C), blockAddr := leAt m 8 (p + 0x10) }

/-- An offload entry (R174). -/
def offloadAt (m : List Host.Cell) (p : Nat) : OffloadRec :=
  { tensor := leAt m 2 p, outTide := leAt m 2 (p + 2), outPhase := leAt m 4 (p + 4), backTide := leAt m 2 (p + 8), backPhase := leAt m 4 (p + 0x0C) }

/-- A context record (R232). -/
def ctxAt (m : List Host.Cell) (k : KeyStoreOut) (o : Nat) : CtxRec :=
  let f := flashRead m (o + 2)
  let prog := fun (p : Nat) => if leAt m 4 (o + p + 4) = 0 then none else elfAt m (o + leAt m 4 (o + p)) (leAt m 4 (o + p + 4))
  { ctx := leAt m 2 o, qos := f % 8, rkMask := leAt m 8 (o + 8), startStep := leAt m 8 (o + 0x10), startPos := leAt m 6 (o + 0x18)
    samples := leAt m 2 (o + 0x20), sink := leAt m 2 (o + 0x22)
    gen := if bitAt f 4 then none else prog 0x24, learn := if bitAt f 5 then none else prog 0x2C
    genSeal := if bitAt f 4 then some (leAt m 8 (o + 0x40), leAt m 4 (o + 0x34)) else none
    learnSeal := if bitAt f 5 then some (leAt m 8 (o + 0x48), leAt m 4 (o + 0x38)) else none
    regions := (List.range (leAt m 2 (o + 4))).map fun i => regionAtOff m (o + leAt m 4 (o + 0x50) + 64 * i)
    sched := if bitAt f 3 then some (schedAt m (o + leAt m 4 (o + 0x54))) else none
    offload := (List.range (flashRead m (o + 6))).map fun i => offloadAt m (o + leAt m 4 (o + 0x58) + 16 * i)
    pds := (List.range (flashRead m (o + 3) % 8)).map fun i => pdAt m o (o + leAt m 4 (o + 0x5C) + 64 * i)
    seed := ofLeBytes (confAt m k (o + leAt m 4 (o + 0x60)) 16) }

/-! ### The configuration -/

/-- The entries of a type. -/
def ofType (l : List DirEnt) (t : Nat) : List DirEnt := l.filter fun e => e.typ = t

/-- An adoption set (R368). A port set’s confidential part is taken from the first 64-byte boundary after its entries and addresses. -/
def adoptAt (m : List Host.Cell) (k : KeyStoreOut) (e : DirEnt) : AdoptRec :=
  let d := setDir m e
  let one := fun (t : Nat) => match (ofType d t).head? with | some x => x.off | none => e.off
  { position := flashRead m e.off, torus := torusAt m (one 5), hrv := harvestAt m (one 7)
    ports := (ofType d 0x0C).head?.map fun x => portsAt m k x.off (x.off + 0x70) (x.off + 0x100)
    groups := (ofType d 6).map fun x => groupAt m x.off, ctxs := (ofType d 9).map fun x => ctxAt m k x.off }

/-- Insert a context record by its number. -/
def insCtx (c : CtxRec) : List CtxRec → List CtxRec
  | [] => [c]
  | d :: l => if c.ctx ≤ d.ctx then c :: d :: l else d :: insCtx c l

/-- The whole image, decoded. -/
def imageAt (m : List Host.Cell) (k : KeyStoreOut) : Kartile :=
  let d := imageDir m
  let one := fun (t : Nat) => match (ofType d t).head? with | some x => x.off | none => 0
  let bytes := fun (t : Nat) => match (ofType d t).head? with | some x => flashBytes m x.off x.len | none => []
  let hrv := harvestAt m (one 7)
  { mod := moduleAt m k (one 1), slu := sluiceAt m (one 2), qos := qosAt m (one 3), num := numericAt m (one 4), torus := torusAt m (one 5)
    groups := (ofType d 6).map fun x => groupAt m x.off, hrv := hrv, keys := (ofType d 8).map fun x => keyAt m x.off
    ctxs := ((ofType d 9).map fun x => ctxAt m k x.off).foldr insCtx []
    adopt := (ofType d 0x0A).map (adoptAt m k)
    operators := (ofType d 0x0B).flatMap fun x => operatorsAt m x.off x.len
    hubFw := leAt m 4 (one 0x10), rkFw := leAt m 4 (one 0x11), svn := leAt m 4 8, svnCommit := bitAt (leAt m 2 6) 0
    rootN := beAt m 384 0x80, ownerN := beAt m 384 0x200, headerSha := shaNat (flashBytes m 0 4096)
    hubFwSha := shaNat (bytes 0x10), rkFwSha := shaNat (bytes 0x11), position := if hrv.spare then hrv.sparePos else k.pos }

end Sys2Proof.Machine
end

