-- ==== Sys2Proof/Machine/ImageCheck.lean ====
section
/-! DEFINITION. The verification of an image and its configuration check (R168, R174, R185, R208, R213, R217, R234, R258, R284, R295, R297, R298, R320, R333,
R369, R371). -/
namespace Sys2Proof.Machine
open Sys2Proof

/-! ### What a record is checked against -/

/-- An image with what a check needs to know: its bytes, the key store's part, the packages stored. -/
structure ImgSrc where
  m : List Host.Cell
  k : KeyStoreOut
  pkgs : List Package

/-- The records that one record is checked against: the image's own, or those in force at an adoption set's position (R333). -/
structure Scope where
  pos : Nat
  /-- The image's top level, with the spare role. -/
  spareTop : Bool
  mod : ModuleRec
  slu : SluRec
  torus : TorusRec
  groups : List GroupRec
  hrv : HrvRec

/-- Is the interval from `lo` of `len` bytes inside a record of `all` bytes, at a 64-byte boundary? -/
def partOk (all lo len : Nat) : Bool := decide (lo % 64 = 0 ∧ lo + len ≤ all)

/-- Is every entry of a list distinct? -/
def distinct (l : List Nat) : Bool := l.eraseDups.length = l.length

/-! ### Reason 10: type, count and bounds -/

/-- Bounds of a confidential part (R370). -/
def confOk (all : Nat) (conf : Bool) (lo len least : Nat) : Bool :=
  if conf then partOk all lo len && decide (least ≤ len ∧ len % 64 = 0) else decide (len = 0)

/-- The length of a record by its type (R166, R205, R237, R295, R297, R320, R368, R377). -/
def lenOk (m : List Host.Cell) (inSet : Bool) (e : DirEnt) : Bool :=
  let n := e.len
  if e.typ = 5 then n = 8
  else if e.typ = 6 then decide (32 ≤ n) && n = 32 + 32 * flashRead m (e.off + 3)
  else if e.typ = 7 then decide (64 ≤ n)
  else if e.typ = 9 then decide (128 ≤ n)
  else if inSet then decide (e.typ = 0x0C ∧ (if e.conf then 0x280 else 224) ≤ n)
  else if e.typ = 1 then decide (512 ≤ n) && confOk n e.conf (leAt m 4 (e.off + 0x44)) (leAt m 4 (e.off + 0x48)) 336
  else if e.typ = 2 then n = 64
  else if e.typ = 3 then n = 48
  else if e.typ = 4 then n = 128
  else if e.typ = 8 then n = 392
  else if e.typ = 0x0A then decide (64 ≤ n)
  else if e.typ = 0x0B then decide (n % 392 = 0 ∧ 392 ≤ n ∧ n ≤ 8 * 392)
  else if e.typ = 0x10 ∨ e.typ = 0x11 then decide (388 ≤ n)
  else false

/-- The most records of a type (R367); an adoption set's own directory may name types 5, 6, 7, 9 and 0x0C. -/
def typeMax (inSet : Bool) (t : Nat) : Nat :=
  if inSet then (if t = 5 ∨ t = 7 ∨ t = 0x0C then 1 else if t = 6 then 256 else if t = 9 then 1024 else 0)
  else if t = 6 then 256 else if t = 8 then 16 else if t = 9 then 1024 else if t = 0x0A then 64
  else if (1 ≤ t ∧ t ≤ 7) ∨ t = 0x0B ∨ t = 0x10 ∨ t = 0x11 then 1 else 0

/-- Do two records overlap? -/
def recsMeet (a b : DirEnt) : Bool := decide (a.off < b.off + b.len ∧ b.off < a.off + a.len)

/-- Form of a directory: the index of the first entry that breaks it, or the end where a required record is missing. -/
def dirFault (inSet : Bool) (size : Nat) (d : List DirEnt) : Option Nat :=
  let bad := (List.range d.length).find? fun i =>
    match d[i]? with
    | none => false
    | some e =>
      let before := d.take i
      !e.rsvOk || e.off % 64 ≠ 0 || decide (e.off < 0x1000) || decide (size < e.off + e.len) ||
        before.any (recsMeet e) || decide (typeMax inSet e.typ ≤ (ofType before e.typ).length)
  let need := if inSet then [5, 7] else [1, 2, 3, 4, 5, 7, 0x0B, 0x10, 0x11]
  match bad with
  | some i => some i
  | none => if need.all fun t => !(ofType d t).isEmpty then none else some d.length

/-- The header breaks R366. -/
def headerBad (m : List Host.Cell) : Bool :=
  let size := leAt m 4 0x14
  let dir := leAt m 4 0x18
  let n := leAt m 4 0x1C
  let wrap := leAt m 4 0x20
  let wn := leAt m 4 0x24
  leAt m 4 0 ≠ 0x4954524B || leAt m 2 4 ≠ 1 || decide (1 < leAt m 2 6) || decide (64 < leAt m 4 8) || decide (size < 4160) || decide (slotSize < size) ||
    dir % 64 ≠ 0 || decide (dir < 0x1000) || n = 0 || decide (1500 < n) || decide (size < dir + 16 * n) || decide (128 < wn) ||
    (wn ≠ 0 && decide (size < wrap + 400 * wn)) || !zeroAt m 0x50 0x80 || !zeroAt m 0x680 0x1000

/-! ### Reason 11: the rules of the records' chapters -/

/-- A port entry (R284). -/
def portRecOk (m : List Host.Cell) (o : Nat) (peer attach : Bool) : Bool :=
  let p := portRecAt m o
  decide (p.rateSel < 3) && flashRead m o / 32 = 0 && decide (500 ≤ p.retrainMax ∧ p.retrainMax ≤ 10000) && zeroAt m (o + 4) (o + 16) &&
    !(peer && p.enable && attach && !p.macsec)

def portsOk (m : List Host.Cell) (o : Nat) (attach : Bool) : Bool := (List.range 7).all fun i => portRecOk m (o + 16 * i) (decide (0 < i)) attach

/-- The module record (R27, R31, R35, R147, R149 to R151, R256, R284, R352, R368, R391). -/
def moduleOk (s : ImgSrc) (o : Nat) (spare : Bool) : Bool :=
  let m := s.m
  let r := moduleAt m s.k o
  let w := leAt m 4 (o + 0x10)
  let codes := (List.range 3).map fun i => bits w (4 * i) 4
  decide (50000 ≤ r.period ∧ r.period ≤ 100000000) && decide (1 ≤ r.holdLimit) && decide (100 ≤ r.maxOffset ∧ r.maxOffset ≤ 10000) &&
  codes.all (fun c => decide (c ≤ 3)) && distinct (codes.filter (· ≠ 0)) && bits w 13 3 = 0 && bits w 24 8 = 0 &&
  decide (16 ≤ r.calEvery) && decide (3 ≤ r.silentTides ∧ 2000000 ≤ r.silentTides * r.period) && leAt m 4 (o + 0x14) / 2 ^ 25 = 0 && decide (r.calPhase < r.period) &&
  (r.rake.zip [24, 168, 336, 90]).all (fun p => decide (1 ≤ p.1 ∧ p.1 ≤ p.2)) && flashRead m (o + 0x27) = 0 &&
  decide (1024 ≤ r.udpPort) && decide (1 ≤ r.entropy ∧ r.entropy ≤ 256) && leAt m 4 (o + 0x28) / 2 ^ 25 = 0 && decide (100 ≤ r.mplUs ∧ r.mplUs ≤ 100000) &&
  decide (10 ≤ r.rtoMin ∧ r.rtoMin ≤ 10000) && decide (1 ≤ r.targetDelay ∧ r.targetDelay ≤ 1000) && decide (1024 ≤ r.ompPort) &&
  r.dscp.all (fun d => decide (d < 64)) && decide (250 ≤ r.powerCap ∧ r.powerCap ≤ 600) && decide (r.modSink < 16384) && zeroAt m (o + 0x4C) (o + 0x80) &&
  portsOk m (o + 0x80) r.attach && zeroAt m (o + 0x160) (o + 0x200) && !(spare && !r.attach) &&
  !((r.beaconTx || r.sources.contains .beacon) && decide (r.period < 1000000))

/-- A class entry of the sluice record (R166, R168). -/
def sluClassOk (w : Nat) : Bool :=
  let k := sluClassOf w
  w / 2 ^ 11 = 0 && (k.allowT1 || k.allowT2) && (if k.restPref = 0 then k.allowT1 else k.allowT2) && !(k.offload && !(k.allowT1 && k.allowT2)) &&
    !(k.offload && k.pin) && (if k.prefetch then decide (1 ≤ k.depth ∧ k.depth ≤ 8) else k.depth = 0)

/-- The sluice record (R168). -/
def sluiceOk (m : List Host.Cell) (o : Nat) : Bool :=
  let r := sluiceAt m o
  decide (10 ≤ r.ceilPct ∧ r.ceilPct ≤ 90) && decide (1 ≤ r.retRate ∧ r.retRate ≤ 128) && zeroAt m (o + 2) (o + 4) &&
    ((List.range 9).all fun i => sluClassOk (leAt m 4 (o + 4 + 4 * i))) && decide (r.minOps.sum ≤ 28672) && zeroAt m (o + 0x38) (o + 0x40)

/-- The QoS record (R237). -/
def qosOk (m : List Host.Cell) (o : Nat) : Bool :=
  let r := qosAt m o
  r.weight.all (· ≠ 0) && r.evtRate.all (· ≠ 0) && r.evtBurst.all (· ≠ 0) && decide (flashRead m (o + 0x20) ≤ 4) && zeroAt m (o + 0x21) (o + 0x30)

/-- The numeric record (R100, R103, R368). -/
def numericOk (m : List Host.Cell) (o : Nat) : Bool :=
  let n := leAt m 4 o
  decide (8 ≤ n ∧ n ≤ 20) && ((List.range 9).all fun i => decide (leAt m 4 (o + 4 + 4 * i) < 3 * 2 ^ 16)) && zeroAt m (o + 0x3A) (o + 0x80)

/-- The torus record (R295, R333). -/
def torusOk (m : List Host.Cell) (o : Nat) (c : Scope) : Bool :=
  let t := torusAt m o
  t.len.all (fun n => decide (1 ≤ n ∧ n ≤ 16)) && t.cut.all (fun n => decide (n ≤ 4)) && leAt m 2 (o + 6) = 0 && decide (torusSize t ≤ 64) &&
    (t.len.zip t.cut).all (fun p => decide (p.1 = 1 ↔ p.2 = 0)) && distinct (t.cut.filter (· ≠ 0)) && (c.mod.attach || t.len.getD 3 1 = 1) &&
    (c.spareTop || decide (c.pos < torusSize t))

/-- A group record (R297). -/
def groupOk (m : List Host.Cell) (o : Nat) (c : Scope) (earlier : List Nat) : Bool :=
  let g := groupAt m o
  let me := coordsOf c.torus c.pos
  let ps := g.members.map (·.position)
  let axis := (List.range (c.torus.len.getD g.axis 1)).map fun i => posAt c.torus (me.set g.axis i)
  let beside := fun p => p ≠ c.pos && (p = plusOf c.torus c.pos g.axis || p = minusOf c.torus c.pos g.axis)
  g.groupId ≠ 0xFFFF && !earlier.contains g.groupId && decide (flashRead m (o + 2) / 16 = 0) && decide (g.axis < 4 ∨ g.axis = 15) &&
    decide (1 ≤ g.members.length ∧ g.members.length ≤ 64) && decide (1 ≤ g.shardTo ∧ g.shardTo ≤ 1024) && decide (2 * g.shardTo ≤ g.abortTo) && zeroAt m (o + 8) (o + 32) &&
    ((List.range g.members.length).all fun i =>
      let p := o + 32 + 32 * i
      decide (flashRead m p ≤ 63) && decide (flashRead m (p + 1) < 128) && zeroAt m (p + 2) (p + 8) && zeroAt m (p + 0x18) (p + 0x20)) &&
    distinct ps && ps.contains c.pos && !c.spareTop && (g.axis = 15 || ps = axis) &&
    (c.mod.attach || g.axis = 15 || g.members.all fun x => !beside x.position || x.ports &&& axisPorts g.axis = x.ports)

/-- A protection-domain record at `p` of a record of `all` bytes at `o` (R258). -/
def pdOk (m : List Host.Cell) (o p all : Nat) : Bool :=
  let ns := leAt m 2 (p + 2)
  let nw := leAt m 2 (p + 4)
  let so := leAt m 4 (p + 8)
  let wo := leAt m 4 (p + 12)
  decide (leAt m 2 p < 4096) && decide (1 ≤ ns ∧ ns ≤ 16384) && decide (flashRead m (p + 6) < 128) && decide (flashRead m (p + 7) < 2) && zeroAt m (p + 0x10) (p + 0x40) &&
    partOk all so (32 * ns) && partOk all wo (32 * nw) &&
    ((List.range ns).all fun i =>
      let e := o + so + 32 * i
      decide (leAt m 2 e < 2 ^ 14) && decide (leAt m 2 (e + 2) < 2 ^ 14) && bits (leAt m 2 (e + 4)) 10 5 = 0 && leAt m 2 (e + 6) = 0 && zeroAt m (e + 0x18) (e + 0x20)) &&
    ((List.range nw).all fun i =>
      let e := o + wo + 32 * i
      decide (leAt m 2 (e + 2) < 8) && leAt m 4 (e + 4) = 0 && leAt m 8 (e + 8) % 64 = 0 && leAt m 8 (e + 16) % 64 = 0 && decide (64 ≤ leAt m 8 (e + 16)) && zeroAt m (e + 24) (e + 32))

/-- The numbers that must be unique in an image: domains, streams and windows (R258). -/
structure PdIds where
  pds : List Nat := []
  streams : List Nat := []
  wins : List Nat := []
  deriving DecidableEq, Repr

def idsOf (l : List PdRec) : PdIds :=
  { pds := l.map (·.pdId), streams := l.flatMap fun d => d.streams.map (·.stream), wins := l.flatMap fun d => d.windows.map (·.winId) }

/-- Are the numbers of some domains new and distinct, within the module's totals (R234)? -/
def idsOk (earlier l : List PdRec) : Bool :=
  let a := idsOf (earlier ++ l)
  distinct a.pds && distinct a.streams && distinct a.wins && decide (a.pds.length ≤ 4096 ∧ a.streams.length ≤ 16384 ∧ a.wins.length ≤ 65536)

/-- The harvest record (R320). -/
def harvestOk (s : ImgSrc) (e : DirEnt) (c : Scope) (earlier : List PdRec) : Bool :=
  let m := s.m
  let o := e.off
  let r := harvestAt m o
  let hpd := leAt m 4 (o + 0x0C)
  let has := fun (n : Nat) => r.pd.streams.any fun x => x.stream = n
  decide (flashRead m (o + 3) < 4) && (if r.spare then decide (64 ≤ r.sparePos ∧ r.sparePos ≤ 71) else r.sparePos = 0) &&
    (r.spare || decide (r.buddy0 ≤ 63 ∧ r.buddy1 ≤ 63 ∧ r.buddy0 ≠ c.pos ∧ r.buddy1 ≠ c.pos ∧ r.buddy0 ≠ r.buddy1)) &&
    decide (1 ≤ r.pct ∧ r.pct ≤ 100) && decide (2 ≤ r.logKeep ∧ r.logKeep ≤ 64) && decide (100 ≤ r.nsEvery) && decide (1 ≤ r.areaGranules ∧ r.areaGranules ≤ 65536) &&
    zeroAt m (o + 0x1A) (o + 0x40) && partOk e.len hpd 64 && pdOk m o (o + hpd) e.len && idsOk earlier [r.pd] && has r.b0Stream && has r.b1Stream &&
    (r.pd.streams.any fun x => x.stream = r.hostStream && x.peerHost) && (r.pd.windows.any fun w => w.winId = r.areaWin)

/-- The publisher key record (R205). -/
def keyOkAt (m : List Host.Cell) (o : Nat) (earlier : List Nat) : Bool :=
  beAt m 4 (o + 384) = 65537 && decide (leAt m 4 (o + 388) &&& 0xFFFFFEF0 = 0) && !earlier.contains (keyAt m o).digest

/-- The operator key record (R366, R377). -/
def operatorsOk (m : List Host.Cell) (o len : Nat) : Bool :=
  (List.range (len / 392)).all fun i => beAt m 4 (o + 392 * i + 384) = 65537 && decide (leAt m 4 (o + 392 * i + 388) < 16)

/-- Stored formats, classes and recipes (R185, R234). -/
def recipeOk (r : RegionRec) : Bool :=
  let fc : Option (Nat × List Nat) :=
    if r.recipe = 1 then some (5, [0, 1, 2]) else if r.recipe = 2 then some (6, [2, 4, 7]) else if r.recipe = 3 then some (0, [4])
    else if r.recipe = 4 then some (0, [5]) else if r.recipe = 5 then some (1, [0, 6]) else if r.recipe = 6 then some (3, [3]) else none
  if r.recipe = 0 then decide (r.fmt < 0xA ∨ r.fmt = 0xF)
  else match fc with
    | some (f, cs) => r.fmt = f && cs.contains r.cls
    | none => false

/-- A region's seal source (R208), and room for its layout (R209); whether the rows and columns lie within the tensor is judged where the package is stored. -/
def sealOk (pkgs : List Package) (r : RegionRec) : Bool :=
  if r.isSealed then
    r.cls = 1 && decide (tileBytes r ≤ regionBytes r) && decide (r.recipe ≤ 1) && (r.recipe ≠ 1 || (r.colFirst % 32 = 0 && r.colCount % 32 = 0)) &&
      (match pkgs.find? fun k => k.id = r.sealId && k.ver = r.sealVer with
        | none => true
        | some k => match k.tensors[r.sealTensor]? with
          | none => false
          | some t => decide (r.rowFirst + r.rowCount ≤ t.rows ∧ r.colFirst + r.colCount ≤ t.cols))
  else r.sealId = 0 && r.sealVer = 0 && r.sealTensor = 0 && r.rowFirst = 0 && r.rowCount = 0 && r.colFirst = 0 && r.colCount = 0

/-- The mate of a region of the weight pair (R217). -/
def mateOk (rs : List RegionRec) (r : RegionRec) : Bool :=
  if r.pair = 0 then true
  else
    decide (r.pair < 3) && r.cls = 0 && decide (r.recipe ≤ 1) && (match rs.find? fun x => x.tensorId = r.mate with
      | none => false
      | some x => decide (x.pair + r.pair = 3 ∧ x.granules = r.granules ∧ x.recipe = r.recipe ∧ x.layer = r.layer ∧ x.mate = r.tensorId))

/-- The region table of a context (R161, R185, R208, R217, R233, R234). -/
def regionsOk (s : ImgSrc) (tab : Nat) (rs : List RegionRec) : Bool :=
  let m := s.m
  ((List.range rs.length).all fun i =>
    let p := tab + 64 * i
    decide (flashRead m (p + 0x10) < 128) && decide (flashRead m (p + 0x11) < 16) && leAt m 4 (p + 0x14) = 0 && leAt m 2 (p + 0x26) = 0 && zeroAt m (p + 0x38) (p + 0x40)) &&
  rs.all (fun r => r.base % granBytes = 0 && decide (1 ≤ r.granules) && decide (r.base + regionBytes r ≤ 2 ^ 47) && decide (r.cls ≤ 8) &&
    decide (r.die < 4 ∨ r.die = 15) && recipeOk r && sealOk s.pkgs r && mateOk rs r) &&
  distinct (rs.map (·.tensorId)) &&
  rs.all fun r => rs.all fun x => x.tensorId = r.tensorId || decide (x.base + regionBytes x ≤ r.base ∨ r.base + regionBytes r ≤ x.base)

/-- Is a stream of the context there for every other member of a group (R298)? -/
def groupReached (c : CtxRec) (pos : Nat) (g : GroupRec) : Bool :=
  g.members.all fun m => m.position = pos || c.pds.any fun d => d.streams.any fun e => e.peerAddr = m.addr && !e.peerHost && e.peerCtx = c.ctx

/-- The phase schedule (R213, R217, R298). -/
def schedOk (m : List Host.Cell) (p : Nat) (c : CtxRec) (k : Scope) : Bool :=
  let r := schedAt m p
  decide (1 ≤ r.genTides) && flashRead m (p + 3) = 0 && decide (1 ≤ r.genGrace) && decide (1 ≤ r.genSeqs ∧ r.genSeqs ≤ 256) && decide (leAt m 2 (p + 6) < 1024) &&
    leAt m 2 (p + 0x0E) = 0 && leAt m 8 (p + 0x18) = 0 && r.blockAddr % 64 = 0 &&
    (c.regions.any fun x => x.cls = 7 && decide (x.base ≤ r.blockAddr ∧ r.blockAddr + 64 ≤ x.base + regionBytes x)) &&
    (c.regions.any fun x => x.pair ≠ 0) &&
    (k.groups.any fun g => g.groupId = r.phaseGroup && (g.members.any fun x => x.position = k.pos) && groupReached c k.pos g)

/-- The offload plan (R174). -/
def offloadOk (m : List Host.Cell) (p : Nat) (c : CtxRec) (k : Scope) : Bool :=
  ((List.range c.offload.length).all fun i => leAt m 2 (p + 16 * i + 10) = 0) && distinct (c.offload.map (·.tensor)) &&
    c.offload.all fun e =>
      decide (e.outPhase < k.mod.period ∧ e.backPhase < k.mod.period ∧ (e.outTide < e.backTide ∨ (e.outTide = e.backTide ∧ e.outPhase < e.backPhase))) &&
      (c.regions.any fun r => r.tensorId = e.tensor && r.layer ≠ 0xFF && (k.slu.classes.getD r.cls {}).offload)

/-- A program that a seal package holds keeps the limits of R131, where the package is stored. -/
def sealedProgOk (pkgs : List Package) (x : Nat × Nat) : Bool :=
  match pkgs.find? fun k => k.id = x.1 && k.ver = x.2 with
  | some k => k.prog.isSome
  | none => true

/-- A context record (R131, R232 to R234, R258). -/
def ctxOk (s : ImgSrc) (e : DirEnt) (k : Scope) (earlier : List CtxRec) (earlierPds : List PdRec) : Bool :=
  let m := s.m
  let o := e.off
  let c := ctxAt m s.k o
  let f := flashRead m (o + 2)
  let all := leAt m 4 (o + 0x68)
  let part := fun (p n : Nat) => partOk all (leAt m 4 (o + p)) n
  let prog := fun (p : Nat) => if leAt m 4 (o + p + 4) = 0 then leAt m 4 (o + p) = 0 else (part p (leAt m 4 (o + p + 4)) && (elfAt m (o + leAt m 4 (o + p)) (leAt m 4 (o + p + 4))).isSome)
  let genThere := bitAt f 4 || leAt m 4 (o + 0x28) ≠ 0
  let learnThere := bitAt f 5 || leAt m 4 (o + 0x30) ≠ 0
  all = e.len && decide (c.ctx ≤ 1023) && !(earlier.any fun x => x.ctx = c.ctx) && decide (f < 64) && decide (flashRead m (o + 3) ≤ 4) &&
    decide (1 ≤ c.regions.length ∧ c.regions.length ≤ 4096) && decide (c.offload.length ≤ 64) && flashRead m (o + 7) = 0 && c.rkMask ≠ 0 && leAt m 2 (o + 0x1E) = 0 &&
    decide (c.sink < 16384) && leAt m 4 (o + 0x3C) = 0 && zeroAt m (o + 0x6C) (o + 0x80) &&
    part 0x50 (64 * c.regions.length) && part 0x54 (if bitAt f 3 then 32 else 0) && part 0x58 (16 * c.offload.length) && part 0x5C (64 * c.pds.length) &&
    confOk all e.conf (leAt m 4 (o + 0x60)) (leAt m 4 (o + 0x64)) 64 && leAt m 4 (o + 0x60) % 64 = 0 && prog 0x24 && prog 0x2C && (c.genSeal.toList ++ c.learnSeal.toList).all (sealedProgOk s.pkgs) && (bitAt f 3 = genThere) && learnThere &&
    regionsOk s (o + leAt m 4 (o + 0x50)) c.regions &&
    ((List.range c.pds.length).all fun i => pdOk m o (o + leAt m 4 (o + 0x5C) + 64 * i) all) && idsOk earlierPds c.pds &&
    (c.pds.any fun d => d.streams.any fun x => x.stream = c.sink) &&
    (c.pds.all fun d => d.windows.all fun w => c.regions.any fun r => decide (r.base ≤ w.base ∧ w.base + w.size ≤ r.base + regionBytes r)) &&
    (!bitAt f 3 || schedOk m (o + leAt m 4 (o + 0x54)) c k) && offloadOk m (o + leAt m 4 (o + 0x58)) c k &&
    decide (((earlier ++ [c]).map fun x => match x.sched with | some y => y.genSeqs | none => 0).sum ≤ 256) && !k.spareTop

/-! ### The check in order (R371) -/

/-- What the records before one in a directory have taken. -/
structure Taken where
  groups : List Nat := []
  keys : List Nat := []
  ctxs : List CtxRec := []
  pds : List PdRec := []

/-- A record is taken note of. -/
def takeRec (s : ImgSrc) (t : Taken) (e : DirEnt) : Taken :=
  if e.typ = 6 then { t with groups := t.groups ++ [leAt s.m 2 e.off] }
  else if e.typ = 7 then { t with pds := t.pds ++ [(harvestAt s.m e.off).pd] }
  else if e.typ = 8 then { t with keys := t.keys ++ [(keyAt s.m e.off).digest] }
  else if e.typ = 9 then
    let c := ctxAt s.m s.k e.off
    { t with ctxs := t.ctxs ++ [c], pds := t.pds ++ c.pds }
  else t

/-- Does a record that is no adoption set keep the rules of its chapter? -/
def recOk (s : ImgSrc) (k : Scope) (t : Taken) (e : DirEnt) : Bool :=
  let m := s.m
  if e.typ = 1 then moduleOk s e.off k.spareTop && pairsOk k.torus k.mod.attach k.mod.ports
  else if e.typ = 2 then sluiceOk m e.off
  else if e.typ = 3 then qosOk m e.off
  else if e.typ = 4 then numericOk m e.off
  else if e.typ = 5 then torusOk m e.off k
  else if e.typ = 6 then groupOk m e.off k t.groups
  else if e.typ = 7 then harvestOk s e k t.pds
  else if e.typ = 8 then keyOkAt m e.off t.keys
  else if e.typ = 9 then ctxOk s e k t.ctxs t.pds
  else if e.typ = 0x0B then operatorsOk m e.off e.len
  else if e.typ = 0x0C then portsOk m e.off k.mod.attach && pairsOk k.torus k.mod.attach ((List.range 7).map fun i => portRecAt m (e.off + 16 * i))
  else true

/-- What is wrong with a record that is no adoption set: reason 10 is judged before reason 11 (R371). -/
def recFault (s : ImgSrc) (k : Scope) (inSet : Bool) (t : Taken) (e : DirEnt) : Option Nat :=
  if !lenOk s.m inSet e then some 10 else if recOk s k t e then none else some 11

/-- The reason of the first embedded record that breaks a rule. -/
def firstBad (s : ImgSrc) (k : Scope) : Taken → List DirEnt → Option Nat
  | _, [] => none
  | t, e :: l => match recFault s k true t e with
    | some r => some r
    | none => firstBad s k (takeRec s t e) l

/-- The scope of an adoption set (R333). -/
def setScope (s : ImgSrc) (top : Scope) (e : DirEnt) : Scope :=
  let a := adoptAt s.m s.k e
  { top with pos := a.position, spareTop := false, torus := a.torus, groups := a.groups, hrv := a.hrv }

/-- What is wrong with an adoption set: reason 10 before reason 11 (R368, R371). Packages it names must be stored (R333). -/
def setFault (s : ImgSrc) (top : Scope) (size : Nat) (e : DirEnt) : Option Nat :=
  let o := leAt s.m 4 (e.off + 4)
  let n := leAt s.m 4 (e.off + 8)
  let d := setDir s.m e
  if !lenOk s.m false e || o % 64 ≠ 0 || decide (n = 0 ∨ 1500 < n) || decide (o < e.off) || decide (e.off + e.len < o + 16 * n) || (dirFault true size d).isSome then some 10
  else
    let k := setScope s top e
    let named := (adoptAt s.m s.k e).ctxs.flatMap fun c =>
      (c.regions.filter (·.isSealed)).map (fun r => (r.sealId, r.sealVer)) ++ c.genSeal.toList ++ c.learnSeal.toList
    if 63 < flashRead s.m e.off then some 11
    else match firstBad s k {} d with
      | some r => some r
      | none => if named.any fun x => !(s.pkgs.any fun p => p.id = x.1 && p.ver = x.2) then some 11 else none

/-- Walk the directory in order: the first record that breaks a rule, with its reason and index. -/
def walkDir (s : ImgSrc) (k : Scope) (size : Nat) : Taken → Nat → List DirEnt → Option (Nat × Nat)
  | _, _, [] => none
  | t, i, e :: l =>
    let here := if e.typ = 0x0A then setFault s k size e else recFault s k false t e
    match here with
    | some r => some (r, i)
    | none => walkDir s k size (takeRec s t e) (i + 1) l

/-- Every entry of the image's directories that holds a confidential part, with the index it is reported under. -/
def confEntries (m : List Host.Cell) : List Nat :=
  ((imageDir m).zipIdx.filter fun p => p.1.conf || (p.1.typ = 0x0A && (setDir m p.1).any (·.conf))).map (·.2)

/-- A firmware record of a directory that does not verify under the root key: its index, or 0xFFFF where there is none (R367, R369). -/
def fwFault (m : List Host.Cell) (rootN typ : Nat) : Option Nat :=
  match (imageDir m).zipIdx.find? fun p => p.1.typ = typ with
  | none => some 0xFFFF
  | some (e, i) =>
    if 388 ≤ e.len && decide (e.off + e.len ≤ slotSize) && sigVerifies rootN (flashBytes m e.off (e.len - 384)) (beAt m 384 (e.off + e.len - 384)) then none else some i

/-- Why a slot's image is refused (R369): the first failing check's reason, and the directory index. Confidential parts are beyond reach where the key store
withholds the image key (R384). -/
def imageFault (s : ImgSrc) (sec : SecSt) : Option (Nat × Nat) :=
  let m := s.m
  let rootN := beAt m 384 0x80
  let ownerN := beAt m 384 0x200
  let size := leAt m 4 0x14
  let d := imageDir m
  let conf := confEntries m
  if keyDigest rootN ≠ sec.rootHash then some (1, 0xFFFF)
  else if !sigVerifies rootN (flashBytes m 0x28 8 ++ beBytes 384 ownerN ++ beBytes 4 65537) (beAt m 384 0x380) then some (2, 0xFFFF)
  else if !sigVerifies ownerN (flashBytes m 0 0x500) (beAt m 384 0x500) then some (3, 0xFFFF)
  else if sha256 (flashBytes m 0x1000 (min slotSize size - 0x1000)) ≠ flashBytes m 0x30 32 then some (4, 0xFFFF)
  else match (fwFault m rootN 0x10) <|> (fwFault m rootN 0x11) with
    | some i => some (5, i)
    | none =>
      if leAt m 4 8 < sec.minSvn then some (6, 0xFFFF)
      else if sec.ownerHash.any fun h => h ≠ keyDigest ownerN then some (7, 0xFFFF)
      else if !conf.isEmpty && ((wrapFor m sec.serial).isNone || (decide (sec.unlock ≠ 2) && s.k.key.isNone)) then some (8, conf.headD 0xFFFF)
      else if leAt m 4 0x0C ≠ 0x00511024 || !bitAt (leAt m 4 0x10) 4 then some (9, 0xFFFF)
      else if headerBad m then some (10, 0xFFFF)
      else
        let hrv := match (ofType d 7).head? with | some e => harvestAt m e.off | none => {}
        match dirFault false size d with
        | some i => some (10, if i < d.length then i else 0xFFFF)
        | none =>
          match d.zipIdx.find? fun p => p.1.typ = 0x0A && !hrv.spare with
          | some (_, i) => some (10, i)
          | none =>
            let c := imageAt m s.k
            walkDir s { pos := c.position, spareTop := hrv.spare, mod := c.mod, slu := c.slu, torus := c.torus, groups := c.groups, hrv := hrv } size {} 0 d

/-- What a module of an active position makes of the image in a slot (R369 to R373). A slot that is not VALID is not read at boot. -/
def readImage (pkgs : List Package) (sec : SecSt) (slot : SlotSt) (pos : Nat) : ImageVerdict :=
  let k : KeyStoreOut := { pos := pos, key := if sec.unlock = 2 then none else contentKey slot.bytes sec }
  match imageFault { m := slot.bytes, k := k, pkgs := pkgs } sec with
  | some (r, i) => .refuse r i
  | none => .accept (imageAt slot.bytes k)

end Sys2Proof.Machine
end

