-- ==== Sys2Proof/Machine/Harvest.lean ====
section
/-! DEFINITION. Captures, their choice of method and their drains (R318 to R326). -/
namespace Sys2Proof.Machine
open Sys2Proof

/-! ### What a capture takes (R318, R322, R323) -/

/-- The saved regions: classes W, O and B, of the pair only the CURRENT buffer. -/
def savedRegions (c : Ctx) (cur : Nat) : List RegionRec :=
  c.rec_.regions.filter fun r => (r.cls = 0 || r.cls = 5 || r.cls = 6) && (r.pair = 0 || r.pair = cur + 1)

/-- Granules of a region written since the previous capture. -/
def writtenIn (c : Ctx) (r : RegionRec) : List Nat := (regionGrans r).filter c.hrv.written.contains

/-- Does a region go by harvest: 64 MiB at least, and less than HRV_PCT percent of it written; the CURRENT paired buffer always (R323)? -/
def byHarvest (c : Ctx) (pct : Nat) (r : RegionRec) : Bool :=
  r.pair ≠ 0 || (decide (32 ≤ r.granules) && decide ((writtenIn c r).length * 100 < pct * r.granules))

/-- The granules of a harvested region that a destination needs: those written since its older copy was made; all where it is absent (R324). -/
def harvestGrans (c : Ctx) (r : RegionRec) : List Nat :=
  if 2 ≤ c.hrv.copies.get 0 r.tensorId then
    (regionGrans r).filter fun g => c.hrv.written.contains g || c.hrv.prev.contains g
  else regionGrans r

/-- The stream to a destination: 0 BUDDY0, 1 BUDDY1, 2 host (R320). -/
def Blk.destStream (b : Blk) (dest : Nat) : Nat :=
  if dest = 0 then b.cfg.hrv.b0Stream else if dest = 1 then b.cfg.hrv.b1Stream else b.cfg.hrv.hostStream

/-- The window it writes into: the host's; the spec gives no number for a buddy's, nor any generation: free. -/
def Blk.destWin (b : Blk) (dest : Nat) : Nat :=
  if dest = 2 then b.cfg.hrv.hostWin else Config.freeNat (b.freeCtr + dest) % 2 ^ 16

/-! ### The scalar record (R319) -/

/-- The bytes of a group record (R297). -/
def groupBytes (g : GroupRec) : List Nat :=
  leBytes 2 g.groupId ++ [g.axis % 16, g.members.length % 256] ++ leBytes 2 g.shardTo ++ leBytes 2 g.abortTo ++ leBytes 24 0 ++
    g.members.flatMap fun m => [m.position % 256, m.ports % 128] ++ leBytes 6 0 ++ beBytes 16 m.addr ++ leBytes 8 0

/-- Insert a group in GROUP_ID order. -/
def insGroup (g : GroupRec) : List GroupRec → List GroupRec
  | [] => [g]
  | h :: t => if g.groupId ≤ h.groupId then g :: h :: t else h :: insGroup g t

/-- GROUP_DIGEST of this module (R319). -/
def Blk.groupDigest (b : Blk) : Nat := shaNat ((b.cfg.groups.foldr insGroup []).flatMap groupBytes)

/-- SEED_DIGEST of a context (R319). -/
def seedDigest (c : Ctx) : Nat := shaNat (leBytes 16 c.rec_.seed)

/-- A phase schedule's record (R213). -/
def schedBytes (r : SchedRec) : List Nat :=
  leBytes 3 r.genTides ++ [0] ++ leBytes 2 r.genGrace ++ leBytes 2 (r.genSeqs % 512 + b2n r.carry * 512) ++ leBytes 4 r.learnLimit ++ leBytes 2 r.phaseGroup ++
    leBytes 2 0 ++ leBytes 8 r.blockAddr ++ leBytes 8 0

/-- A phase schedule read from its record. -/
def schedOf (l : List Nat) : SchedRec :=
  let f := fieldAt l 6 2
  { genTides := fieldAt l 0 3, genGrace := fieldAt l 4 2, genSeqs := f % 512, carry := bitAt f 9, learnLimit := fieldAt l 8 4, phaseGroup := fieldAt l 0x0C 2
    blockAddr := fieldAt l 0x10 8 }

/-- A context's windows, in the order of its record. -/
def ctxWins (c : Ctx) : List Nat := c.rec_.pds.flatMap fun d => d.windows.map (·.winId)

/-- What a capture saves beside the regions, at this instant; `digests` are those of the saved regions' bytes. -/
def Blk.scalarOf (b : Blk) (c : Ctx) (digests : Tbl Nat) : ScalarRec :=
  { step := c.step, pos := c.pos, seedSha := seedDigest c, counters := c.draws, epoch := c.epoch, groupSha := b.groupDigest
    recipes := c.rec_.regions.map fun r => let x := c.regions.get {} r.tensorId; (r.tensorId, x.recipe, x.zrun)
    winGens := (ctxWins c).map fun w => (w, (b.winOf w).gen)
    curBuf := currentBuf c, version := (bufOf c (currentBuf c)).ver, sched := c.rec_.sched, digests := digests }

/-- The bytes of a scalar record: the items of R319 in the order of its table, one after the other (DESIGN CHOICE, log 39). -/
def scalarBytes (r : ScalarRec) : List Nat :=
  leBytes 8 r.step ++ leBytes 6 r.pos ++ leBytes 32 r.seedSha ++
    ((List.range 256).flatMap fun n => let x := r.counters.get (0, 0) n; leBytes 6 x.2 ++ leBytes 4 x.1) ++
    leBytes 4 r.epoch ++ leBytes 32 r.groupSha ++ (r.recipes.flatMap fun e => leBytes 4 e.2.1 ++ leBytes 4 e.2.2) ++ (r.winGens.flatMap fun e => leBytes 4 e.2) ++
    leBytes 8 r.curBuf ++ leBytes 8 r.version ++ (match r.sched with | some k => schedBytes k | none => List.replicate 32 0) ++ r.digests.flatMap fun e => leBytes 32 e.2

/-- The counters of streams n, n + 1, … read from ten bytes each; a stream that has drawn nothing has no entry (R319). -/
def countersAt : Nat → Nat → List Nat → Tbl (Nat × Nat)
  | 0, _, _ => []
  | f + 1, n, l =>
    let x := (fieldAt l 6 4, fieldAt l 0 6)
    let rest := countersAt f (n + 1) (l.drop 10)
    if x = (0, 0) then rest else (n, x) :: rest

/-- A scalar record read from its bytes, for a context with its regions and windows. -/
def scalarAt (c : Ctx) (l : List Nat) : ScalarRec :=
  let rs := c.rec_.regions
  let ws := ctxWins c
  let w0 := 2642 + 8 * rs.length
  let p0 := w0 + 4 * ws.length
  let cur := fieldAt l p0 8
  { step := fieldAt l 0 8, pos := fieldAt l 8 6, seedSha := fieldAt l 14 32
    counters := countersAt 256 0 (l.drop 46)
    epoch := fieldAt l 2606 4, groupSha := fieldAt l 2610 32
    recipes := (List.range rs.length).map fun i => ((rs.getD i {}).tensorId, fieldAt l (2642 + 8 * i) 4, fieldAt l (2646 + 8 * i) 4)
    winGens := (List.range ws.length).map fun i => (ws.getD i 0, fieldAt l (w0 + 4 * i) 4)
    curBuf := cur, version := fieldAt l (p0 + 8) 8, sched := c.rec_.sched.map fun _ => schedOf (l.drop (p0 + 16))
    digests := (List.range (savedRegions c cur).length).map fun i => (((savedRegions c cur).getD i {}).tensorId, fieldAt l (p0 + 48 + 32 * i) 32) }

/-! ### Drains (R324 to R326) -/

/-- Send one item to a destination: a granule of memory, or bytes; where in its slot it lies is the module's own (R319, R321): free. -/
def Blk.drainMsg (b : Blk) (ctx dest : Nat) (addr : Option Nat) (len : Nat) (bytes : List Nat) : Blk :=
  let b := b.spend
  b.issue (b.destStream dest)
    { typ := tWrite, ctx := ctx, msgId := 0, psn := 0, count := 0, winId := b.destWin dest, winGen := Config.freeNat (b.freeCtr + 3) % 2 ^ 16,
      len := len, addr := addr, data := bytes, off := Config.freeNat b.freeCtr % 2 ^ 64, use_ := .harvest ctx dest }

/-- A FLUSH ends a drain (R324). -/
def Blk.drainFlush (b : Blk) (ctx dest : Nat) : Blk :=
  let n := b.destStream dest
  let id := b.nextMsg n
  let b := b.issue n { typ := tFlush, ctx := ctx, msgId := 0, psn := 0, count := 0, use_ := .harvest ctx dest }
  b.modCtx ctx fun c => { c with hrv := { c.hrv with cap := c.hrv.cap.map fun k =>
    { k with drains := k.drains.map fun d => if d.dest = dest then { d with flush := some (n, id) } else d } } }

/-- Begin the drain of a capture to one destination. -/
def Blk.startDrain (b : Blk) (ctx dest : Nat) (gs : List Nat) (scalar : List Nat) : Blk :=
  let b := b.modCtx ctx fun c => { c with hrv := { c.hrv with cap := c.hrv.cap.map fun k =>
    { k with drains := k.drains ++ [{ dest := dest, since := b.tide.num }] } } }
  let b := gs.foldl (fun b g => b.drainMsg ctx dest (some (g * granBytes)) granBytes []) b
  (b.drainMsg ctx dest none scalar.length scalar).drainFlush ctx dest

/-- A capture of a context at this instant, of memory as it stands (R222, R319, R322 to R325). -/
def Blk.capture (b : Blk) (mem : List Host.Cell) (ctx : Nat) : Blk :=
  let c := b.ctx ctx
  let rs := savedRegions c (currentBuf c)
  let hs := rs.filter (byHarvest c b.cfg.hrv.pct)
  let ls := rs.filter fun r => !byHarvest c b.cfg.hrv.pct r
  let hg := hs.flatMap (harvestGrans c)
  let lg := ls.flatMap regionGrans
  let n := scalarBytes (b.scalarOf c (rs.map fun r => (r.tensorId, shaNat (memBytes mem (memKey ctx r.base) (regionBytes r)))))
  let cap : Capture := { step := c.step, at_ := b.tide.num, unsent := hg ++ lg, harvest := hs.map (·.tensorId), log := ls.map (·.tensorId), scalar := n }
  let b := b.setCtx ctx { c with hrv := { c.hrv with
    cap := some cap, prev := c.hrv.written, written := [], lastAt := b.tide.num, cowAt := []
    copies := rs.map fun r => (r.tensorId, if byHarvest c b.cfg.hrv.pct r then c.hrv.copies.get 0 r.tensorId + 1 else 0) } }
  let b := b.startDrain ctx 0 (hg ++ lg) n
  let b := b.startDrain ctx 1 lg n
  b.startDrain ctx 2 (if b.cfg.hrv.hostLog then hg ++ lg else hg) n

/-- Where the bytes of a captured granule lie now: in its kept copy, where a write has made one (R322). -/
def Blk.capSource (b : Blk) (ctx a : Nat) : Nat :=
  match (b.ctx ctx).hrv.cap with
  | some k => match k.kept.find (a / granBytes) with
    | some h => h * granBytes + a % granBytes
    | none => a
  | none => a

/-- The streams of the harvest domain. -/
def Blk.hrvStreams (b : Blk) : List Nat := b.cfg.hrv.pd.streams.map (·.stream)

/-- The granules of a capture that some destination has still to be sent; the others give their kept copies back (R322). -/
def Blk.capSent (b : Blk) (ctx : Nat) : Blk :=
  let c := b.ctx ctx
  match c.hrv.cap with
  | none => b
  | some k =>
    let waits := fun g => b.hrvStreams.any fun n =>
      let st := b.strmOf n
      st.msgs.any fun m => (match m.use_ with | .harvest x _ => x = ctx | _ => false) && m.addr = some (g * granBytes) &&
        (m.failed || st.unsent.any (msgHas m))
    let us := k.unsent.filter waits
    b.setCtx ctx { c with hrv := { c.hrv with cap := some { k with unsent := us, kept := k.kept.filter fun e => us.contains e.1 }, cowAt := [] } }

/-- A destination has acknowledged part of a drain (R326). -/
def Blk.drainAck (b : Blk) (ctx dest : Nat) : Blk :=
  b.modCtx ctx fun c => { c with hrv := { c.hrv with cap := c.hrv.cap.map fun k =>
    { k with drains := k.drains.map fun d => if d.dest = dest then { d with since := b.tide.num, failed := false } else d } } }

/-- The FLUSH of a drain has been answered: DONE completes the drain (R324). -/
def Blk.drainFlushed (b : Blk) (stream msg status : Nat) : Blk :=
  { b with ctxs := b.ctxs.mapV fun _ c => { c with hrv := { c.hrv with cap := c.hrv.cap.map fun k =>
    { k with drains := k.drains.map fun d => if d.flush = some (stream, msg) && status = 0 then { d with done := true } else d } } } }

/-- HARVEST_COMPLETE: every copy is complete at every destination; the capture is safe and the pair buffer drained (R218, R326). -/
def Blk.harvestComplete (b : Blk) (ctx : Nat) : Blk :=
  let c := b.ctx ctx
  match c.hrv.cap with
  | none => b
  | some k =>
    if !k.drains.all (·.done) then b
    else
      let mark := fun (x : Buf) => if x.st ≠ .building && x.ver = k.step % 2 ^ 48 then { x with drained := true } else x
      b.setCtx ctx { c with buf0 := mark c.buf0, buf1 := mark c.buf1, hrv := { c.hrv with cap := none, safeStep := k.step, cowAt := [] } }

/-- HARVEST_COMPLETE (R326). -/
def execHarvestComplete (ctx : Nat) (s : State) : Host.Outcome State Fault Refusal := .next (s.setB (s.b.harvestComplete ctx))

/-- Issue a drain's failed messages again, and its FLUSH after them (R326). -/
def Blk.retryDrain (b : Blk) (ctx dest : Nat) : Blk :=
  let n := b.destStream dest
  let mine := fun (m : OutMsg) => m.use_ = .harvest ctx dest && m.failed
  let l := (b.strmOf n).msgs.filter mine
  let b := b.modStrm n fun st => { st with msgs := st.msgs.filter fun m => !mine m }
  let b := (l.filter fun m => m.typ = tWrite).foldl (fun b m => b.issue n { m with status := none, failed := false, acked := false, firstAt := none }) b
  b.drainFlush ctx dest

/-- DEST_FAIL_TIMEOUT: eight tides without an acknowledgement; the drain goes on retrying (R326). -/
def Blk.destFail (b : Blk) (ctx dest : Nat) : Blk :=
  match (b.ctx ctx).hrv.cap with
  | none => b
  | some k => match k.drains.find? fun d => d.dest = dest && !d.done with
    | none => b
    | some d =>
      if b.tide.num < d.since + 8 then b
      else
        let b := if d.failed then b
          else (b.raise 0x9005 ctx hubPan dest).modSpare fun x => { x with destFail := satInc 8 x.destFail }
        let b := b.modCtx ctx fun c => { c with hrv := { c.hrv with cap := c.hrv.cap.map fun k =>
          { k with drains := k.drains.map fun y => if y.dest = dest then { y with since := b.tide.num, failed := true } else y } } }
        b.retryDrain ctx dest

/-- DEST_FAIL_TIMEOUT (R326). -/
def execDestFailTimeout (ctx dest : Nat) (s : State) : Host.Outcome State Fault Refusal := .next (s.setB (s.b.destFail ctx dest))

/-- CAPTURE_TIMER: NS_EVERY tides after creation, resume or the last capture, for a context without a phase schedule (R322, R331). -/
def execCaptureTimer (ctx : Nat) (s : State) : Host.Outcome State Fault Refusal :=
  let c := s.b.ctx ctx
  if c.st = .active && c.rec_.sched.isNone && c.hrv.cap.isNone && decide (c.hrv.lastAt + s.b.cfg.hrv.nsEvery ≤ s.b.tide.num) then
    .next (s.setB (s.b.capture s.mem ctx))
  else .next s

end Sys2Proof.Machine
end

