-- ==== Sys2Proof/Machine/Tide.lean ====
section
/-! DEFINITION. The tide unit: its sources, qualification, locking and slewing, the schedule table, and the clock-domain crossings (02). -/
namespace Sys2Proof.Machine
open Sys2Proof

/-! ### Sources -/

def srcSt (t : TideUnit) : TideSrc → SrcSt
  | .ptp => t.ptp
  | .tideIn => t.tin
  | .beacon => t.bcn
  | .none => {}

def setSrc (t : TideUnit) (k : TideSrc) (x : SrcSt) : TideUnit :=
  match k with
  | .ptp => { t with ptp := x }
  | .tideIn => { t with tin := x }
  | .beacon => { t with bcn := x }
  | .none => t

/-- Qualified, and not rejected for its offset (R28, R31). A source that the image does not list is not the module's, so its bit of R45 reads 0 whatever it meets of R28
(DESIGN CHOICE, log 52). -/
def srcGood (t : TideUnit) (k : TideSrc) : Bool := t.order.contains k && (srcSt t k).ok && !(srcSt t k).rej

/-- Do edges occur (R34)? -/
def tideRuns (t : TideUnit) : Bool := decide (t.st = .locked ∨ t.st = .holdover)

/-- The offset of a source edge against the nearest edge of the running timebase: positive where the source is later. -/
def edgeOffset (t : TideUnit) (edge : Int) : Int :=
  let p : Int := (t.period : Nat)
  let x := (edge - (t.edgeAt : Nat)) % p
  if 2 * x ≤ p then x else x - p

/-- Hold a value within 32 signed bits (R46). -/
def sat32 (x : Int) : Int := max (-(2 ^ 31)) (min (2 ^ 31 - 1) x)

/-- The first lock after reset or after LOST: the timebase steps to the source (R31, R34, R35). -/
def Blk.tryLock (b : Blk) (k : TideSrc) : Blk :=
  let t := b.tide
  if tideRuns t || !srcGood t k then b
  else match (srcSt t k).edge, (srcSt t k).num with
    | some e, some n =>
      let b := b.modTide fun t => { t with st := .locked, src := k, numSet := true, num := n % 2 ^ 48, edgeAt := e, slewLeft := 0, offset := 0, lockNum := n % 2 ^ 48 }
      b.raiseMod 0x1001 0
    | _, _ => b

/-- A source's edge is measured against the running timebase: MAX_OFFSET is judged, and the selected source's offset is slewed out (R31, R46). -/
def Blk.judge (b : Blk) (k : TideSrc) (off : Int) : Blk :=
  let t := slewTide b.tide b.now
  if !tideRuns t then b
  else
    let b := { b with tide := t }
    let x := srcSt t k
    let far := decide ((t.maxOffset : Int) < (off.natAbs : Int))
    let b := b.modTide fun t => setSrc t k { x with off := off, rej := x.rej || far, within := if far then 0 else x.within }
    let b := if t.src = k then b.modTide fun t =>
        if far then { t with offset := sat32 off }
        else { t with offset := sat32 off, slewLeft := off, slewAt := if t.slewLeft = 0 then b.now else t.slewAt }
      else b
    if far && !x.rej then (b.modTide fun t => { t with srcRej := true }).raiseMod 0x1005 0 else b

/-- Switch to a qualified source at an edge; its offset is slewed out (R31). -/
def Blk.useSource (b : Blk) (k : TideSrc) : Blk :=
  let b := b.modTide fun t =>
    let t := slewTide t b.now
    { t with st := .locked, src := k, offset := sat32 (srcSt t k).off, slewLeft := (srcSt t k).off, slewAt := b.now }
  b.raiseMod 0x1001 0

/-! ### PTP (R28, R29) -/

/-- A Sync is complete: sent at `t1` with its corrections, received at `t2`. Before the first lock and in LOST there is no running timebase to measure against, and
R28 does not say what the offset is then: DESIGN CHOICE, the change of PTP time minus timebase since the Sync before, 0 for the first (log 52). -/
def Blk.ptpSync (b : Blk) (t1 t2 : Nat) : Blk :=
  let t := b.tide
  let r := t.ptpRx
  let delta : Int := (t1 : Int) + r.delay - (t2 : Int)
  let p : Int := (t.period : Nat)
  let ptpNow : Int := (b.now : Int) + delta - (t.epoch : Int)
  let edge : Int := (b.now : Int) - ptpNow % p
  let off := if tideRuns t then edgeOffset (slewTide t b.now) edge else match r.delta with
    | some d => d - delta
    | none => 0
  let count := if off.natAbs < 1000 then min 16 (t.ptp.count + 1) else 0
  let b := b.modTide fun t => { t with
    ptpRx := { r with delta := some delta, t1 := t1, t2 := t2, twoStep := none }
    ptp := { t.ptp with count := count, ok := t.ptp.ok || decide (16 ≤ count), edge := some edge.toNat, num := some (ptpNow / p).toNat } }
  (b.judge .ptp off).tryLock .ptp

/-- The announce receipt timeout: three intervals of 2 s, the defaults of the default profile (R29; PRESUMED, log 13). -/
def announceTimeout : Nat := 6000000000

/-- The PTP source is lost (R28). -/
def ptpLost (t : TideUnit) : TideUnit := { t with ptp := { t.ptp with ok := false, count := 0, run := 0 } }

/-- A clock whose Announces have stopped is no master any more, and the port leaves SLAVE (R28, R29). -/
def Blk.ptpAge (b : Blk) : Blk :=
  match b.tide.ptpRx.master with
  | some (_, _, at_) => if b.past at_ announceTimeout then
      b.modTide fun t => ptpLost { t with ptpRx := { t.ptpRx with master := none, slave := false, lastSync := none, twoStep := none } } else b
  | none => b

/-- PTP_SYNC_RX; a two-step Sync's own correction counts beside that of its Follow_Up. -/
def Blk.ptpSyncRx (b : Blk) (domain seq : Nat) (twoStep : Bool) (t1 corr interval : Nat) : Blk :=
  let r := b.tide.ptpRx
  if domain ≠ b.tide.ptpDomain || !r.slave then b
  else
    let b := b.modTide fun t => { t with ptpRx := { t.ptpRx with lastSync := some b.now, interval := interval } }
    if twoStep then b.modTide fun t => { t with ptpRx := { t.ptpRx with twoStep := some (seq, b.now, corr) } }
    else b.ptpSync (t1 + corr) b.now

/-- PTP_FOLLOW_UP_RX: it completes the Sync of its sequence number. -/
def Blk.ptpFollowUp (b : Blk) (domain seq t1 corr : Nat) : Blk :=
  if domain ≠ b.tide.ptpDomain then b
  else match b.tide.ptpRx.twoStep with
    | some (n, t2, c) => if n = seq then b.ptpSync (t1 + c + corr) t2 else b
    | none => b

/-- PTP_DELAY_REQ_TX: the only PTP message the module sends; HP is UP. -/
def Blk.ptpDelayReq (b : Blk) : Blk :=
  let r := b.tide.ptpRx
  if !r.slave || r.delta.isNone || b.spare.displaced || (b.portOf 0).st ≠ .up then b
  else (b.modTide fun t => { t with ptpRx := { r with req := some (r.seq, b.now), seq := (r.seq + 1) % 2 ^ 16 } }).frameOut 0 (.delayReq r.seq)

/-- PTP_DELAY_RESP_RX: the mean path delay of the request-response mechanism. -/
def Blk.ptpDelayResp (b : Blk) (domain seq t4 corr : Nat) : Blk :=
  let r := b.tide.ptpRx
  if domain ≠ b.tide.ptpDomain then b
  else match r.req with
    | some (n, t3) =>
      if n = seq then
        let d : Int := (((r.t2 : Int) - r.t1) + ((t4 : Int) - corr - t3)) / 2
        b.modTide fun t => { t with ptpRx := { r with delay := d, req := none } }
      else b
    | none => b

/-- PTP_SYNC_TIMEOUT: no Sync for the longer of 4 tides and 3 Sync intervals. -/
def Blk.ptpTimeout (b : Blk) : Blk :=
  let r := b.tide.ptpRx
  match r.lastSync with
  | some t => if b.past t (max (4 * b.tide.period) (3 * r.interval)) then
      b.modTide fun t => ptpLost { t with ptpRx := { r with lastSync := none, twoStep := none } } else b
  | none => b

/-- PTP_ANNOUNCE_RX: the best master clock algorithm in slave-only mode. A clock is taken at its second Announce (PRESUMED, log 13); a better one takes the port
out of SLAVE until then. -/
def Blk.ptpAnnounce (b : Blk) (domain key source : Nat) : Blk :=
  let r := b.tide.ptpRx
  if domain ≠ b.tide.ptpDomain then b
  else
    let take : Blk := b.modTide fun t => ptpLost { t with ptpRx := { r with master := some (key, source, b.now), slave := false, lastSync := none, twoStep := none } }
    match r.master with
    | none => take
    | some (k, s, _) =>
      if s = source then b.modTide fun t => { t with ptpRx := { r with master := some (key, source, b.now), slave := true } }
      else if key < k then take else b

/-! ### TIDE_IN (R38) -/

/-- The tide number of an edge at the present instant, from the running count, from beacons or from PTP time (R28). -/
def Blk.numberNow (b : Blk) : Option Nat :=
  let t := b.tide
  let near := fun (n e : Nat) => n + (b.now - e + t.period / 2) / t.period
  if tideRuns t && t.numSet then some (near t.num b.lastEdge)
  else match t.bcn.num, t.bcn.edge with
    | some n, some e => if t.bcn.count = 0 then none else some (near n e)
    | _, _ => match t.ptpRx.delta with
      | some d => if t.order.contains .ptp && t.ptpRx.slave then
          some ((((b.now : Int) + d - (t.epoch : Int) + (t.period / 2 : Nat)) / (t.period : Nat)).toNat) else none
      | none => none

/-- A pulse starts a train with run count 1. -/
def Blk.newTrain (b : Blk) : Blk :=
  b.modTide fun t => { t with train := some b.now, expect := b.now + t.period, missRun := 0, tin := { t.tin with count := 1 } }

/-- TIDE_IN is declared lost: the train is dropped (R38). -/
def tinLost (t : TideUnit) : TideUnit := { t with train := none, missRun := 0, tin := { t.tin with ok := false, count := 0, run := 0 } }

/-- A window counts as missing; the fourth in a row declares TIDE_IN lost (R38). -/
def Blk.tinMissed (b : Blk) : Blk :=
  b.modTide fun t =>
    let t := { t with tinMiss := satInc 8 t.tinMiss, missRun := t.missRun + 1, expect := t.expect + t.period, tin := { t.tin with count := 0 } }
    if 4 ≤ t.missRun then tinLost t else t

/-- TIDE_IN_PULSE: a pulse that stayed high for `high` ns. Whether the train agrees with the running timebase is judged once it has qualified (R38). R38's rows speak of
TIDE_IN qualified, and R31 counts a source rejected for its offset as unqualified: DESIGN CHOICE, the rows go by the qualification of R28 alone, so the pulses of a
rejected train outside the window still count as missing (log 52). -/
def Blk.tinPulse (b : Blk) (high : Nat) : Blk :=
  let t := b.tide
  if high < 100 then b.modTide fun t => { t with tinGlitch := satInc 8 t.tinGlitch }
  else match t.train with
    | none => b.newTrain
    | some last =>
      if 2 * (b.now - last) < t.period then b.modTide fun t => { t with tideOvr := satInc 8 t.tideOvr }
      else if t.expect ≤ b.now + 500 ∧ b.now ≤ t.expect + 500 then
        let count := t.tin.count + 1
        let num := b.numberNow
        let ok := t.tin.ok || (decide (8 ≤ count) && num.isSome)
        let b := b.modTide fun t => { t with train := some b.now, expect := b.now + t.period, missRun := 0
                                             tin := { t.tin with count := count, ok := ok, edge := some b.now, num := num } }
        (if ok then b.judge .tideIn (edgeOffset (slewTide b.tide b.now) (b.now : Nat)) else b).tryLock .tideIn
      else
        let b := b.modTide fun t => { t with tinOow := satInc 8 t.tinOow }
        if t.tin.ok then b.tinMissed else b.newTrain

/-- TIDE_IN_WINDOW_CLOSE: the window about the expected edge closes with no pulse. -/
def Blk.tinWindowClose (b : Blk) : Blk :=
  if b.tide.train.isSome && decide (b.tide.expect + 500 < b.now) then b.tinMissed else b

/-- TIDE_STUCK. -/
def Blk.tideStuck (b : Blk) : Blk :=
  if b.tide.stuck then b
  else (b.modTide fun t => tinLost { t with stuck := true, stuckSeen := true }).raiseMod 0x1004 0

/-- TIDE_STUCK_CLEAR. -/
def Blk.tideStuckClear (b : Blk) : Blk := if b.tide.stuck then b.modTide fun t => tinLost { t with stuck := false } else b

/-! ### BEACON (R28, R30, R43) -/

/-- BEACON: the sender's edge lies DELAY before the frame's SFD, which was `age` ns ago. EV_TIDE_BEACON_DUP is raised only while the BEACON_DUP flag is clear, where R43
does not say how often it is raised (DESIGN CHOICE, log 52). -/
def Blk.beaconRx (b : Blk) (pos num delay age : Nat) : Blk :=
  let t := b.tide
  let other := t.bcnFrom.any fun p => p ≠ pos
  let b := if other && !t.beaconDup then (b.modTide fun t => { t with beaconDup := true }).raiseMod 0x1009 0 else b
  if t.bcnFrom.any fun p => p < pos then b
  else
    let edge := b.now - age - delay
    let agrees := !other && (match t.bcn.num, t.bcn.edge with
      | some n, some e => decide (num = n + (edge - e + t.period / 2) / t.period)
      | _, _ => false)
    let count := if agrees then min 8 (t.bcn.count + 1) else 1
    let b := b.modTide fun t => { t with bcnFrom := some pos
                                         bcn := { t.bcn with count := count, ok := t.bcn.ok || decide (8 ≤ count), edge := some edge, num := some num } }
    (b.judge .beacon (edgeOffset (slewTide b.tide b.now) (edge : Nat))).tryLock .beacon

/-- BEACON_LOST: 8 beacons in a row are missing once the edge after the eighth has passed (R28, R395). -/
def Blk.beaconLost (b : Blk) : Blk :=
  match b.tide.bcn.edge with
  | some e => if b.past e (9 * b.tide.period) then
      b.modTide fun t => { t with bcnFrom := none, bcn := { t.bcn with ok := false, count := 0, run := 0, edge := none, num := none } } else b
  | none => b

/-! ### Selection -/

/-- The highest-priority qualified source other than `k` (R31). -/
def bestSource (t : TideUnit) (k : TideSrc) : Option TideSrc := t.order.find? fun x => x ≠ k && srcGood t x

/-- SOURCE_PROMOTE: at the edge that ends 64 consecutive tides of a higher-priority source being qualified, it replaces the current one (R31). -/
def Blk.sourcePromote (b : Blk) : Blk :=
  let t := b.tide
  if t.st ≠ .locked || b.now ≠ t.countedAt then b
  else match (t.order.takeWhile fun x => x ≠ t.src).find? fun x => srcGood t x && decide ((srcSt t x).run = 64) with
    | some k => b.useSource k
    | none => b

/-- SLEW_DONE: an offset of n ns is out once slewing at 100 ppm has gone on for 10,000 n ns (R31); by then the edges have moved by all of it (`slewTide`). -/
def Blk.slewDone (b : Blk) : Blk :=
  let t := b.tide
  if t.slewLeft = 0 || !b.past t.slewAt (t.slewLeft.natAbs * 10000) then b
  else b.modTide fun t => { t with edgeAt := ((t.edgeAt : Int) + t.slewLeft).toNat, slewLeft := 0 }

/-- The source at the edge: what is lost is replaced by the next qualified source, or by HOLDOVER; in HOLDOVER a source that qualifies is taken (R31, R35). -/
def Blk.edgeSource (b : Blk) : Blk :=
  let t := b.tide
  if t.st = .locked then
    if srcGood t t.src then b
    else match bestSource t t.src with
      | some k => b.useSource k
      | none => (b.modTide fun t => { (slewTide t b.now) with st := .holdover, src := .none, holdCnt := 0, slewLeft := 0 }).raiseMod 0x1002 0
  else match bestSource t .none with
    | some k => b.useSource k
    | none => b.modTide fun t => { t with holdCnt := satInc 16 t.holdCnt }

/-- The tides for which each source has been qualified, and for which a rejected one has stayed within MAX_OFFSET (R31). -/
def srcTide (maxOffset : Nat) (x : SrcSt) : SrcSt :=
  let near := decide (x.off.natAbs ≤ maxOffset)
  let w := if x.rej && near then x.within + 1 else 0
  let x := if x.rej && decide (64 ≤ w) then { x with rej := false, within := 0 } else { x with within := w }
  { x with run := if x.ok && !x.rej then min 65 (x.run + 1) else 0 }

/-- May the next edge be counted: the timebase has reached it, and HOLD_LIMIT has not been reached without a source (R34, R35)? -/
def Blk.edgeDue (b : Blk) : Bool :=
  let t := b.tide
  tideRuns t && b.past b.lastEdge t.period &&
    !(decide (t.st = .holdover ∧ t.holdLimit ≤ t.holdCnt) && (bestSource t .none).isNone)

/-- Count the edge: it follows the last by one period and what has been slewed, at most 100 ppm (R32). -/
def Blk.countEdge (b : Blk) : Blk :=
  b.modTide fun t =>
    let t := slewTide t b.now
    { t with num := min (t.num + 1) (2 ^ 48 - 1), edgeAt := t.edgeAt + t.period, countedAt := b.now
             ptp := srcTide t.maxOffset t.ptp, tin := srcTide t.maxOffset t.tin, bcn := srcTide t.maxOffset t.bcn }

/-! ### The schedule table (R36, R37) -/

/-- What becomes of a request for a scheduled action. -/
inductive SchedOutcome where
  | accepted | late | full
  deriving DecidableEq, Repr

def Blk.schedCheck (b : Blk) (tide phase : Nat) : SchedOutcome :=
  let t := b.tide
  if !t.numSet || decide (t.st = .lost) || decide (tide < t.num + 2) || decide (t.period ≤ phase) then .late
  else if 512 ≤ t.sched.length then .full
  else .accepted

/-- Ask for an action at an instant: accepted into the table, or refused with its event and count. -/
def Blk.schedule (b : Blk) (tide phase : Nat) (act : SchedAct) : Blk :=
  match b.schedCheck tide phase with
  | .accepted => b.modTide fun t => { t with sched := t.sched ++ [{ tide := tide, phase := phase, act := act }] }
  | .late => (b.modTide fun t => { t with refused := satInc 16 t.refused }).raiseMod 0x1006 0
  | .full => (b.modTide fun t => { t with refused := satInc 16 t.refused }).raiseMod 0x1007 0

/-- Does an action at one instant and of one class run before another (R36)? -/
def runsBefore (t p c t' p' c' : Nat) : Bool := decide (t < t' ∨ (t = t' ∧ (p < p' ∨ (p = p' ∧ c < c'))))

/-- Does entry `x` come before `y` (R36)? -/
def schedBefore (x y : SchedEntry) : Bool := runsBefore x.tide x.phase x.act.cls y.tide y.phase y.act.cls

/-- The entry that runs next among those due: by instant, then class, then order of acceptance (R36). -/
def Blk.nextSched (b : Blk) : Option SchedEntry :=
  (b.tide.sched.filter fun x => b.due x.tide x.phase).foldl (fun o x => match o with
    | none => some x
    | some y => if schedBefore x y then some x else o) none

/-- Take an entry out of the table. -/
def Blk.unschedule (b : Blk) (x : SchedEntry) : Blk := b.modTide fun t => { t with sched := t.sched.erase x }

/-! ### Crossings (R39 to R42) -/

/-- How many records a crossing's queue holds: at least 8 (R436); DESIGN CHOICE 8 (log 12). -/
def xingDepth : Nat := 8

/-- A record arrives at a crossing: into the queue, merged, or waiting (R40). -/
def xingArrive (x : Crossing) (r : Nat × Pan) : Crossing :=
  if x.queue.length < xingDepth then { x with queue := x.queue ++ [r] }
  else if x.queue.contains r then { x with mergeCnt := satInc 16 x.mergeCnt }
  else { x with waiting := x.waiting ++ [r] }

/-- The oldest record is delivered, and one that waited for room takes its place (R40). -/
def xingDeliver (x : Crossing) : Crossing :=
  match x.waiting with
  | [] => { x with queue := x.queue.drop 1 }
  | w :: ws => { x with queue := x.queue.drop 1 ++ [w], waiting := ws }

/-- Discard what is in flight at a crossing; the receiving side counts it (R41). -/
def xingFlush (x : Crossing) (strobes : Nat) : Crossing :=
  { x with flushCnt := satAdd 8 x.flushCnt (x.queue.length + x.waiting.length + strobes), queue := [], waiting := [] }

/-- One side of a leaf's crossing is reset: TIDE_XING returns to its reset value (R343), and what was in flight is discarded and counted (R41). -/
def Blk.resetXing (b : Blk) (leaf : Pan) : Blk :=
  b.modXing leaf fun x => xingFlush { queue := x.queue, waiting := x.waiting } 0

/-- XING_CLKSTOP: the sender's clock has stopped; its pan is at fault (R42). The watch is disarmed while that pan is in RESET or OFF. -/
def Blk.clkStop (b : Blk) (leaf strobes : Nat) : Blk :=
  let st := (b.panSt leaf).st
  if st = .reset ∨ st = .off then b
  else
    let b := b.modXing leaf fun x => { xingFlush x strobes with clkStop := true }
    let b := b.raise 0xA001 moduleCtx hubPan (b.full leaf)
    b.modRst fun r => { r with stopped := if r.stopped.contains leaf then r.stopped else r.stopped ++ [leaf] }

/-! ### The commands -/

/-- PTP_SYNC_RX (R28, R29). -/
def execPtpSyncRx (mac : MacsecIn) (domain seq : Nat) (twoStep : Bool) (t1 corr interval : Nat) (s : State) : Host.Outcome State Fault Refusal :=
  .next (s.setB (s.b.ptpAge.withFrame 0 mac fun b => b.ptpSyncRx domain seq twoStep t1 corr interval))

/-- PTP_FOLLOW_UP_RX (R29). -/
def execPtpFollowUpRx (mac : MacsecIn) (domain seq t1 corr : Nat) (s : State) : Host.Outcome State Fault Refusal :=
  .next (s.setB (s.b.ptpAge.withFrame 0 mac fun b => b.ptpFollowUp domain seq t1 corr))

/-- PTP_DELAY_RESP_RX (R29). -/
def execPtpDelayRespRx (mac : MacsecIn) (domain seq t4 corr : Nat) (s : State) : Host.Outcome State Fault Refusal :=
  .next (s.setB (s.b.ptpAge.withFrame 0 mac fun b => b.ptpDelayResp domain seq t4 corr))

/-- PTP_DELAY_REQ_TX (R29). -/
def execPtpDelayReqTx (s : State) : Host.Outcome State Fault Refusal := .next (s.setB s.b.ptpDelayReq)

/-- PTP_SYNC_TIMEOUT (R28). -/
def execPtpSyncTimeout (s : State) : Host.Outcome State Fault Refusal := .next (s.setB s.b.ptpAge.ptpTimeout)

/-- PTP_ANNOUNCE_RX (R29). -/
def execPtpAnnounceRx (mac : MacsecIn) (domain key source _seq : Nat) (s : State) : Host.Outcome State Fault Refusal :=
  .next (s.setB (s.b.ptpAge.withFrame 0 mac fun b => b.ptpAnnounce domain key source))

/-- TIDE_IN_PULSE (R38). -/
def execTideInPulse (high : Nat) (s : State) : Host.Outcome State Fault Refusal := .next (s.setB (s.b.tinPulse high))

/-- TIDE_IN_WINDOW_CLOSE (R38). -/
def execTideInWindowClose (s : State) : Host.Outcome State Fault Refusal := .next (s.setB s.b.tinWindowClose)

/-- TIDE_STUCK (R38). -/
def execTideStuck (s : State) : Host.Outcome State Fault Refusal := .next (s.setB s.b.tideStuck)

/-- TIDE_STUCK_CLEAR (R38). -/
def execTideStuckClear (s : State) : Host.Outcome State Fault Refusal := .next (s.setB s.b.tideStuckClear)

/-- BEACON_LOST (R28). -/
def execBeaconLost (s : State) : Host.Outcome State Fault Refusal := .next (s.setB s.b.beaconLost)

/-- SOURCE_PROMOTE (R31). -/
def execSourcePromote (s : State) : Host.Outcome State Fault Refusal := .next (s.setB s.b.sourcePromote)

/-- SLEW_DONE (R31). -/
def execSlewDone (s : State) : Host.Outcome State Fault Refusal := .next (s.setB s.b.slewDone)

/-- XING_RECORD_DELIVER (R40): records arrive at a leaf's crossing, and the oldest queued one is delivered. -/
def execXingRecordDeliver (leaf : Nat) (arrived : List (Nat × Nat)) (s : State) : Host.Outcome State Fault Refusal :=
  .next (s.setB (s.b.modXing leaf fun x => xingDeliver (arrived.foldl xingArrive x)))

/-- XING_CLKSTOP (R42). -/
def execXingClkstop (leaf flushed : Nat) (s : State) : Host.Outcome State Fault Refusal := .next (s.setB (s.b.clkStop leaf flushed))

end Sys2Proof.Machine
end

