-- ==== Sys2Proof/Machine/Cycle.lean ====
section
/-! DEFINITION. The reinforcement-learning cycle: phases, the phase block, the weight pair, the phase-group barrier entered by the hub, the swap (12). -/
namespace Sys2Proof.Machine
open Sys2Proof

/-! ### The phase block (R216) -/

/-- The 64 bytes of the phase block. -/
def phaseBlock (c : Ctx) (s : SchedRec) (start : Nat) : List Nat :=
  let cur := currentBuf c
  let end_ := if c.phase = .generate then c.genEnd else 0
  leBytes 8 c.step ++ leBytes 6 (bufOf c cur).ver ++ leBytes 2 0 ++ leBytes 6 c.pos ++ leBytes 2 0 ++ leBytes 6 start ++ leBytes 2 0 ++
    leBytes 6 end_ ++ leBytes 2 0 ++ leBytes 4 (b2n (decide (c.phase = .learn)) + cur * 2 + s.genSeqs * 2 ^ 16) ++ leBytes 20 0

/-- The hub writes the phase block, at a phase switch. -/
def State.writeBlock (s : State) (ctx : Nat) : State :=
  match (s.b.ctx ctx).rec_.sched with
  | some r => s.store ctx r.blockAddr (phaseBlock (s.b.ctx ctx) r s.b.tide.num)
  | none => s

/-! ### Barriers -/

/-- The highest of the tides that members have reported. -/
def topTide (t : Tbl Nat) : Nat := t.vals.foldl max 0

/-- Has every member of a collective's group reported? -/
def Blk.allIn (b : Blk) (c : Coll) (t : Tbl Nat) : Bool :=
  match b.collGroup c with
  | some g => (List.range g.members.length).all t.has
  | none => false

/-- Is the collective a barrier that the hub entered (R306)? -/
def hubBarrier (c : Coll) : Bool := c.d.op = 7 && c.who.phase = .none

/-- The hub's barrier of a context. -/
def Blk.phaseColl (b : Blk) (ctx : Nat) : Option Coll := b.colls.find? fun c => c.ctx = ctx && hubBarrier c && collOpen c

/-- The buffer that is not CURRENT. -/
def otherBuf (c : Ctx) : Nat := 1 - currentBuf c

/-! ### The order of actions of one instant (R36) -/

/-- Places in the order of R36: twice the class of a table entry; in class 3 the swap comes before the phase switch (R214). -/
def rankAct (a : SchedAct) : Nat := 2 * a.cls
def rankSwap : Nat := 6
def rankPhase : Nat := 7
def rankCalib : Nat := 8

/-- The tide of a context's swap, once every member has entered and the other buffer is BUILDING (R214). -/
def Blk.swapTide (b : Blk) (ctx : Nat) : Option Nat :=
  match b.phaseColl ctx with
  | some k => if (b.ctx ctx).st = .active && b.allIn k k.entry && (bufOf (b.ctx ctx) (otherBuf (b.ctx ctx))).st = .building then some (topTide k.entry + 2) else none
  | none => none

/-- The tide of a context's next LEARN start: the edge after its creation, or the end of its GENERATE phase (R214). -/
def Blk.learnTide (b : Blk) (ctx : Nat) : Option Nat :=
  let c := b.ctx ctx
  if c.st ≠ .active then none
  else if c.phase = .generate && c.genEnd ≠ 0 then some c.genEnd
  else if c.phase = .none && c.learn.isNone && c.step = c.rec_.startStep then some (c.created + 1)
  else none

/-- The tide of the calibration slot that is due and has not run: at its phase of every CAL_EVERY-th tide or, where slewing shortened that tide before the phase, from the
next edge on (R37, R151). -/
def Blk.slotDue (b : Blk) : Option Nat :=
  let m := b.cfg.mod
  let t := b.tide.num - b.tide.num % m.calEvery
  if b.running && tideRuns b.tide && decide (b.tide.num ≤ t + 1 ∧ max b.tide.lockNum b.mon.slotFrom ≤ t) && b.due t m.calPhase && b.mon.slotTide ≠ t + 1 then some t
  else none

/-- Every scheduled action that is due and has not run: tide, phase, place in the order of R36. -/
def Blk.dueActs (b : Blk) : List (Nat × Nat × Nat) :=
  ((b.tide.sched.filter fun x => b.due x.tide x.phase).map fun x => (x.tide, x.phase, rankAct x.act)) ++
  (b.ctxs.filterMap fun e => (b.swapTide e.1).map fun t => (t, 0, rankSwap)).filter (fun x => b.due x.1 0) ++
  (b.ctxs.filterMap fun e => (b.learnTide e.1).map fun t => (t, 0, rankPhase)).filter (fun x => b.due x.1 0) ++
  (b.slotDue.toList.map fun t => (t, b.cfg.mod.calPhase, rankCalib))

/-- May an action run: does none that is due come before it (R36)? -/
def Blk.firstDue (b : Blk) (tide phase rank : Nat) : Bool := b.dueActs.all fun x => !runsBefore x.1 x.2.1 x.2.2 tide phase rank

/-! ### Phase starts -/

/-- A window of the context takes the next generation (R260). -/
def Blk.newGen (b : Blk) (w : Nat) : Blk := b.modWin w fun x => { x with gen := nextGen x.gen, open_ := true }

/-- The windows with PHASE_REOPEN take a new generation at a phase switch (R260). -/
def Blk.reopen (b : Blk) (ctx : Nat) : Blk :=
  ((b.ctx ctx).rec_.pds.flatMap fun d => (d.windows.filter (·.phaseReopen)).map (·.winId)).foldl Blk.newGen b

/-- The run of a phase that begins now, with a start pending on each named core (R129, R229). -/
def newRun (c : Ctx) (tide : Nat) : PhaseRun :=
  { startTide := tide, step := c.step, ver := (bufOf c (currentBuf c)).ver, bound := currentBuf c, pending := coresOf c }

/-- A WAITING buffer that is drained and not referred to becomes BUILDING (R221). -/
def Blk.pairAdvance (b : Blk) (ctx : Nat) : Blk :=
  [0, 1].foldl (fun b i =>
    let x := bufOf (b.ctx ctx) i
    if x.st = .waiting && x.drained && !b.referred ctx i then b.modCtx ctx fun c => setBuf c i { x with st := .building } else b) b

/-- At a LEARN start the buffer that is PREVIOUS is claimed (R218); at the first one buffer 0 is BUILDING already. -/
def claimBuf (c : Ctx) : Ctx :=
  if c.buf0.st = .current then (if c.buf1.st = .previous then { c with buf1 := { c.buf1 with st := .waiting } } else c)
  else if c.buf1.st = .current && c.buf0.st = .previous then { c with buf0 := { c.buf0 with st := .waiting } }
  else c

/-- Changed phase-schedule fields take effect at a phase start (R227). -/
def takeSched (c : Ctx) : Ctx :=
  match c.schedNext with
  | some r => { c with rec_ := { c.rec_ with sched := some r }, schedNext := none }
  | none => c

/-- A changed offload plan takes effect at a LEARN start (R236). -/
def takeOff (c : Ctx) : Ctx :=
  match c.offNext with
  | some l => { c with rec_ := { c.rec_ with offload := l }, offNext := none }
  | none => c

/-- A LEARN phase begins (R192, R214 to R216, R232). -/
def State.learnStart (s : State) (ctx : Nat) (switch : Bool) : State :=
  let b := s.b.modCtx ctx fun c =>
    let c := takeOff (takeSched c)
    let c := { c with step := (c.step + 1) % 2 ^ 64, pos := (c.pos + c.rec_.samples) % 2 ^ 48, phase := .learn, learnAt := s.b.tide.num, learnLate := false }
    let c := { c with gen := c.gen.map fun r => { r with pending := [] }, waitTides := 0, pairWaitRaised := false }
    let c := if c.rec_.sched.isSome then claimBuf c else c
    { c with learn := some (newRun c s.b.tide.num) }
  let b := (b.pairAdvance ctx).learnStartOffload ctx
  let b := if switch then b.reopen ctx else b
  let s := (s.setB b).writeBlock ctx
  s.setB (s.b.phaseEnd ctx .generate)

/-- FIRST_LEARN_START: at the tide edge after creation (R214, R232). -/
def execFirstLearnStart (ctx : Nat) (s : State) : Host.Outcome State Fault Refusal :=
  let c := s.b.ctx ctx
  if c.st = .active && c.phase = .none && c.learn.isNone && c.step = c.rec_.startStep && decide (c.created < s.b.tide.num) &&
      s.b.firstDue (c.created + 1) 0 rankPhase then
    .next (s.learnStart ctx false)
  else .next s

/-- PHASE_SWITCH_LEARN: GENERATE ends at phase 0 of tide S + GEN_TIDES and LEARN begins (R214, R215). -/
def execPhaseSwitchLearn (ctx : Nat) (s : State) : Host.Outcome State Fault Refusal :=
  let c := s.b.ctx ctx
  if c.st = .active && c.phase = .generate && c.genEnd ≠ 0 && s.b.due c.genEnd 0 && s.b.firstDue c.genEnd 0 rankPhase then .next (s.learnStart ctx true) else .next s

/-! ### LEARN done and the barrier (R214, R306, R326) -/

/-- A collective sequence number of a group is taken (R300). -/
def takeSeq (c : Ctx) (group : Nat) : Ctx × Nat :=
  let n := c.collSeq.get 0 group
  ({ c with collSeq := c.collSeq.set group ((n + 1) % 2 ^ 23) }, n)

/-- A number that comes round again names the new collective: the ended one's record goes (R300). -/
def Blk.forgetColl (b : Blk) (ctx group seq : Nat) : Blk :=
  { b with colls := b.colls.filter fun c => !collIs c ctx group seq || collOpen c }

/-- The records that came early for a barrier: tides by rank (R301). -/
def Blk.earlyCtl (b : Blk) (ctx group seq kind : Nat) : Tbl Nat :=
  b.heldShards.foldl (fun t h =>
    let r := ctlOfBytes h.pkt.data
    if heldFor h ctx group seq && bitAt h.pkt.h.offset 63 && r.kind = kind then t.set r.rank r.tide else t) []

/-- Forget what was held for a collective. -/
def Blk.dropHeldFor (b : Blk) (ctx group seq : Nat) : Blk :=
  { b with heldShards := b.heldShards.filter fun h => !heldFor h ctx group seq }

/-- Enter a barrier: an ENTRY with the entry tide goes to every other member (R306). -/
def Blk.enterBarrier (b : Blk) (ctx : Nat) (c : Coll) : Blk :=
  match b.collGroup c with
  | none => b
  | some g =>
    let me := b.rankIn g
    let early := b.earlyCtl ctx c.group c.seq 1
    let b := b.dropHeldFor ctx c.group c.seq
    let b := b.forgetColl c.ctx c.group c.seq
    let b := { b with colls := b.colls ++ [{ c with entry := early.set me b.tide.num }] }
    b.sendCtlAll ctx c.group c.seq c.d.epoch false { kind := 1, rank := me, tide := b.tide.num }

/-- LEARN_DONE: the programs have exited, their work is complete, the other buffer is BUILDING, the previous capture is safe (R214, R221, R326).
While the capture is not safe the barrier is not entered, and EV_CTX_PAIR_WAIT names harvest (R337). -/
def Blk.learnDone (b : Blk) (ctx : Nat) : Blk :=
  let c := b.ctx ctx
  match c.rec_.sched with
  | none => b
  | some r =>
    if c.st ≠ .active || c.phase ≠ .learn || c.barrier || c.learn.isSome || (b.workLeft ctx .learn fun _ => true) || (bufOf c (otherBuf c)).st ≠ .building then b
    else if c.hrv.cap.isSome then
      (if c.pairWaitRaised then b else (b.setCtx ctx { c with pairWaitRaised := true }).raise 0x5102 ctx hubPan (1 + 4 * currentBuf c))
    else
      let x := takeSeq c r.phaseGroup
      let b := b.setCtx ctx { x.1 with barrier := true }
      b.enterBarrier ctx { ctx := ctx, group := r.phaseGroup, seq := x.2, d := { op := 7, group := r.phaseGroup, epoch := c.epoch }, st := .running }

/-- LEARN_DONE (R214). -/
def execLearnDone (ctx : Nat) (s : State) : Host.Outcome State Fault Refusal := .next (s.setB (s.b.learnDone ctx))

/-- The pair at a swap: BUILDING becomes CURRENT with the step number as its version, CURRENT becomes PREVIOUS (R218). -/
def swapPair (c : Ctx) : Ctx :=
  let o := otherBuf c
  let cur := currentBuf c
  let c := if (bufOf c cur).st = .current then setBuf c cur { (bufOf c cur) with st := .previous } else c
  setBuf c o { st := .current, drained := false, ver := c.step % 2 ^ 48 }

/-- A GENERATE phase begins at this instant (R214, R216), while work of the one before may remain (R215); at a switch the windows that ask for it take a new generation (R260), after a restore they have taken theirs (R331). -/
def State.generateStart (s : State) (ctx : Nat) (switch : Bool) : State :=
  let b := s.b.modCtx ctx fun c =>
    let c := takeSched c
    let n := match c.rec_.sched with | some r => r.genTides | none => 0
    let c := { c with phase := .generate, genEnd := s.b.tide.num + n, barrier := false }
    { c with gen := some (newRun c s.b.tide.num), genPrev := c.gen <|> c.genPrev }
  (s.setB (if switch then b.reopen ctx else b)).writeBlock ctx

/-- The detail of EV_CTX_SWAP (R435). -/
def swapDetail (c : Ctx) (tide : Nat) : Nat :=
  c.step + (bufOf c (currentBuf c)).ver * 2 ^ 64 + currentBuf c * 2 ^ 128 + tide * 2 ^ 192

/-- The swap, at phase 0 of tide B + 2: the LEARN phase ends, the pair swaps, a capture starts, GENERATE begins (R214, R218, R222, R194, R176). -/
def State.swapNow (s : State) (ctx : Nat) (k : Coll) : State :=
  let b := s.b.modColl ctx k.group k.seq fun x => { x with st := .done, doneTide := s.b.tide.num }
  let b := (b.zeroRuns ctx).learnEndOffload ctx
  let b := b.modCtx ctx swapPair
  let b := b.raise 0x5104 ctx hubPan (swapDetail (b.ctx ctx) b.tide.num)
  let b := b.capture s.mem ctx
  (s.setB b).generateStart ctx true

/-- SWAP (R214): a context in teardown does not swap (R249). -/
def execSwap (ctx : Nat) (s : State) : Host.Outcome State Fault Refusal :=
  match s.b.phaseColl ctx with
  | some k =>
    if s.b.swapTide ctx = some (topTide k.entry + 2) && s.b.due (topTide k.entry + 2) 0 && s.b.firstDue (topTide k.entry + 2) 0 rankSwap then
      .next (s.swapNow ctx k) else .next s
  | none => .next s

/-! ### The weight pair (R221) -/

/-- PAIR_BUILDING (R221). -/
def execPairBuilding (ctx : Nat) (s : State) : Host.Outcome State Fault Refusal := .next (s.setB (s.b.pairAdvance ctx))

/-- The WAITING buffer of a context. -/
def waitingBuf (c : Ctx) : Option Nat := if c.buf0.st = .waiting then some 0 else if c.buf1.st = .waiting then some 1 else none

/-- PAIR_WAIT_TIMEOUT: WAITING for a whole tide, once in a LEARN phase (R221). -/
def execPairWaitTimeout (ctx : Nat) (s : State) : Host.Outcome State Fault Refusal :=
  let c := s.b.ctx ctx
  match waitingBuf c with
  | some i =>
    if c.st = .active && !c.pairWaitRaised && decide (1 ≤ c.waitTides) then
      let b := s.b.setCtx ctx { c with pairWaitRaised := true }
      .next (s.setB (b.raise 0x5102 ctx hubPan (b2n (!(bufOf c i).drained) + 2 * b2n (s.b.referred ctx i) + 4 * i)))
    else .next s
  | none => .next s

/-- A tide edge counts in WAIT_TIDES while a buffer is WAITING (R231). -/
def Blk.waitTick (b : Blk) (ctx : Nat) : Blk :=
  let c := b.ctx ctx
  if (waitingBuf c).isSome then b.setCtx ctx { c with waitTides := satInc 16 c.waitTides } else b

/-! ### Late phases (R215, R227) -/

/-- PHASE_OVERRUN: a GENERATE program still runs GEN_GRACE tides after the end (R215). -/
def execPhaseOverrun (ctx : Nat) (s : State) : Host.Outcome State Fault Refusal :=
  let c := s.b.ctx ctx
  let runs := s.b.rk.any fun e => match e.2.prog with
    | some p => p.ctx = ctx && p.phase = .generate
    | none => false
  match c.rec_.sched with
  | some r =>
    if c.st = .active && c.phase = .learn && runs && c.genEnd ≠ 0 && s.b.due (c.genEnd + r.genGrace) 0 then
      .next (s.setB (s.b.plainFault ctx cPhaseOverrun hubPan 0))
    else .next s
  | none => .next s

/-- LEARN_LATE: LEARN not done after LEARN_LIMIT tides, once per LEARN (R227). -/
def execLearnLate (ctx : Nat) (s : State) : Host.Outcome State Fault Refusal :=
  let c := s.b.ctx ctx
  match c.rec_.sched with
  | some r =>
    if c.st = .active && c.phase = .learn && !c.barrier && !c.learnLate && r.learnLimit ≠ 0 && s.b.due (c.learnAt + r.learnLimit) 0 then
      .next (s.setB ((s.b.setCtx ctx { c with learnLate := true }).raise 0x5103 ctx hubPan 0))
    else .next s
  | none => .next s

end Sys2Proof.Machine
end

