-- ==== Sys2Proof/Machine/Sealing.lean ====
section
/-! DEFINITION. Sealing a package: its manifest, the reads of its file, and refusals (11, R202 to R206, R210). -/
namespace Sys2Proof.Machine
open Sys2Proof

/-! ### The manifest (R202 to R204) -/

/-- A tensor entry's 32 bytes. -/
def tensorAt (m : List Host.Cell) (o : Nat) : TensorRec :=
  { srcFmt := leAt m 1 o % 16, rows := leAt m 4 (o + 4), cols := leAt m 4 (o + 8), off := leAt m 8 (o + 0x10), len := leAt m 8 (o + 0x18) }

/-- Does a tensor entry keep its rules? -/
def tensorOk (m : List Host.Cell) (o body : Nat) : Bool :=
  let t := tensorAt m o
  decide (t.srcFmt ≤ 2 ∧ leAt m 4 o < 16 ∧ 1 ≤ t.rows ∧ 1 ≤ t.cols ∧ t.off + t.len ≤ body) && leAt m 4 (o + 0x0C) = 0

/-- Do two tensors overlap in the body? -/
def tensorsMeet (x y : TensorRec) : Bool := decide (x.off < y.off + y.len ∧ y.off < x.off + x.len)

/-- Does no tensor of a list overlap a later one? -/
def tensorsApart : List TensorRec → Bool
  | [] => true
  | t :: ts => ts.all (fun u => !tensorsMeet t u) && tensorsApart ts

/-- The longest a manifest can be. -/
def manifestMax : Nat := manifestSig 4096 61440 + 384

/-- The package that a manifest describes, where it keeps R202 and R203; `size` is the file's length. -/
def manifestAt (m : List Host.Cell) (size : Nat) : Option Package :=
  let kind := leAt m 2 6
  let chunks := leAt m 4 0x14
  let n := leAt m 4 0x18
  let body := size - bodyStart n chunks
  if decide (size < 64) || leAt m 4 0 ≠ 0x4C414553 || leAt m 2 4 ≠ 1 || decide (1 < kind) || leAt m 4 0x1C ≠ 0 then none
  else if decide (chunks = 0 ∨ 61440 < chunks ∨ 4096 < n ∨ (kind = 0 ∧ n = 0) ∨ (kind = 1 ∧ n ≠ 0)) then none
  else if size ≤ bodyStart n chunks || chunks ≠ (body + sealChunk - 1) / sealChunk then none
  else
    let offs := (List.range n).map fun i => 64 + 32 * i
    let ts := offs.map (tensorAt m)
    if offs.all (fun o => tensorOk m o body) && tensorsApart ts then
      some { id := leAt m 8 8, ver := leAt m 4 0x10, kind := kind, chunks := chunks, key := leAt m 32 0x20, tensors := ts
             man := m.filter (fun c => decide (c.1 < manifestSig n chunks + 384)), bodyLen := body }
    else none

/-! ### A sealing in progress (R206, R210) -/

/-- The detail of a seal event: R210 and R212 name its parts; their places are the model's (log 14). -/
def sealDetail (id ver reason : Nat) : Nat := reason % 2 ^ 16 + ver % 2 ^ 32 * 2 ^ 96 + id % 2 ^ 64 * 2 ^ 128

def Blk.modStore (b : Blk) (f : SealSt → SealSt) : Blk := { b with store := f b.store }

/-- The sealing is refused: its chunks are free again (R206). -/
def Blk.sealRefuse (b : Blk) (reason : Nat) : Blk :=
  match b.store.job with
  | none => b
  | some j => (b.modStore fun s => { s with job := none }).raiseMod 0xB102 (sealDetail ((j.pkg.map (·.id)).getD 0) ((j.pkg.map (·.ver)).getD 0) reason)

/-- The sealing fails for a reason to which the spec gives no code: free. -/
def Blk.sealBroken (b : Blk) : Blk :=
  if b.store.job.isSome then (b.sealRefuse (Config.freeNat b.freeCtr % 2 ^ 16)).spend else b

/-- Streams go: a sealing that reads over one of them fails. -/
def Blk.sealStreams (b : Blk) (gone : Nat → Bool) : Blk :=
  match b.store.job with
  | some j => if gone j.stream then b.sealBroken else b
  | none => b

/-- Why a package is refused once its manifest has come: reasons 6, 2, 3, 8, 7. -/
def Blk.sealFault (b : Blk) (m : List Host.Cell) (p : Package) : Option Nat :=
  match b.keyFor p.key (decide (p.kind = 1)) with
  | none => some 2
  | some k =>
    if !manifestSigned m p k then some 3
    else if b.store.pkgs.any fun q => q.id = p.id && q.ver = p.ver then some 8
    else if decide (b.chunksFree < p.chunks) || decide (1024 ≤ b.store.pkgs.length) then some 7
    else none

/-- The next READ of the package file. -/
def Blk.sealRead (b : Blk) (j : SealJob) : Blk :=
  let most := match j.pkg with | none => manifestMax | some _ => 16777216
  b.issue j.stream { typ := tRead, ctx := 0, msgId := 0, psn := 0, count := 0, winId := j.winId, winGen := j.winGen,
                     len := min most (j.bytes - j.done), off := j.done, use_ := .seal_ }

/-- Bytes of the file come: of the manifest (step 1), or of the body, which goes into the reserved chunks (step 3). -/
def Blk.sealGot (b : Blk) (off : Nat) (bs : List Nat) : Blk :=
  b.modStore fun s => { s with job := s.job.map fun j => match j.pkg with
    | none => { j with man := flashWriteBytes j.man (j.done + off) bs }
    | some p => { j with pkg := some { p with body := flashWriteBytes p.body (j.done + off - bodyStart p.tensors.length p.chunks) bs } } }

/-- The chunks of a body that are whole once its first `n` bytes have come, not counting those that were at `m` bytes. -/
def chunksDone (p : Package) (m n : Nat) : List Nat :=
  (List.range p.chunks).filter fun k => let e := min (sealChunk * (k + 1)) p.bodyLen; decide (m < e ∧ e ≤ n)

/-- A READ of the sealing has completed: the manifest is checked and its chunks reserved (steps 1, 2), or a piece of the body has come, and each chunk that it ends is
hashed and compared with its digest (step 3); the next READ goes. -/
def Blk.sealNext (b : Blk) (len : Nat) : Blk :=
  match b.store.job with
  | none => b
  | some j =>
    match j.pkg with
    | none => match manifestAt j.man j.bytes with
      | none => b.sealRefuse 6
      | some p =>
        let named := b.modStore fun s => { s with job := some { j with pkg := some p } }
        match b.sealFault j.man p with
        | some r => named.sealRefuse r
        | none =>
          let j := { j with pkg := some p, reserved := p.chunks, done := bodyStart p.tensors.length p.chunks, man := [] }
          (b.modStore fun s => { s with job := some j }).sealRead j
    | some p =>
      let start := bodyStart p.tensors.length p.chunks
      let j' := { j with done := j.done + len }
      let b := b.modStore fun s => { s with job := some j' }
      if !((chunksDone p (j.done - start) (j'.done - start)).all (chunkFits p p.man p.body)) then b.sealRefuse 4
      else if j'.bytes ≤ j'.done then b else b.sealRead j'

/-- SEAL's start: the manifest's READ goes. -/
def Blk.sealBegin (b : Blk) (j : SealJob) : Blk :=
  let b := b.modStore fun s => { s with job := some j }
  if j.bytes < 64 then b.sealRefuse 6 else b.sealRead j

end Sys2Proof.Machine
end

