-- ==== Sys2Proof/Machine/SkyTx.lean ====
section
/-! DEFINITION. Skeyr, sending: messages of programs, transmission, timers, ends of messages (R263 to R276). -/
namespace Sys2Proof.Machine
open Sys2Proof

/-! ### What the end of a message settles -/

/-- The id that SKEYR returns: STREAM in [45:32], MSG_ID in [31:0] (R275). -/
def msgIdOf (stream msg : Nat) : Nat := stream % 2 ^ 14 * 2 ^ 32 + msg % 2 ^ 32

/-- The message of a context's program that an id names (R276). -/
def Blk.findMsg (b : Blk) (ctx id : Nat) : Option OutMsg :=
  let n := bits id 32 14
  if id / 2 ^ 46 ≠ 0 || !(b.streamsOf ctx).contains n then none
  else (b.strmOf n).msgs.find? fun m => m.msgId = id % 2 ^ 32 && (match m.use_ with | .program _ _ _ => true | _ => false)

/-- The status of a message id, or none while the message is not complete; BAD_ID is 3 (R276). -/
def Blk.msgStatus (b : Blk) (ctx id : Nat) : Option Nat :=
  match b.findMsg ctx id with
  | none => some 3
  | some m => m.status.map fun x => x.1 % 2 ^ 16 + x.2 % 2 ^ 16 * 2 ^ 16

/-- Cores that wait for a message that is complete go on (R276). -/
def Blk.wakeMsgs (b : Blk) : Blk :=
  { b with rk := b.rk.mapV fun _ r => match r.wait, r.prog with
    | some (.skeyr id), some p => match b.msgStatus p.ctx id with
      | some v => setX { r with wait := none } 10 v
      | none => r
    | _, _ => r }

/-- After messages of a context have ended: cores wake, and a phase may have ended (R215). -/
def Blk.settle (b : Blk) (ctx : Nat) : Blk :=
  let b := b.wakeMsgs
  if (b.ctx ctx).st = .active then (b.phaseEnd ctx .generate).phaseEnd ctx .learn else b

/-- A collective packet has met a failing NAK, or its peer has no stream: the collective aborts with that reason (R312). -/
def Blk.collRefused (b : Blk) (ctx group seq reason rank : Nat) : Blk :=
  match b.findColl ctx group seq with
  | some c => if collOpen c then b.abortColl c reason rank else b
  | none => b

/-- The rank of the member at a stream's other end. -/
def Blk.rankOfStream (b : Blk) (ctx group seq stream : Nat) : Nat :=
  match b.groupFor ctx group seq, b.findStream stream with
  | some g, some (_, _, e) => g.members.findIdx fun m => m.addr = e.peerAddr
  | _, _ => 0

/-- A message that cannot be completed ends; a collective's takes the collective with it where the reason aborts it (R266, R273, R312). -/
def Blk.endMsg (b : Blk) (stream : Nat) (m : OutMsg) (status info : Nat) (cancel : Bool) (abort : Option Nat) : Blk :=
  let b := b.failMsg stream m status info cancel
  match m.use_, abort with
  | .coll g q, some reason => b.collRefused m.ctx g q reason (b.rankOfStream m.ctx g q stream)
  | .seal_, _ => (b.modStrm stream fun st => { st with msgs := st.msgs.filter fun x => x.msgId ≠ m.msgId }).sealBroken
  | _, _ => b

/-! ### The SKEYR calls (R135, R275) -/

/-- The fields of a SKEYR descriptor. -/
structure SkyDesc where
  op : Nat
  stream : Nat
  winId : Nat
  winGen : Nat
  len : Nat
  addr : Nat
  off : Nat
  rsv : Bool
  deriving DecidableEq, Repr

/-- Read a descriptor from its 64 bytes as one number. -/
def skyDesc (n : Nat) : SkyDesc :=
  { op := bits n 0 8, stream := bits n 16 16, winId := bits n 32 16, winGen := bits n 48 16, len := bits n 64 32, addr := bits n 128 64,
    off := bits n 192 64, rsv := bits n 8 8 = 0 && bits n 96 32 = 0 && bits n 256 256 = 0 }

/-- Does a descriptor keep R275, apart from its local range? It names neither the context's sink stream nor the module's. -/
def Blk.skyDescOk (b : Blk) (ctx : Nat) (d : SkyDesc) : Bool :=
  d.rsv && (b.streamsOf ctx).contains d.stream && d.stream ≠ (b.ctx ctx).rec_.sink && d.stream ≠ b.cfg.mod.modSink &&
  (if d.op = tFlush then d.winId = 0 && d.winGen = 0 && d.len = 0 && d.addr = 0 && d.off = 0
   else (d.op = tWrite || d.op = tRead) && decide (1 ≤ d.len ∧ d.len ≤ 16777216))

/-- Outbound messages that a link die holds (R275): those not yet complete. -/
def Blk.outboundOn (b : Blk) (die : Nat) : Nat :=
  (b.strm.map fun e => if homeDie e.1 = die then (e.2.msgs.filter fun m => msgOpen e.2 m || m.status.isNone).length else 0).sum

/-- SKEYR: a READ, WRITE or FLUSH is issued; a0 := message id. A descriptor whose OP is another row's is left to that row. -/
def State.skeyr (s : State) (core pc a0 op n : Nat) : State :=
  match s.b.mayIssue core with
  | none => s
  | some p =>
    let d := skyDesc n
    let b := s.b.modRk core fun r => atPc r pc
    let good := a0 % 64 = 0 && inUserLocal a0 64 && b.skyDescOk p.ctx d
    if good && d.op ≠ op then s
    else if !good then s.setB (b.rkFault core cRkEcall pc)
    else if decide (8192 ≤ b.outboundOn (homeDie d.stream)) then s
    else
      match (if op = tFlush then .ok else access (b.ctx p.ctx) (progIssuer core p) (decide (op = tRead)) d.addr d.len) with
      | .fault cause a hub => s.setB (if cause = cAddrRange then b.rkFault core cause pc else b.accessFault p.ctx cause (rkPan core) noSeq a hub)
      | .wait => s
      | .ok =>
        let s := (s.setB b).publish (.rk core)
        let id := s.b.nextMsg d.stream
        let m : OutMsg := { typ := op, ctx := p.ctx, msgId := 0, psn := 0, count := 0, winId := d.winId, winGen := d.winGen, len := d.len,
                            addr := if op = tFlush then none else some d.addr, off := d.off, use_ := .program core p.phase p.bound }
        let b := s.b.issue d.stream m
        s.setB (b.modRk core fun r => setX r 10 (msgIdOf d.stream id))

/-- SKEYR_WRITE (R275). -/
def execSkeyrWrite (core pc a0 : Nat) (s : State) : Host.Outcome State Fault Refusal := .next (s.skeyr core pc a0 tWrite (s.b.rkNat core a0 64))
/-- SKEYR_READ (R275). -/
def execSkeyrRead (core pc a0 : Nat) (s : State) : Host.Outcome State Fault Refusal := .next (s.skeyr core pc a0 tRead (s.b.rkNat core a0 64))
/-- SKEYR_FLUSH (R275). -/
def execSkeyrFlush (core pc a0 : Nat) (s : State) : Host.Outcome State Fault Refusal := .next (s.skeyr core pc a0 tFlush (s.b.rkNat core a0 64))

/-- SKEYR_WAIT: a0 := status once the message is complete (R276). -/
def execSkeyrWait (core pc a0 : Nat) (s : State) : Host.Outcome State Fault Refusal :=
  .next (s.call core pc true fun b p =>
    match b.msgStatus p.ctx a0 with
    | some v => b.modRk core fun r => setX r 10 v
    | none => b.modRk core fun r => { r with wait := some (.skeyr a0) })

/-! ### Transmission (R265, R266, R270, R272, R274) -/

/-- RTO of a stream in ns before any doubling (R273). -/
def Blk.rtoOf (b : Blk) (st : Strm) : Nat :=
  let lo := b.cfg.mod.rtoMin * 1000
  match st.srtt with
  | some r => max lo (r + 4 * st.rttvar)
  | none => lo

/-- srtt, which counts as RTO_MIN before the first sample (R273). -/
def Blk.srttOf (b : Blk) (st : Strm) : Nat := st.srtt.getD (b.cfg.mod.rtoMin * 1000)

/-- The window after one srtt: the first matching row of R274. `alpha` is held in units of 2^-16. -/
def cwndNext (st : Strm) (alpha : Nat) : Nat :=
  let w := if st.timeoutSeen then 4
    else if st.eceSeen then st.cwnd * (2 ^ 17 - alpha) / 2 ^ 17
    else if st.lateSeen then st.cwnd * 7 / 8
    else st.cwnd + 1
  max 4 (min 2048 w)

/-- The moving average of the fraction of marked acknowledgements, gain 1/16 (R274). -/
def alphaNext (st : Strm) : Nat := if st.acks = 0 then st.alpha else (15 * st.alpha + st.marked * 2 ^ 16 / st.acks) / 16

/-- Once per srtt the window follows what the last srtt has shown (R274). -/
def Blk.cwndTick (b : Blk) (stream : Nat) : Blk :=
  let st := b.strmOf stream
  if !b.past st.winAt (b.srttOf st) then b
  else
    let a := alphaNext st
    b.setStrm stream { st with cwnd := cwndNext st a, alpha := a, winAt := b.now, timeoutSeen := false, eceSeen := false, lateSeen := false, acks := 0, marked := 0 }

/-- The bytes of packet `i` of a message, read from memory as it is first transmitted (R266); a capture's granule from its kept copy (R322). -/
def State.pktBytes (s : State) (m : OutMsg) (i : Nat) : List Nat :=
  let n := min 4096 (m.len - 4096 * i)
  match m.addr with
  | some a =>
    let a := match m.use_ with | .harvest c _ => s.b.capSource c (a + 4096 * i) | _ => a + 4096 * i
    s.viewBytes none m.ctx a n
  | none => (m.data.drop (4096 * i)).take n

/-- The header of packet `i` of a message (R254, R255). -/
def pktHdr (m : OutMsg) (i len : Nat) (syn : Bool) (now : Nat) : SkyHdr :=
  { typ := m.typ, syn := syn, solicit := i + 1 = m.count, winId := m.winId, winGen := m.winGen, length := len, psn := psnAdd m.psn i, msgId := m.msgId,
    msgLen := if m.typ = tFlush || m.typ = tCancel then 0 else m.total.getD m.len,
    offset := if m.typ = tFlush || m.typ = tEvent then 0 else if m.typ = tCancel then m.off else (m.off + 4096 * i) % 2 ^ 64, ts := now % 2 ^ 32 }

/-- RETX_PEAK follows it. -/
def Blk.notePeak (b : Blk) (port : Nat) : Blk :=
  b.modPort port fun x => { x with retxPeak := max x.retxPeak (b.retxBytes port / 2 ^ 20) }

/-- A WRITE whose packets have all left once is DONE at the sender (R266). -/
def Blk.departed (b : Blk) (stream : Nat) (m : OutMsg) : Blk :=
  let st := b.strmOf stream
  if m.typ ≠ tWrite || st.unsent.any (msgHas m) then b
  else b.setStrm stream (modMsg st m.msgId fun x => { x with status := if x.status.isSome then x.status else some (0, 0) })

/-- Transmit the next new sequenced packet of a stream on a path (R265, R266). -/
def State.txNew (s : State) (stream psn : Nat) (m : OutMsg) (path : Nat × Nat) : State :=
  let st := s.b.strmOf stream
  let paths := s.b.paths stream (s.b.maskOf stream m)
  let i := psnSub psn m.psn
  let data := if m.typ = tFlush || m.typ = tCancel then [] else s.pktBytes m i
  let syn := !st.synced
  let pkt : Packet := { h := s.b.peerHdr stream (pktHdr m i data.length syn s.b.now), data := data, dst := m.dst + 4096 * i }
  let k : OutPkt := { psn := psn, msgId := m.msgId, pkt := pkt, firstAt := s.b.now, lastAt := s.b.now, rto := s.b.rtoOf st, path := path, port := path.1 }
  let st := { movePath st paths path with unsent := st.unsent.filter (· ≠ psn), pkts := st.pkts ++ [k], synPsn := if syn then some psn else st.synPsn }
  let st := modMsg st m.msgId fun x => { x with firstAt := x.firstAt <|> some s.b.now, lastAt := s.b.now, port := path.1 }
  let b := (s.b.setStrm stream st).notePeak path.1
  let b := if m.typ = tCancel then b.modPort path.1 fun x => { x with cancelTx := satInc 16 x.cancelTx } else b
  let b := (b.sendData stream path pkt).departed stream m
  let b := match m.addr with | some a => b.noteUses m.ctx (a + 4096 * i) data.length | none => b
  let b := match m.use_ with | .harvest c _ => b.capSent c | _ => b
  s.setB (b.settle m.ctx)

/-- Send a READ request (R255, R267). -/
def Blk.txRead (b : Blk) (stream : Nat) (m : OutMsg) (retx : Bool) : Blk :=
  let st := b.strmOf stream
  let paths := b.paths stream (b.maskOf stream m)
  match choosePath st paths none with
  | none => b
  | some path =>
    let h : SkyHdr := { typ := tRead, retx := retx, winId := m.winId, winGen := m.winGen, msgId := m.msgId, msgLen := m.len, offset := m.off, ts := b.now % 2 ^ 32 }
    let st := modMsg (movePath st paths path) m.msgId fun x => { x with firstAt := x.firstAt <|> some b.now, lastAt := b.now, port := path.1, retry := false }
    let b := if retx then b.modPort path.1 fun x => { x with retx := satInc 32 x.retx } else b
    ((b.setStrm stream st).recCheck (homeDie stream)).sendData stream path { h := b.peerHdr stream h }

/-- Send the next READ_RESP of a READ being served; its window fields are unused and 0 (R254, R255, R267, R270). -/
def Blk.txResp (b : Blk) (stream : Nat) (v : ReadServe) : Blk :=
  let st := b.strmOf stream
  let paths := b.paths stream 0x7F
  match choosePath st paths none with
  | none => b
  | some path =>
    let data := (v.data.drop v.next).take 4096
    let h : SkyHdr := { typ := tReadResp, length := data.length, msgId := v.msgId, msgLen := v.len, offset := v.next, ts := b.now % 2 ^ 32 }
    let n := v.next + data.length
    let rest := if v.len ≤ n then st.serves.filter fun x => x.msgId ≠ v.msgId
      else st.serves.map fun x => if x.msgId = v.msgId then { x with next := n } else x
    (b.setStrm stream { movePath st paths path with serves := rest }).sendData stream path { h := b.peerHdr stream h, data := data }

/-- The new packet that may leave next on a stream, with its message and its path. -/
def Blk.newReady (b : Blk) (stream : Nat) : Option (Nat × OutMsg × (Nat × Nat)) :=
  let st := b.strmOf stream
  (nextNew st).bind fun x => (choosePath st (b.paths stream (b.maskOf stream x.2)) none).bind fun path =>
    if b.newFits st x.1 x.2 path.1 then some (x.1, x.2, path) else none

/-- SKY_PACKET_TX: one packet of a stream leaves: a new sequenced packet if one may go, else a READ, else a READ_RESP (R265, R266). While a SYN is not
acknowledged, or while a lost stream waits, nothing more is sent (R263). -/
def State.skyTx (s : State) (stream : Nat) : State :=
  if !s.b.mayLeave stream then s
  else
    let s := s.setB (s.b.cwndTick stream)
    let st := s.b.strmOf stream
    match s.b.newReady stream with
    | some (p, m, path) => s.txNew stream p m path
    | none => match nextRead st with
      | some m => s.setB (s.b.txRead stream m false)
      | none => match st.serves.head? with
        | some v => s.setB (s.b.txResp stream v)
        | none => s

/-- SKY_PACKET_TX (R266). -/
def execSkyPacketTx (stream : Nat) (s : State) : Host.Outcome State Fault Refusal := .next (s.skyTx stream)

/-! ### Timers (R270, R273) -/

/-- ACK_TIMER: 2 µs after the first packet not yet acknowledged (R270). -/
def execAckTimer (stream : Nat) (s : State) : Host.Outcome State Fault Refusal :=
  let st := s.b.strmOf stream
  match st.unackAt with
  | some t => if 0 < st.unack && s.b.past t 2000 then .next (s.setB (s.b.ackNow stream st.ackTs)) else .next s
  | none => .next s

/-- Resend an outstanding packet on a path other than its previous copy's (R272). -/
def Blk.resend (b : Blk) (stream : Nat) (k : OutPkt) (rto : Nat) : Blk :=
  let st := b.strmOf stream
  let mask := match st.msgs.find? fun m => m.msgId = k.msgId with | some m => b.maskOf stream m | none => 0x7F
  let paths := b.paths stream mask
  match choosePath st paths (some k.path) with
  | none => b
  | some path =>
    let pkt := { k.pkt with h := { k.pkt.h with retx := true, ts := b.now % 2 ^ 32 } }
    let st := modMsg st k.msgId fun x => { x with port := path.1 }
    let k' := { k with pkt := pkt, lastAt := b.now, rto := rto, path := path, retry := false }
    let st := movePath st paths path
    let st := { st with pkts := st.pkts.map fun x => if x.psn = k.psn then k' else x }
    let b := (b.setStrm stream st).modPort path.1 fun x => { x with retx := satInc 32 x.retx }
    b.sendData stream path pkt

/-- Skip a path for the stream's next 1,000 packets (R272). -/
def skipPath (st : Strm) (path : Nat × Nat) : Strm :=
  { st with skip := (st.skip.filter fun e => e.1 ≠ path) ++ [(path, st.sentCnt + 1000)] }

/-- RTO_EXPIRY: the packet is resent and its RTO doubled, to 1 ms at most (R273). -/
def Blk.rtoExpiry (b : Blk) (stream psn : Nat) : Blk :=
  let st := b.strmOf stream
  match st.pkts.find? fun k => k.psn = psn with
  | none => b
  | some k =>
    if !b.past k.lastAt k.rto || b.past k.firstAt b.mpl then b
    else
      let b := if k.retry then b else (b.setStrm stream { skipPath st k.path with timeoutSeen := true }).cwndTick stream
      b.resend stream k (min 1000000 (2 * k.rto))

/-- RTO_EXPIRY (R273). -/
def execRtoExpiry (stream psn : Nat) (s : State) : Host.Outcome State Fault Refusal := .next (s.setB (s.b.rtoExpiry stream psn))

/-- End a message; its copies are freed. -/
def Blk.giveUpMsg (b : Blk) (stream : Nat) (m : OutMsg) (status info : Nat) (cancel : Bool) (abort : Option Nat) : Blk :=
  ((b.endMsg stream m status info cancel abort).modStrm stream fun st =>
    if m.typ = tCancel then { st with msgs := st.msgs.filter fun x => x.msgId ≠ m.msgId } else st).settle m.ctx |>.drainAll

/-- GIVE_UP: MPL after a packet's first transmission its message ends TIMEOUT; so does one that no path has let leave for MPL (R272, R273). -/
def Blk.giveUp (b : Blk) (stream psn : Nat) : Blk :=
  let st := b.strmOf stream
  match st.pkts.find? fun k => k.psn = psn with
  | some k =>
    if !b.past k.firstAt b.mpl then b
    else match st.msgs.find? fun m => m.msgId = k.msgId with
      | some m => b.giveUpMsg stream m 1 0 true none
      | none => b.setStrm stream { st with pkts := st.pkts.filter fun x => x.psn ≠ psn, synPsn := if st.synPsn = some psn then none else st.synPsn }
  | none => match st.unsent.find? (· = psn) |>.bind fun p => st.msgs.find? fun m => msgHas m p with
    | some m => if (b.paths stream (b.maskOf stream m)).isEmpty && b.past m.issuedAt b.mpl then b.giveUpMsg stream m 1 0 true none else b
    | none => b

/-- GIVE_UP (R273). -/
def execGiveUp (stream psn : Nat) (s : State) : Host.Outcome State Fault Refusal := .next (s.setB (s.b.giveUp stream psn))

/-- READ_REISSUE: an incomplete READ is reissued whole 2 × RTO after its last issue, and RTO after it where it was refused with a retry reason, until MPL after
the first; then it ends TIMEOUT (R267, R271). -/
def Blk.readReissue (b : Blk) (stream msg : Nat) : Blk :=
  let st := b.strmOf stream
  match st.msgs.find? fun m => m.msgId = msg && m.typ = tRead && m.status.isNone with
  | none => b
  | some m => match m.firstAt with
    | none => if (b.paths stream 0x7F).isEmpty && b.past m.issuedAt b.mpl then b.giveUpMsg stream m 1 0 false none else b
    | some f =>
      if b.past f b.mpl then b.giveUpMsg stream m 1 0 false none
      else if b.past m.lastAt (if m.retry then b.rtoOf st else 2 * b.rtoOf st) && b.mayLeave stream then b.txRead stream m true else b

/-- READ_REISSUE (R267). -/
def execReadReissue (stream msgId : Nat) (s : State) : Host.Outcome State Fault Refusal := .next (s.setB (s.b.readReissue stream msgId))

/-- The packet of an acknowledged FLUSH, made anew to be resent. -/
def Blk.txFlush (b : Blk) (stream : Nat) (m : OutMsg) : Blk :=
  let st := b.strmOf stream
  let paths := b.paths stream (b.maskOf stream m)
  match choosePath st paths none with
  | none => b
  | some path =>
    let h := { pktHdr m 0 0 false b.now with retx := true }
    let st := modMsg (movePath st paths path) m.msgId fun x => { x with lastAt := b.now, port := path.1 }
    let b := b.modPort path.1 fun x => { x with retx := satInc 32 x.retx }
    (b.setStrm stream st).sendData stream path { h := b.peerHdr stream h }

/-- FLUSH_RESEND: no FLUSH_ACK within RTO after the FLUSH was acknowledged: it is resent, until MPL; then it ends TIMEOUT and a CANCEL names it (R268, R269). -/
def Blk.flushResend (b : Blk) (stream msg : Nat) : Blk :=
  let st := b.strmOf stream
  match st.msgs.find? fun m => m.msgId = msg && m.typ = tFlush && m.status.isNone && m.acked with
  | none => b
  | some m =>
    if b.past (m.firstAt.getD m.issuedAt) b.mpl then b.giveUpMsg stream m 1 0 true none
    else if b.past m.lastAt (b.rtoOf st) && b.mayLeave stream then b.txFlush stream m else b

/-- FLUSH_RESEND (R268). -/
def execFlushResend (stream msgId : Nat) (s : State) : Host.Outcome State Fault Refusal := .next (s.setB (s.b.flushResend stream msgId))

/-- RECORD_EXPIRY: a target record is discarded 2 × MPL after its first packet (R273). -/
def execRecordExpiry (stream msgId : Nat) (s : State) : Host.Outcome State Fault Refusal :=
  match s.b.recs.find? fun r => r.stream = stream && r.msgId = msgId with
  | some r =>
    if s.b.past r.firstAt (2 * s.b.mpl) then
      let b := { s.b with recs := s.b.recs.filter fun x => x.stream ≠ stream || x.msgId ≠ msgId }
      .next (s.setB (b.modPort r.port fun x => { x with recExpired := satInc 16 x.recExpired }))
    else .next s
  | none => .next s

/-- RESYNC_WAIT_END: MPL after NO_STREAM the direction may send again, beginning with SYN (R263). -/
def execResyncWaitEnd (stream : Nat) (s : State) : Host.Outcome State Fault Refusal :=
  match (s.b.strmOf stream).resyncAt with
  | some t => if t ≤ s.b.now then .next (s.setB (s.b.modStrm stream fun st => { st with resyncAt := none, synced := false, synPsn := none })) else .next s
  | none => .next s

end Sys2Proof.Machine
end

