-- ==== Sys2Proof/Machine/Collectives.lean ====
section
/-! DEFINITION. Collectives: issue, shards, sums, barriers, permutations, pipeline queues, waits and aborts on this member (16). -/
namespace Sys2Proof.Machine
open Sys2Proof

/-! ### Descriptors (R299) -/

/-- Read a descriptor from its 64 bytes as one number. -/
def collDesc (n : Nat) : CollDesc :=
  { op := bits n 0 8, fmt := bits n 8 4, subn := bitAt n 12, ovfm := bitAt n 13, group := bits n 16 16, epoch := bits n 32 32, src := bits n 64 64,
    dst := bits n 128 64, count := bits n 192 64, root := bits n 256 8, queue := bits n 264 4, slots := bits n 272 7, slotBytes := bits n 288 32,
    table := bits n 320 64, tableCount := bits n 384 32, inBytes := bits n 448 64 }

/-- Its reserved bits are 0. -/
def collRsvOk (n : Nat) : Bool := bits n 14 2 = 0 && bits n 268 4 = 0 && bits n 279 9 = 0 && bits n 416 32 = 0

/-- Bytes of an element of a reduction. -/
def redSize (d : CollDesc) : Nat := if d.fmt = 0 then 4 else 2

/-- The first element and the number of elements of chunk `c` of a reduction over `n` members (R303). -/
def chunkOf (count n c : Nat) : Nat × Nat :=
  let s := 16 * ((count + 16 * n - 1) / (16 * n))
  (c * s, min ((c + 1) * s) count - min (c * s) count)

/-- The ranges that a collective reads and writes at this member, but for a PERMUTE's segments: source, destination (R303, R309). -/
def collRanges (d : CollDesc) (n me : Nat) : (Nat × Nat) × (Nat × Nat) :=
  let sz := redSize d
  match d.op with
  | 1 => ((d.src, d.count * sz), (d.dst, d.count * sz))
  | 2 => ((d.src, d.count * sz), (d.dst, (chunkOf d.count n me).2 * sz))
  | 3 => ((d.src, d.count), (d.dst, n * d.count))
  | 4 => ((d.src, n * d.count), (d.dst, n * d.count))
  | 5 => ((d.src, if d.root = me then d.count else 0), (d.dst, d.count))
  | 8 => ((d.src, d.count), (0, 0))
  | 9 => ((0, 0), (d.dst, d.slots * d.slotBytes))
  | _ => ((0, 0), (0, 0))

/-- Fields that an OP leaves unused are 0, and those it uses are in range (R299). -/
def collFieldsOk (d : CollDesc) (n : Nat) : Bool :=
  decide (1 ≤ d.op ∧ d.op ≤ 9) && d.src % 64 = 0 && d.dst % 64 = 0 &&
  (if d.op = 1 || d.op = 2 then decide (d.fmt ≤ 1) else d.fmt = 0 && !d.subn && !d.ovfm) &&
  (if d.op = 7 || d.op = 9 then d.count = 0 else d.op = 1 || d.op = 2 || d.count % 64 = 0) &&
  (if d.op = 5 then decide (d.root < n) else d.root = 0) &&
  (if d.op = 8 || d.op = 9 then n = 2 else d.queue = 0) &&
  (if d.op = 9 then decide (1 ≤ d.slots ∧ d.slots ≤ 64) && d.slotBytes % 64 = 0 else d.slots = 0 && d.slotBytes = 0) &&
  (if d.op = 6 then decide (1 ≤ d.tableCount ∧ d.tableCount ≤ 65536) else d.table = 0 && d.tableCount = 0 && d.inBytes = 0)

def rangesMeet (a b : Nat × Nat) : Bool := decide (0 < a.2 ∧ 0 < b.2 ∧ a.1 < b.1 + b.2 ∧ b.1 < a.1 + a.2)

/-- A segment of a PERMUTE's table (R308). -/
structure PermSeg where
  srcOff : Nat
  len : Nat
  rank : Nat
  dstOff : Nat
  ok : Bool
  deriving DecidableEq, Repr

/-- The table of a PERMUTE, read from context memory. -/
def State.permTable (s : State) (ctx : Nat) (d : CollDesc) : List PermSeg :=
  (List.range d.tableCount).map fun i =>
    let n := s.viewNat none ctx (d.table + 32 * i) 32
    { srcOff := bits n 0 64, len := bits n 64 64, rank := bits n 128 8, dstOff := bits n 192 64, ok := bits n 64 64 % 64 = 0 && bits n 136 56 = 0 }

/-! ### Sending shards (R300 to R302) -/

/-- Total bytes that member `src` contributes (R300), where the descriptor of member `me` says it; a PERMUTE's sender sums its table, and a QRECV takes what comes. -/
def collTotal (d : CollDesc) (n me src : Nat) : Option Nat :=
  match d.op with
  | 1 => some (d.count * redSize d)
  | 2 => some (d.count * redSize d)
  | 3 => some d.count
  | 4 => some (n * d.count)
  | 5 => some (if d.root = src then d.count else 0)
  | 7 => some 0
  | 8 => some (if src = me then d.count else 0)
  | _ => none

/-- Send a piece of a shard to the member of its rank (R301). -/
def Blk.sendPiece (b : Blk) (c : Coll) (total : Nat) (x : Shard) : Blk :=
  match (b.collGroup c).bind fun g => g.members[x.rank]? with
  | none => b
  | some m => match b.memberStream c.ctx m with
    | none => b
    | some n => b.issue n
      { typ := if collReduces c then tReduce else tPermute, ctx := c.ctx, msgId := 0, psn := 0, count := 0, winId := c.group, winGen := c.d.epoch % 2 ^ 16,
        len := x.bytes.length, total := some (total % 2 ^ 32), data := x.bytes, off := c.seq * 2 ^ 40 + x.off % 2 ^ 40, dst := x.dst, use_ := .coll c.group c.seq }

/-- Part of a shard: its bytes from `i` on, at most `n` of them. -/
def shardPart (x : Shard) (i n : Nat) : Shard := { x with off := x.off + i, bytes := (x.bytes.drop i).take n, dst := x.dst + i }

/-- Pieces of at most 4 MiB (R302). -/
def pieces (x : Shard) : List Shard := (List.range ((x.bytes.length + 4194303) / 4194304)).map fun i => shardPart x (4194304 * i) 4194304

/-- Send a shard to its rank, and keep it (R312). -/
def Blk.sendShard (b : Blk) (c : Coll) (total : Nat) (x : Shard) : Blk :=
  let b := b.modColl c.ctx c.group c.seq fun y => { y with kept := y.kept ++ pieces x }
  (pieces x).foldl (fun b p => b.sendPiece c total p) b

/-- Members of a collective's group, and this module's rank. -/
def Blk.collN (b : Blk) (c : Coll) : Nat := match b.collGroup c with | some g => g.members.length | none => 0
def Blk.collMe (b : Blk) (c : Coll) : Nat := match b.collGroup c with | some g => b.rankIn g | none => 0

/-- The other ranks. -/
def Blk.others (b : Blk) (c : Coll) : List Nat := (List.range (b.collN c)).filter (· ≠ b.collMe c)

/-! ### What is still missing (R311, R312) -/

/-- The shards expected from others: source, offset, bytes. -/
def Blk.expected (b : Blk) (c : Coll) : List (Nat × Nat × Nat) :=
  let n := b.collN c
  let me := b.collMe c
  let sz := redSize c.d
  let chunk := fun r => ((chunkOf c.d.count n r).1 * sz, (chunkOf c.d.count n r).2 * sz)
  (match c.d.op with
    | 1 => (b.others c).map (fun r => (r, (chunk me).1, (chunk me).2)) ++ (b.others c).map (fun r => (r, (chunk r).1, (chunk r).2))
    | 2 => (b.others c).map fun r => (r, (chunk me).1, (chunk me).2)
    | 3 => (b.others c).map fun r => (r, 0, c.d.count)
    | 4 => (b.others c).map fun r => (r, me * c.d.count, c.d.count)
    | 5 => if c.d.root = me then [] else [(c.d.root, 0, c.d.count)]
    | 9 => match c.inLen with | some k => (b.others c).map fun r => (r, 0, k) | none => []
    | _ => []).filter fun e => 0 < e.2.2

/-- The first byte of a stretch that has not come. -/
def firstGap (got : List Shard) (src : Nat) : Nat → Nat → Nat → Nat
  | 0, off, _ => off
  | n + 1, off, hi =>
    if hi ≤ off then off
    else match got.find? fun x => x.rank = src && decide (x.off ≤ off ∧ off < x.off + x.bytes.length) with
      | some x => firstGap got src n (x.off + x.bytes.length) hi
      | none => off

/-- Bytes of shards, one that came twice counted once. -/
def shardBytes : List Shard → Nat
  | [] => 0
  | x :: t => shardBytes t + ((List.range x.bytes.length).filter fun i =>
      !(t.any fun y => y.rank = x.rank && decide (y.off ≤ x.off + i ∧ x.off + i < y.off + y.bytes.length))).length

/-- Bytes received in all. -/
def gotBytes (c : Coll) : Nat := shardBytes c.got

/-- A missing shard: its source, its offset, its length, a multiple of 64 of at most 4 MiB (R301). For a permutation it is free: a member knows how many bytes it is to
receive, and no rule tells it which segments of which source they are (log 38). -/
def Blk.missing (b : Blk) (c : Coll) : Option (Nat × Nat × Nat) :=
  if c.d.op = 6 then
    let v := Config.freeNat b.freeCtr
    let l := b.others c
    if gotBytes c < c.d.inBytes then (l[v % max 1 l.length]?).map fun r => (r, 64 * (v / 2 ^ 8 % 2 ^ 34), 64 * (v / 2 ^ 42 % 2 ^ 16 + 1)) else none
  else (b.expected c).findSome? fun e =>
    let g := firstGap c.got e.1 (c.got.length + 1) e.2.1 (e.2.1 + e.2.2)
    if g < e.2.1 + e.2.2 then some (e.1, g, min 4194304 ((e.2.1 + e.2.2 - g + 63) / 64 * 64)) else none

/-- Does the next step lack something from a peer: a shard, an ENTRY, a REPORT, a CREDIT, or data in a slot (R311)? The rank it waits for. -/
def Blk.lacks (b : Blk) (c : Coll) : Option Nat :=
  match c.st with
  | .running => match c.d.op with
    | 7 => (b.others c).find? fun r => !c.entry.has r
    | 8 => if c.sent then none else (b.others c).head?
    | 9 => if c.inLen.isNone then (b.others c).head? else (b.missing c).map (·.1)
    | 6 => if gotBytes c < c.d.inBytes then (b.others c).head? else none
    | _ => (b.missing c).map (·.1)
  | .reported => (b.others c).find? fun r => !c.report.has r
  | _ => none

/-- A wait for a peer is over: its time counts (R310, R311). -/
def Blk.waitOver (b : Blk) (c : Coll) : Blk :=
  match c.waitAt with
  | none => b
  | some t =>
    let us := (b.now - t) / 1000
    let b := b.modColl c.ctx c.group c.seq fun x => { x with waitAt := none, waitTide := none }
    let b := match c.engine with
      | some e => b.modCe e fun x => { x with waitUs := satAdd 32 x.waitUs us }
      | none => b
    let queue := fun (f : PipeQ → PipeQ) => b.modCtx c.ctx fun k => { k with queues := k.queues.set c.d.queue (f (k.queues.get {} c.d.queue)) }
    if c.d.op = 8 then queue fun q => { q with prodStall := satAdd 32 q.prodStall us }
    else if c.d.op = 9 then queue fun q => { q with consStall := satAdd 32 q.consStall us }
    else b

/-- After something has come from a peer: the wait ends if what was waited for is there. -/
def Blk.reWait (b : Blk) (ctx group seq : Nat) (before : Option (Nat × Nat × Nat)) : Blk :=
  match b.findColl ctx group seq with
  | none => b
  | some c => if c.waitAt.isSome && (b.lacks c ≠ some c.waitsOn || (b.missing c).map (fun m => (m.1, m.2.1)) ≠ before.map (fun m => (m.1, m.2.1))) then b.waitOver c else b

/-- COLL_PEER_WAIT: the engine reports WAITING; the sluice may prefetch (R177, R311). -/
def execCollPeerWait (ctx group seq : Nat) (s : State) : Host.Outcome State Fault Refusal :=
  match s.b.findColl ctx group seq with
  | none => .next s
  | some c => match s.b.lacks c, c.waitAt with
    | some r, none => .next (s.setB (s.b.modColl ctx group seq fun x => { x with waitAt := some s.b.now, waitTide := some s.b.tide.num, waitsOn := r, rereqTide := s.b.tide.num }))
    | _, _ => .next s

/-! ### Ends (R299, R308) -/

/-- The collective that COLL_WAIT names. -/
def Blk.collStatus (b : Blk) (ctx id : Nat) : Option (Nat × Option Nat) :=
  if id / 2 ^ 39 ≠ 0 then some (3, none)
  else match b.findColl ctx (bits id 0 16) (bits id 16 23) with
    | none => some (3, none)
    | some c => match c.st with
      | .done => some (0, if c.d.op = 9 then some c.slot else none)
      | .epochOld => some (2, none)
      | .aborted => some (3, none)
      | _ => none

def setStatus (r : Rk) (v : Nat × Option Nat) : Rk :=
  let r := setX { r with wait := none } 10 v.1
  match v.2 with
  | some n => setX r 11 n
  | none => r

/-- Cores that wait for a collective that has ended go on. -/
def Blk.wakeColls (b : Blk) : Blk :=
  { b with rk := b.rk.mapV fun _ r => match r.wait, r.prog with
    | some (.coll id), some p => match b.collStatus p.ctx id with
      | some v => setStatus r v
      | none => r
    | _, _ => r }

/-- Collectives tagged with the context's present epoch that have not ended, the permutation left out (R308, R317). -/
def Blk.oldOpen (b : Blk) (ctx : Nat) : Nat :=
  (b.colls.filter fun c => c.ctx = ctx && collOpen c && c.d.op ≠ 6 && c.d.epoch = (b.ctx ctx).epoch).length

/-- The permutation that a context has requested. -/
def Blk.permReq (b : Blk) (ctx : Nat) : Option Coll := b.colls.find? fun c => c.ctx = ctx && c.d.op = 6 && collOpen c

/-- A requested permutation is reported once nothing of the old epoch runs (R308 step 2). -/
def Blk.reportCheck (b : Blk) (ctx : Nat) : Blk :=
  match b.permReq ctx with
  | some c =>
    if c.st = .requested && b.oldOpen ctx = 0 then
      let me := b.collMe c
      let b := b.modColl ctx c.group c.seq fun x => { x with st := .reported, report := x.report.set me b.tide.num }
      b.sendCtlAll ctx c.group c.seq c.d.epoch false { kind := 2, rank := me, tide := b.tide.num }
    else b
  | none => b

/-- A collective has ended on this member. -/
def Blk.collEnd (b : Blk) (c : Coll) : Blk :=
  let lim := match b.collGroup c with | some g => g.shardTo | none => 8
  let b := b.waitOver c
  let b := b.modColl c.ctx c.group c.seq fun x => { x with st := .done, doneTide := b.tide.num, keptUntil := some (b.tide.num + lim), got := [], engine := none }
  let b := match c.engine with
    | some e => b.modCe e fun x => { x with done := satInc 32 x.done }
    | none => b
  ((b.reportCheck c.ctx).wakeColls).settle c.ctx

/-! ### Sums (R304) -/

/-- Element `e` of the owner's chunk: the inputs in the order rank c + 1, c + 2, …, c. -/
def reduceElem (d : CollDesc) (xs : List Nat) : Nat × NumFlags :=
  let fmt : Fmt := if d.fmt = 0 then .fp32 else .bf16
  match xs with
  | [] => (0, noFlags)
  | x :: rest =>
    let a0 := convertCode fmt .fp32 d.subn false x
    let acc := rest.foldl (fun a y =>
      let v := convertCode fmt .fp32 d.subn false y
      let r := add32 d.subn a.1 v.1
      (r.1, orFlags a.2 (orFlags v.2 r.2))) a0
    if d.fmt = 0 then (acc.1, asVal acc.2)
    else
      let r := convertCode .fp32 .bf16 d.subn d.ovfm acc.1
      (r.1, asVal (orFlags acc.2 r.2))

/-- A byte of a shard from a rank, by its offset in that rank's contribution. -/
def shardByte (l : List Shard) (rank off : Nat) : Nat :=
  match l.find? fun x => x.rank = rank && decide (x.off ≤ off ∧ off < x.off + x.bytes.length) with
  | some x => x.bytes.getD (off - x.off) 0
  | none => 0

/-- The sum of the chunk that this member owns: its bytes and flags. -/
def Blk.sumChunk (b : Blk) (c : Coll) : List Nat × NumFlags :=
  let n := b.collN c
  let me := b.collMe c
  let sz := redSize c.d
  let k := chunkOf c.d.count n me
  let mine := c.kept.filter fun x => x.rank = me
  (List.range k.2).foldl (fun a e =>
    let off := (k.1 + e) * sz
    let xs := (List.range n).map fun j =>
      let r := (me + 1 + j) % n
      ofLeBytes ((List.range sz).map fun i => shardByte (if r = me then mine else c.got) r (off + i))
    let x := reduceElem c.d xs
    (a.1 ++ leBytes sz x.1, orFlags a.2 x.2)) ([], noFlags)

/-- Have all inputs of the owned chunk come? -/
def Blk.inputsIn (b : Blk) (c : Coll) : Bool :=
  let k := chunkOf c.d.count (b.collN c) (b.collMe c)
  let lo := k.1 * redSize c.d
  let hi := lo + k.2 * redSize c.d
  (b.others c).all fun r => decide (hi ≤ firstGap c.got r (c.got.length + 1) lo hi)

/-! ### Placing -/

/-- May bytes of a collective be placed now: the range takes writes, and its buffer is BUILDING (R219, R221, R314)? -/
def State.collMayPlace (s : State) (c : Coll) (a len : Nat) : Bool :=
  access (s.b.ctx c.ctx) c.who true a len = .ok && s.canWrite c.ctx a len

/-- Place bytes where every reader sees them (R163, R193). -/
def State.collPlace (s : State) (c : Coll) (a : Nat) (bs : List Nat) : State :=
  (s.setB (s.b.observe s.mem c.ctx (cellsAt a bs) false)).store c.ctx a bs

/-- Where a shard's bytes go at this member, if they go to memory at once (R303, R308, R309): by its source, its offset, and a PERMUTE's place. -/
def Blk.shardDst (b : Blk) (c : Coll) (src off dst : Nat) : Option Nat :=
  let me := b.collMe c
  let k := chunkOf c.d.count (b.collN c) src
  match c.d.op with
  | 1 => if k.1 * redSize c.d ≤ off && decide (off < (k.1 + k.2) * redSize c.d) then some (c.d.dst + off) else none
  | 3 => some (c.d.dst + src * c.d.count + off)
  | 4 => some (c.d.dst + src * c.d.count + (off - me * c.d.count))
  | 5 => some (c.d.dst + off)
  | 6 => some (c.d.dst + dst)
  | 9 => some (c.d.dst + c.slot * c.d.slotBytes + off)
  | _ => none

/-- Form and place the owned chunk's sum once its inputs are there; in an all-reduce it goes to the others (R303, R304). -/
def State.trySum (s : State) (ctx group seq : Nat) : State :=
  match s.b.findColl ctx group seq with
  | none => s
  | some c =>
    let me := s.b.collMe c
    let k := chunkOf c.d.count (s.b.collN c) me
    let sz := redSize c.d
    let a := if c.d.op = 1 then c.d.dst + k.1 * sz else c.d.dst
    if !collReduces c || c.summed || c.st ≠ .running || !s.b.inputsIn c then s
    else if k.2 ≠ 0 && !s.collMayPlace c a (k.2 * sz) then s.cowBlock ctx a (k.2 * sz)
    else
      let x := s.b.sumChunk c
      let s := if k.2 = 0 then s else s.collPlace c a x.1
      let b := s.b.setFlags ctx c.who x.2
      let b := b.modColl ctx group seq fun y => { y with summed := true }
      s.setB (if c.d.op = 1 && k.2 ≠ 0 then (b.others c).foldl (fun b r => b.sendShard c (c.d.count * sz) { rank := r, off := k.1 * sz, bytes := x.1 }) b else b)

/-- A shard, or part of one, has come from a rank (R301): it is staged or placed; a part that has come before is dropped. -/
def State.takeShard (s : State) (c : Coll) (x : Shard) : State :=
  if c.got.any fun y => y.rank = x.rank && y.off = x.off then s
  else
    let before := s.b.missing c
    let s := match s.b.shardDst c x.rank x.off x.dst with
      | some a => s.collPlace c a x.bytes
      | none => s
    let s := s.setB (s.b.modColl c.ctx c.group c.seq fun y => { y with got := y.got ++ [x] })
    let s := s.trySum c.ctx c.group c.seq
    s.setB (if c.d.op = 6 then s.b.waitOver c else s.b.reWait c.ctx c.group c.seq before)

/-- May a shard that has come be taken now? -/
def State.shardReady (s : State) (c : Coll) (src off dst len : Nat) : Bool :=
  match s.b.shardDst c src off dst with
  | some a => s.collMayPlace c a len
  | none => true

/-! ### Issue (R299, R300, R307) -/

/-- Does the context have a stream to every other member (R298)? -/
def Blk.groupReach (b : Blk) (ctx : Nat) (g : GroupRec) : Bool :=
  decide (b.rankIn g < g.members.length) && (g.members.all fun m => m.position = b.pos || (b.memberStream ctx m).isSome)

/-- Does a collective take one of its die's 64 waiting places: it waits for an engine, for its epoch, or for its permutation's start (R302)? -/
def takesPlace (c : Coll) : Bool := collOpen c && c.st ≠ .running

/-- Waiting places of a link die in use, of 64 (R302). -/
def Blk.collRoom (b : Blk) (die : Nat) : Nat := (b.colls.filter fun c => takesPlace c && c.die = die).length

/-- The link die on which a collective waits: the one with fewer waiting, LD0 where they are equal. -/
def Blk.collDie (b : Blk) : Nat := if b.collRoom dLD1 < b.collRoom dLD0 then dLD1 else dLD0

/-- A collective asks its die's arbiter for an engine (R302). -/
def Blk.askEngine (b : Blk) (c : Coll) : Blk :=
  b.request (.colls c.die) { cls := (b.ctx c.ctx).qos, ctx := c.ctx, cost := 1, what := .coll c.ctx c.group c.seq }

/-- Queue a collective for an engine (R302). -/
def Blk.queueColl (b : Blk) (c : Coll) : Blk := { b with colls := b.colls ++ [c] }.askEngine c

/-- What the epoch rule of R307 does with a descriptor. -/
inductive EpochRule where
  | run | old | request | hold | bad
  deriving DecidableEq, Repr

def Blk.epochRule (b : Blk) (ctx : Nat) (d : CollDesc) : EpochRule :=
  let e := (b.ctx ctx).epoch
  let req := (b.permReq ctx).isSome
  if d.epoch = e && d.op ≠ 6 then (if req then .old else .run)
  else if d.epoch = (e + 1) % 2 ^ 32 then (if d.op = 6 then (if req then .bad else .request) else if req then .hold else .bad)
  else .bad

/-- The first fault of a collective's ranges: the region table, then the weight pair (R219, R275, R299). A WAITING destination is no fault (R221). -/
def State.collAccess (s : State) (who : Issuer) (ctx : Nat) (d : CollDesc) (n me : Nat) : Option (Nat × Nat × Bool) :=
  let c := s.b.ctx ctx
  let r := collRanges d n me
  let segs := if d.op = 6 && covered c d.table (32 * d.tableCount) then s.permTable ctx d else []
  let reads := [r.1] ++ (if d.op = 6 then [(d.table, 32 * d.tableCount)] else []) ++ segs.map fun x => (d.src + x.srcOff, x.len)
  let writes := [r.2] ++ (segs.filter fun x => x.rank = me).map fun x => (d.dst + x.dstOff, x.len)
  match accessAll c who false reads with
  | .fault cause a hub => some (cause, a, hub)
  | _ => match accessAll c who true writes with
    | .fault cause a hub => some (cause, a, hub)
    | _ => none

/-- Credits that came early for a queue's collective. -/
def Blk.earlyCredits (b : Blk) (ctx group seq : Nat) : Nat :=
  (b.heldShards.map fun h => let r := ctlOfBytes h.pkt.data; if heldFor h ctx group seq && bitAt h.pkt.h.offset 63 && r.kind = 4 then r.credits else 0).sum

/-- A QRECV declares or advances its queue's ring, and sends credits to the producer (R309). -/
def Blk.queueRecv (b : Blk) (c : Coll) : Blk :=
  let k := b.ctx c.ctx
  let q := k.queues.get {} c.d.queue
  let ring := q.ring.getD (c.d.dst, c.d.slotBytes, c.d.slots)
  let slot := q.count % max 1 ring.2.2
  let b := b.setCtx c.ctx { k with queues := k.queues.set c.d.queue { q with group := c.group, ring := some ring, count := q.count + 1 } }
  let b := b.modColl c.ctx c.group c.seq fun x => { x with slot := slot, d := { x.d with dst := ring.1, slotBytes := ring.2.1, slots := ring.2.2 } }
  b.sendCtlAll c.ctx c.group c.seq c.d.epoch false { kind := 4, rank := b.collMe c, credits := if q.count = 0 then ring.2.2 else 1 }

/-- A collective is accepted: its number is taken and it is queued, held, requested or refused (R300, R307). -/
def Blk.acceptColl (b : Blk) (p : Prog) (core : Nat) (d : CollDesc) (rule : EpochRule) : Blk × Nat :=
  let x := takeSeq (b.ctx p.ctx) d.group
  let b := (b.setCtx p.ctx x.1).forgetColl p.ctx d.group x.2
  let c : Coll := { ctx := p.ctx, group := d.group, seq := x.2, d := d, who := progIssuer core p, die := b.collDie }
  let b := match rule with
    | .run => b.queueColl c
    | .hold => { b with colls := b.colls ++ [{ c with st := .held }] }
    | .request => ({ b with colls := b.colls ++ [{ c with st := .requested, report := b.earlyCtl p.ctx d.group x.2 2 }] }).reportCheck p.ctx
    | _ => { b with colls := b.colls ++ [{ c with st := .epochOld }] }
  let b := if d.op = 9 && rule ≠ .old then b.queueRecv c else b
  let n := b.earlyCredits p.ctx d.group x.2
  let b := if d.op = 8 then b.modCtx p.ctx fun k => { k with queues := k.queues.set d.queue { (k.queues.get {} d.queue) with group := d.group, credits := (k.queues.get {} d.queue).credits + n } } else b
  (b, x.2)

/-- COLL (R299). A descriptor whose OP is another row's is left to that row. -/
def State.coll (s : State) (core pc a0 op n : Nat) : State :=
  match s.b.mayIssue core with
  | none => s
  | some p =>
    let d := collDesc n
    let b := s.b.modRk core fun r => atPc r pc
    let g := b.groupOf d.group
    let k := (g.map fun g => g.members.length).getD 0
    let me := (g.map b.rankIn).getD 0
    let r := collRanges d k me
    let table := if d.op = 6 && covered (b.ctx p.ctx) d.table (32 * d.tableCount) then s.permTable p.ctx d else []
    let form := a0 % 64 = 0 && inUserLocal a0 64 && collRsvOk n && collFieldsOk d k && g.any (b.groupReach p.ctx) && !rangesMeet r.1 r.2 &&
      table.all fun x => x.ok && decide (x.rank < k) && table.all fun y => y.rank ≠ me || !rangesMeet (d.src + x.srcOff, x.len) (d.dst + y.dstOff, y.len)
    let rule := b.epochRule p.ctx d
    if form && d.op ≠ op then s
    else if !form || rule = .bad then s.setB (b.rkFault core cRkEcall pc)
    else match s.collAccess (progIssuer core p) p.ctx d k me with
      | some (cause, a, hub) => s.setB (if cause = cAddrRange then b.rkFault core cause pc else b.accessFault p.ctx cause (rkPan core) noSeq a hub)
      | none =>
        if rule ≠ .old && decide (64 ≤ b.collRoom b.collDie) then s
        else
          let s := (s.setB b).publish (.rk core)
          let x := s.b.acceptColl p core d rule
          s.setB (x.1.modRk core fun r => setX r 10 (d.group + x.2 * 2 ^ 16))

/-- ALL_REDUCE (R299). -/
def execAllReduce (core pc a0 : Nat) (s : State) : Host.Outcome State Fault Refusal := .next (s.coll core pc a0 1 (s.b.rkNat core a0 64))
/-- REDUCE_SCATTER (R299). -/
def execReduceScatter (core pc a0 : Nat) (s : State) : Host.Outcome State Fault Refusal := .next (s.coll core pc a0 2 (s.b.rkNat core a0 64))
/-- ALL_GATHER (R299). -/
def execAllGather (core pc a0 : Nat) (s : State) : Host.Outcome State Fault Refusal := .next (s.coll core pc a0 3 (s.b.rkNat core a0 64))
/-- ALL_TO_ALL (R299). -/
def execAllToAll (core pc a0 : Nat) (s : State) : Host.Outcome State Fault Refusal := .next (s.coll core pc a0 4 (s.b.rkNat core a0 64))
/-- BROADCAST (R299). -/
def execBroadcast (core pc a0 : Nat) (s : State) : Host.Outcome State Fault Refusal := .next (s.coll core pc a0 5 (s.b.rkNat core a0 64))
/-- PERMUTE (R299, R308 step 1). -/
def execPermute (core pc a0 : Nat) (s : State) : Host.Outcome State Fault Refusal := .next (s.coll core pc a0 6 (s.b.rkNat core a0 64))
/-- BARRIER (R299). -/
def execBarrier (core pc a0 : Nat) (s : State) : Host.Outcome State Fault Refusal := .next (s.coll core pc a0 7 (s.b.rkNat core a0 64))
/-- QSEND (R299, R309). -/
def execQsend (core pc a0 : Nat) (s : State) : Host.Outcome State Fault Refusal := .next (s.coll core pc a0 8 (s.b.rkNat core a0 64))
/-- QRECV (R299, R309). -/
def execQrecv (core pc a0 : Nat) (s : State) : Host.Outcome State Fault Refusal := .next (s.coll core pc a0 9 (s.b.rkNat core a0 64))

/-- COLL_WAIT: a0 := status once the collective has ended (R299). -/
def execCollWait (core pc a0 : Nat) (s : State) : Host.Outcome State Fault Refusal :=
  .next (s.call core pc true fun b p =>
    match b.collStatus p.ctx a0 with
    | some v => b.modRk core fun r => setStatus r v
    | none => b.modRk core fun r => { r with wait := some (.coll a0) })

/-! ### Running (R302, R303) -/

/-- Is an engine idle and in service? -/
def Blk.ceFree (b : Blk) (e : Nat) : Bool := b.works (cePan e) && !(b.colls.any fun c => c.engine = some e && collOpen c)

/-- The segments of a PERMUTE's table as shards: the contribution is the segments in the order of the table, one after the other (R301, R308; log 38). -/
def permShards (rd : Nat → Nat → List Nat) (src : Nat) : Nat → List PermSeg → List Shard
  | _, [] => []
  | off, x :: t => { rank := x.rank, off := off, bytes := rd (src + x.srcOff) x.len, dst := x.dstOff } :: permShards rd src (off + x.len) t

/-- The bytes a member contributes (R300). -/
def State.contribution (s : State) (c : Coll) : Nat :=
  (collTotal c.d (s.b.collN c) (s.b.collMe c) (s.b.collMe c)).getD ((s.permTable c.ctx c.d).map (·.len)).sum

/-- What a member sends when its collective starts; its own part goes to its own rank (R303). -/
def State.startShards (s : State) (c : Coll) : List Shard :=
  let n := s.b.collN c
  let me := s.b.collMe c
  let sz := redSize c.d
  let rd := fun a len => s.viewBytes none c.ctx a len
  match c.d.op with
  | 1 => (List.range n).map fun r => let k := chunkOf c.d.count n r; { rank := r, off := k.1 * sz, bytes := rd (c.d.src + k.1 * sz) (k.2 * sz) }
  | 2 => (List.range n).map fun r => let k := chunkOf c.d.count n r; { rank := r, off := k.1 * sz, bytes := rd (c.d.src + k.1 * sz) (k.2 * sz) }
  | 3 => (List.range n).map fun r => { rank := r, off := 0, bytes := rd c.d.src c.d.count }
  | 4 => (List.range n).map fun r => { rank := r, off := r * c.d.count, bytes := rd (c.d.src + r * c.d.count) c.d.count }
  | 5 => if c.d.root = me then (List.range n).map fun r => { rank := r, off := 0, bytes := rd c.d.src c.d.count } else []
  | 6 => permShards rd c.d.src 0 (s.permTable c.ctx c.d)
  | _ => []

/-- Shards held for a collective, with the rank each came from (R301). -/
def Blk.heldData (b : Blk) (c : Coll) : List HeldShard := b.heldShards.filter fun h => heldFor h c.ctx c.group c.seq && !bitAt h.pkt.h.offset 63

/-- The QSEND's data leaves once a credit is there (R309). -/
def State.trySend (s : State) (ctx group seq : Nat) : State :=
  match s.b.findColl ctx group seq with
  | none => s
  | some c =>
    let k := s.b.ctx ctx
    let q := k.queues.get {} c.d.queue
    if c.d.op ≠ 8 || c.st ≠ .running || c.sent || q.credits = 0 then s
    else
      let b := s.b.setCtx ctx { k with queues := k.queues.set c.d.queue { q with credits := q.credits - 1 } }
      let b := b.waitOver c
      let b := b.modColl ctx group seq fun x => { x with sent := true }
      s.setB ((b.others c).foldl (fun b r => b.sendShard c c.d.count { rank := r, off := 0, bytes := s.viewBytes none ctx c.d.src c.d.count }) b)

/-- May this member's own part be placed (R221)? -/
def State.ownReady (s : State) (c : Coll) : Bool :=
  let me := s.b.collMe c
  (s.startShards c).all fun x => x.rank ≠ me || collReduces c || x.bytes.isEmpty || s.shardReady c me x.off x.dst x.bytes.length

/-- Does a shard lie within what this member's collective expects from its rank (R301, R303, R308, R309)? -/
def Blk.shardExtent (b : Blk) (c : Coll) (x : Shard) (msgLen : Nat) : Bool :=
  match c.d.op with
  | 6 => covered (b.ctx c.ctx) (c.d.dst + x.dst) x.bytes.length
  | 9 => decide (msgLen ≤ c.d.slotBytes ∧ x.off + x.bytes.length ≤ msgLen)
  | _ => (b.expected c).any fun e => e.1 = x.rank && decide (e.2.1 ≤ x.off ∧ x.off + x.bytes.length ≤ e.2.1 + e.2.2)

/-- Does a shard's MSG_LEN differ from the total that this member's descriptor implies for its sender (R300)? -/
def Blk.mismatch (b : Blk) (c : Coll) (rank msgLen : Nat) : Bool :=
  (collTotal c.d (b.collN c) (b.collMe c) rank).any fun t => decide (t % 2 ^ 32 ≠ msgLen)

/-- A data segment as a shard. -/
def shardOf (rank : Nat) (p : Packet) : Shard := { rank := rank, off := p.h.offset % 2 ^ 40, bytes := p.data, dst := p.dst }

/-- A shard that came early is taken, aborts the collective where its total is another, or is refused where it lies beyond the extent (R300, R301, R309). -/
def State.takeHeld (s : State) (c : Coll) (h : HeldShard) : State :=
  match s.b.findColl c.ctx c.group c.seq with
  | none => s
  | some c =>
    let rank := s.b.rankOfStream c.ctx c.group c.seq h.pkt.h.stream
    let x := shardOf rank h.pkt
    if !collOpen c then s
    else if s.b.mismatch c rank h.pkt.h.msgLen then s.setB (s.b.abortColl c 8 rank)
    else if !s.b.shardExtent c x h.pkt.h.msgLen then s.setB (s.b.nak h.pkt.h.stream h.pkt.h rBounds 0)
    else
      let c := if c.d.op = 9 then { c with inLen := some h.pkt.h.msgLen } else c
      let s := s.setB (s.b.modColl c.ctx c.group c.seq fun y => { y with inLen := c.inLen })
      s.takeShard c x

/-- Take what was held for a collective. -/
def State.drainHeld (s : State) (c : Coll) : State :=
  let l := s.b.heldData c
  let s := s.setB { s.b with heldShards := s.b.heldShards.filter fun h => !heldFor h c.ctx c.group c.seq }
  l.foldl (fun s h => s.takeHeld c h) s

/-- A collective runs on an engine: its shards go out, its own part is placed, and what came early is taken. -/
def State.startColl (s : State) (c : Coll) (e : Nat) : State :=
  let me := s.b.collMe c
  let early := s.b.earlyCtl c.ctx c.group c.seq 1
  let sh := s.startShards c
  let b := s.b.noteUses c.ctx c.d.src (collRanges c.d (s.b.collN c) me).1.2
  let b := b.modColl c.ctx c.group c.seq fun x => { x with st := .running, engine := some e, entry := early }
  let total := s.contribution c
  let b := sh.foldl (fun b x =>
    if x.rank = me then b.modColl c.ctx c.group c.seq fun y => { y with kept := y.kept ++ [x] } else b.sendShard c total x) b
  let b := if c.d.op = 7 then
      (b.modColl c.ctx c.group c.seq fun y => { y with entry := y.entry.set me b.tide.num }).sendCtlAll c.ctx c.group c.seq c.d.epoch false
        { kind := 1, rank := me, tide := b.tide.num }
    else b
  let s := s.setB b
  let s := if collReduces c then s else sh.foldl (fun s x => if x.rank = me && !x.bytes.isEmpty then
      (match s.b.shardDst c me x.off x.dst with | some a => s.collPlace c a x.bytes | none => s) else s) s
  let s := (s.trySum c.ctx c.group c.seq).trySend c.ctx c.group c.seq
  match s.b.findColl c.ctx c.group c.seq with
  | some c => s.drainHeld c
  | none => s

/-- COLLECTIVE_START: an idle engine takes the next waiting collective of its link die, by R239 (R302). -/
def State.collectiveStart (s : State) (e : Nat) : State :=
  if 8 ≤ e || !s.b.ceFree e then s
  else
    let a := ArbId.colls (dLD0 + e / 4)
    let x := s.b.arbOf a
    let rs := x.waiting.filter fun r => match r.what with
      | .coll c g q => match s.b.findColl c g q with
        | some k => k.st = .waiting && s.ownReady k
        | none => false
      | _ => false
    let g := arbGrant false s.b.cfg.qos.weight x rs
    match g.1 with
    | none => s
    | some r => match r.what with
      | .coll c k q => match s.b.findColl c k q with
        | some y => (s.setB (s.b.modArb a fun _ => g.2)).startColl y e
        | none => s
      | _ => s

/-- COLLECTIVE_START (R302). -/
def execCollectiveStart (engine : Nat) (s : State) : Host.Outcome State Fault Refusal := .next (s.collectiveStart engine)

/-- Are all messages of a collective acknowledged? -/
def Blk.collAcked (b : Blk) (c : Coll) : Bool :=
  (b.streamsOf c.ctx).all fun n => let st := b.strmOf n
    st.msgs.all fun m => m.use_ ≠ .coll c.group c.seq || m.ctx ≠ c.ctx || !msgOpen st m

/-- Has this member's part of a collective been done (R303, R309)? -/
def Blk.collComplete (b : Blk) (c : Coll) : Bool :=
  match c.d.op with
  | 1 => c.summed && (b.missing c).isNone
  | 2 => c.summed
  | 3 => (b.missing c).isNone
  | 4 => (b.missing c).isNone
  | 5 => (b.missing c).isNone
  | 8 => c.sent && b.collAcked c
  | 9 => c.inLen.isSome && (b.missing c).isNone
  | _ => false

/-- COLLECTIVE_DONE: the engine is free, COLL_WAIT reports DONE (R299, R302). -/
def execCollectiveDone (ctx group seq : Nat) (s : State) : Host.Outcome State Fault Refusal :=
  let s := s.trySum ctx group seq
  match s.b.findColl ctx group seq with
  | some c => if c.st = .running && s.b.collComplete c then .next (s.setB (s.b.collEnd c)) else .next s
  | none => .next s

/-! ### Barriers (R306) -/

/-- BARRIER_RELEASE: at phase 0 of the highest entry tide + 2 the barrier releases. While an entry is missing the highest tide is not known; one that comes after that
instant aborts the barrier as it arrives. -/
def State.barrierRelease (s : State) (ctx group seq : Nat) : State :=
  match s.b.findColl ctx group seq with
  | none => s
  | some c =>
    if c.d.op ≠ 7 || c.st ≠ .running || !s.b.allIn c c.entry || !s.b.due (topTide c.entry + 2) 0 then s
    else if hubBarrier c then
      (if (s.b.ctx ctx).st = .active && (bufOf (s.b.ctx ctx) (otherBuf (s.b.ctx ctx))).st = .building then
        let s := s.swapNow ctx c
        s.setB (s.b.reportCheck ctx) else s)
    else s.setB (s.b.collEnd c)

/-- BARRIER_RELEASE (R306). -/
def execBarrierRelease (ctx group seq : Nat) (s : State) : Host.Outcome State Fault Refusal := .next (s.barrierRelease ctx group seq)

/-! ### Permutations (R308) -/

/-- PERMUTE_START: at phase 0 of R + 2 the permutation asks its die's arbiter for an engine, and an idle one is granted at once (R239, R302). While a report is missing
R is not known; one that comes after that instant aborts the permutation as it arrives. -/
def State.permuteStart (s : State) (ctx group seq : Nat) : State :=
  match s.b.findColl ctx group seq with
  | none => s
  | some c =>
    if c.d.op ≠ 6 || c.st ≠ .reported || !s.b.allIn c c.report || !s.b.due (topTide c.report + 2) 0 then s
    else
      let b := (s.b.waitOver c).modColl ctx group seq fun x => { x with st := .waiting }
      let s := s.setB (b.askEngine c)
      match ((List.range 4).map fun i => 4 * (c.die - dLD0) + i).find? s.b.ceFree with
      | some e => s.collectiveStart e
      | none => s

/-- PERMUTE_START (R308). -/
def execPermuteStart (ctx group seq : Nat) (s : State) : Host.Outcome State Fault Refusal := .next (s.permuteStart ctx group seq)

/-- Bytes of its own segments that a permutation places at this member. -/
def Blk.ownBytes (b : Blk) (c : Coll) : Nat := ((c.kept.filter fun x => x.rank = b.collMe c).map fun x => x.bytes.length).sum

/-- EPOCH_ADVANCE: IN_BYTES are placed and every segment is acknowledged; the epoch rises and held collectives are released (R308 step 5). -/
def Blk.epochAdvance (b : Blk) (ctx group seq : Nat) : Blk :=
  match b.findColl ctx group seq with
  | none => b
  | some c =>
    if c.d.op ≠ 6 || c.st ≠ .running || gotBytes c < c.d.inBytes || !b.collAcked c then b
    else
      let b := b.modCtx ctx fun k => { k with epoch := c.d.epoch }
      let held := b.colls.filter fun x => x.ctx = ctx && x.st = .held
      let b := { b with colls := b.colls.map fun (x : Coll) => if x.ctx = ctx && x.st = CollSt.held then { x with st := .waiting } else x }
      let b := held.foldl Blk.askEngine b
      (b.raise 0x8002 ctx (collPan c) (c.d.epoch + c.group * 2 ^ 32)).collEnd c

/-- EPOCH_ADVANCE (R308). -/
def execEpochAdvance (ctx group seq : Nat) (s : State) : Host.Outcome State Fault Refusal := .next (s.setB (s.b.epochAdvance ctx group seq))

/-! ### Missing shards (R312) -/

/-- SHARD_WAIT_TIMEOUT: SHARD_TO tides into a wait for a shard, and every SHARD_TO from there, a REREQ goes to its source. -/
def Blk.shardWait (b : Blk) (ctx group seq : Nat) : Blk :=
  match b.findColl ctx group seq, b.groupFor ctx group seq with
  | some c, some g => match b.missing c, c.waitTide with
    | some (r, off, len), some _ =>
      if c.st ≠ .running || decide (b.tide.num < c.rereqTide + g.shardTo) then b
      else match g.members[r]? with
        | none => b
        | some m =>
          let b := if c.d.op = 6 then b.spend else b
          let b := b.modColl ctx group seq fun x => { x with rereqTide := b.tide.num }
          let b := match c.engine with | some e => b.modCe e fun x => { x with rereq := satInc 16 x.rereq } | none => b
          let b := b.sendCtlRec ctx group seq c.d.epoch (collReduces c) m { kind := 5, rank := b.collMe c, value := off, len := len }
          b.raise 0x8003 ctx (collPan c) (group + seq * 2 ^ 16 + r * 2 ^ 40)
    | _, _ => b
  | _, _ => b

/-- SHARD_WAIT_TIMEOUT (R312). -/
def execShardWaitTimeout (ctx group seq : Nat) (s : State) : Host.Outcome State Fault Refusal := .next (s.setB (s.b.shardWait ctx group seq))

/-- SHARD_ABORT_TIMEOUT: a shard is still missing ABORT_TO tides after the wait began (R312). -/
def execShardAbortTimeout (ctx group seq : Nat) (s : State) : Host.Outcome State Fault Refusal :=
  match s.b.findColl ctx group seq, s.b.groupFor ctx group seq with
  | some c, some g => match s.b.missing c, c.waitTide with
    | some (r, _, _), some t => if c.st = .running && decide (t + g.abortTo ≤ s.b.tide.num) then .next (s.setB (s.b.abortColl c 2 r)) else .next s
    | _, _ => .next s
  | _, _ => .next s

/-- SHARD_RELEASE: shards sent are kept until SHARD_TO tides after the member's part completed (R312). -/
def execShardRelease (ctx group seq : Nat) (s : State) : Host.Outcome State Fault Refusal :=
  match s.b.findColl ctx group seq with
  | some c => match c.keptUntil with
    | some t => if t ≤ s.b.tide.num then .next (s.setB (s.b.modColl ctx group seq fun x => { x with kept := [], keptUntil := none })) else .next s
    | none => .next s
  | none => .next s

/-- Resend a kept shard that a member asks for (R312). -/
def Blk.resendShard (b : Blk) (c : Coll) (rank off len : Nat) : Blk :=
  let total := (collTotal c.d (b.collN c) (b.collMe c) (b.collMe c)).getD (c.kept.map fun x => x.bytes.length).sum
  c.kept.foldl (fun b x =>
    if x.rank = rank && decide (x.off < off + len ∧ off < x.off + x.bytes.length) then
      let lo := max off x.off
      b.sendPiece c total (shardPart x (lo - x.off) (off + len - lo))
    else b) b

/-- On entering LOST the module leaves its groups (R313). -/
def Blk.leaveGroups (b : Blk) : Blk :=
  let l := b.colls.filter collOpen
  let b := l.foldl (fun b c => match b.findColl c.ctx c.group c.seq with | some x => if collOpen x then b.abortColl x 5 (b.collMe x) else b | none => b) b
  (b.modSpare fun x => { x with groupsLeft := true }).raise 0x8004 moduleCtx hubPan l.length

/-- A member's position has been declared silent: collectives that need it abort (R312). -/
def Blk.sourceGone (b : Blk) (pos : Nat) : Blk :=
  (b.colls.filter collOpen).foldl (fun b c => match b.collGroup c with
    | some g => match g.members.findIdx? fun m => m.position = pos with
      | some r => (match b.findColl c.ctx c.group c.seq with | some x => if collOpen x then b.abortColl x 1 r else b | none => b)
      | none => b
    | none => b) b

end Sys2Proof.Machine
end

