-- ==== Sys2Proof/Machine/SkyRx.lean ====
section
/-! DEFINITION. Skeyr, receiving: the checks of R261, sequence numbers, placement, acknowledgements, NAKs, control records (R259 to R279, R301, R312,
R321, R329, R409, R438). -/
namespace Sys2Proof.Machine
open Sys2Proof

/-! ### Steps 1 to 6 of R261 -/

/-- Whose domain a stream is in: a context's, or the harvest domain, which belongs to none. -/
structure RxStream where
  owner : Option Nat
  pd : PdRec
  e : StreamRec
  deriving DecidableEq, Repr

/-- Is an address the PEER_ADDR of some stream of this module (step 3)? Streams of contexts torn down count: step 6 judges those. -/
def Blk.knownPeer (b : Blk) (src : Nat) : Bool :=
  (b.ctxs.any fun p => p.2.rec_.pds.any fun d => d.streams.any fun e => e.peerAddr = src) || b.cfg.hrv.pd.streams.any fun e => e.peerAddr = src

/-- The stream that a header names within its CONTEXT; the harvest domain's packets carry CONTEXT 0 (R321). -/
def Blk.rxStream (b : Blk) (h : SkyHdr) : Option RxStream :=
  match (b.ctx h.ctx).rec_.pds.findSome? fun d => (d.streams.find? fun e => e.stream = h.stream).map fun e => (d, e) with
  | some x => some { owner := some h.ctx, pd := x.1, e := x.2 }
  | none =>
    if h.ctx = 0 then (b.cfg.hrv.pd.streams.find? fun e => e.stream = h.stream).map fun e => { owner := none, pd := b.cfg.hrv.pd, e := e }
    else none

/-- Is a collective packet a RESTORE or READY record (R329)? -/
def restoreRec (p : Packet) : Bool :=
  (p.h.typ = tReduce || p.h.typ = tPermute) && bitAt p.h.offset 63 && bits p.h.offset 40 23 = seqRestore

/-- Is a TYPE an acknowledgement or a NAK? -/
def ackType (t : Nat) : Bool := [tAck, tSack, tNak, tFlushAck].contains t

/-- Does the context take the packet: it is ACTIVE, or RESTORING and the packet is a restore record or answers one (R261, R329)? -/
def Blk.rxActive (b : Blk) (x : RxStream) (p : Packet) : Bool :=
  match x.owner with
  | none => b.running
  | some c => match (b.ctx c).st with
    | .active => true
    | .restoring => restoreRec p || ackType p.h.typ
    | _ => false

/-- An unknown packet is counted, with a unit of the port's budget (steps 3 and 6). -/
def Blk.countUnknown (b : Blk) (port : Nat) : Blk :=
  b.modPort port fun x => { x with unknown := satInc 16 x.unknown, unkUsed := x.unkUsed + 1 }

/-- LENGTH as R255 requires (step 5). -/
def lengthOk (h : SkyHdr) : Bool :=
  decide (h.length ≤ 4096) && (h.length = 0 || !([tRead, tFlush, tFlushAck, tAck, tSack, tNak, tCancel].contains h.typ))

/-! ### PSNs (R262, R263) -/

/-- What step 7 finds. -/
inductive PsnRule where
  | new | dup | tooFar | noStream | synWait
  deriving DecidableEq, Repr

/-- Is a PSN marked received: below E, or in the map? -/
def psnSeen (st : Strm) (psn : Nat) : Bool := decide (2 ^ 31 ≤ psnSub psn st.e) || st.map.contains psn

/-- Step 7: the rule, and whether a SYN sets E. -/
def Blk.psnRule (b : Blk) (st : Strm) (h : SkyHdr) : PsnRule × Bool :=
  if h.syn then
    if st.known && psnSeen st h.psn then (.dup, false)
    else if !st.known || (match st.lastRx with | some t => b.past t b.mpl | none => true) then (.new, true)
    else (.synWait, false)
  else if !st.known then (.noStream, false)
  else if psnSeen st h.psn then (.dup, false)
  else if 4096 ≤ psnSub h.psn st.e then (.tooFar, false)
  else (.new, false)

/-- E moves past every received PSN. -/
def advanceE : Nat → Strm → Strm
  | 0, st => st
  | n + 1, st => if st.map.contains st.e then advanceE n { st with e := psnAdd st.e 1, map := st.map.filter (· ≠ st.e) } else st

/-- Mark a PSN received. -/
def markPsn (st : Strm) (psn : Nat) : Strm :=
  if psnSeen st psn || decide (4096 ≤ psnSub psn st.e) then st else advanceE 4097 { st with map := st.map ++ [psn] }

/-- A sequenced packet is to be acknowledged: at once for SOLICIT, RETX or SYN, after 16 packets, or when its timer runs out (R270). -/
def Blk.oweAck (b : Blk) (stream : Nat) (arr : Arrival) (h : SkyHdr) : Blk :=
  let st := b.strmOf stream
  let b := b.setStrm stream { st with unack := st.unack + 1, unackAt := st.unackAt <|> some b.now, ackTs := h.ts, ece := st.ece || arr.ce }
  if h.solicit || h.retx || h.syn || decide (16 ≤ st.unack + 1) then b.ackNow stream h.ts else b

/-- May a FLUSH be answered: E is beyond its PSN and every packet below it has been placed (R268)? -/
def flushReady (st : Strm) (psn : Nat) : Bool :=
  decide (0 < psnSub st.e psn ∧ psnSub st.e psn < 2 ^ 31) && st.unplaced.all fun p => decide (psnSub p psn < 2 ^ 31)

/-- Send a FLUSH_ACK (R268). -/
def Blk.flushAnswer (b : Blk) (stream msg ts : Nat) : Blk := b.sendCtl stream { typ := tFlushAck, msgId := msg, ts := ts }

/-- Answer every FLUSH that may be answered now. -/
def Blk.flushCheck (b : Blk) (stream : Nat) : Blk :=
  let st := b.strmOf stream
  let l := st.flushes.filter fun f => flushReady st f.1
  let b := b.setStrm stream { st with flushes := st.flushes.filter fun f => !flushReady st f.1 }
  l.foldl (fun b f => b.flushAnswer stream f.2 (b.strmOf stream).ackTs) b

/-- An accepted packet is marked; one whose bytes still wait in the hold buffer is acknowledged only once it is placed (R262, R266). -/
def Blk.accept (b : Blk) (stream : Nat) (arr : Arrival) (h : SkyHdr) (placed : Bool) : Blk :=
  let b := b.modStrm stream fun st => let st := markPsn st h.psn; if placed then st else { st with unplaced := st.unplaced ++ [h.psn] }
  if placed then (b.oweAck stream arr h).flushCheck stream else b

/-! ### Target records (R265, R438) -/

/-- Does a WRITE packet lie within its message, beside those already counted (R438)? -/
def writeFits (len : Nat) (old : List (Nat × Nat × Nat × Bool)) (h : SkyHdr) : Bool :=
  let l := (h.psn, h.offset, h.length, h.solicit) :: old
  let lo := l.foldl (fun m x => min m x.2.1) h.offset
  let hi := l.foldl (fun m x => max m (x.2.1 + x.2.2.1)) 0
  (h.length = 4096 || h.solicit) &&
  (old.all fun x => if psnSub h.psn x.1 < 2 ^ 31 then h.offset = x.2.1 + 4096 * psnSub h.psn x.1 else x.2.1 = h.offset + 4096 * psnSub x.1 h.psn) &&
  decide (hi - lo ≤ len) && l.all fun x => !x.2.2.2 || decide (hi ≤ x.2.1 + x.2.2.1)

/-- Step 8 of R261 for a packet with payload or a READ, with R438. The upper limit of MSG_LEN does not bind collectives, whose MSG_LEN is a whole contribution: R308
moves 2,283,866,112 bytes (log 15). -/
def Blk.step8 (b : Blk) (h : SkyHdr) : Bool :=
  let r := b.recs.find? fun r => r.stream = h.stream && r.msgId = h.msgId
  let coll := h.typ = tReduce || h.typ = tPermute
  decide (1 ≤ h.msgLen) && (coll || decide (h.msgLen ≤ 16777216)) && (match r with | some r => r.len = h.msgLen | none => true) &&
  (if h.typ = tWrite then writeFits h.msgLen ((r.map (·.pkts)).getD []) h
   else if h.typ = tEvent then h.offset = 0 && h.length = 64 && h.msgLen = 64
   else if coll then decide (h.offset % 2 ^ 40 + h.length ≤ h.msgLen) && (!bitAt h.offset 63 || h.length = 64 && h.msgLen = 64)
   else true)

/-- May the packet's record be had: it exists, the packet completes its message by itself, or the die has a record free? -/
def Blk.recFree (b : Blk) (h : SkyHdr) : Bool :=
  (b.recs.any fun r => r.stream = h.stream && r.msgId = h.msgId) || h.length = h.msgLen || decide (b.recsOn (homeDie h.stream) < 16384)

/-- Count a packet in its message's record; a message whose bytes have all come has none (R265). -/
def Blk.countRec (b : Blk) (arr : Arrival) (h : SkyHdr) : Blk :=
  let x := (h.psn, h.offset, h.length, h.solicit)
  match b.recs.find? fun r => r.stream = h.stream && r.msgId = h.msgId with
  | some r =>
    let r' := { r with bytes := r.bytes + h.length, pkts := r.pkts ++ [x] }
    { b with recs := if r.len ≤ r'.bytes then b.recs.filter fun y => y.stream ≠ h.stream || y.msgId ≠ h.msgId
        else b.recs.map fun y => if y.stream = h.stream && y.msgId = h.msgId then r' else y }
  | none =>
    if h.length = h.msgLen then b
    else
      let r : InRec := { stream := h.stream, msgId := h.msgId, typ := h.typ, len := h.msgLen, firstAt := b.now, port := arr.port, bytes := h.length, pkts := [x] }
      let b := { b with recs := b.recs ++ [r] }
      b.recCheck (homeDie h.stream)

/-- Bytes of a link die's hold buffer in use, of 16 MiB (R277). -/
def Blk.holdUsed (b : Blk) (die : Nat) : Nat := ((b.held.filter fun x => x.die = die).map fun x => x.pkt.data.length).sum

/-- Has the hold buffer room for a packet? -/
def Blk.holdRoom (b : Blk) (p : Packet) : Bool := decide (b.holdUsed (homeDie p.h.stream) + p.data.length ≤ 16 * 2 ^ 20)

/-- A packet waits in the hold buffer of its stream's home die (R277, R279). -/
def Blk.holdPkt (b : Blk) (arr : Arrival) (p : Packet) : Blk := { b with held := b.held ++ [{ die := homeDie p.h.stream, arr := arr, pkt := p }] }

/-- A packet that finds no room in the hold buffer is dropped without a word (R277). -/
def Blk.holdDrop (b : Blk) (port : Nat) : Blk := b.modPort port fun x => { x with holdDrop := satInc 16 x.holdDrop }

/-! ### WRITE and READ (R260, R261 steps 9 to 12, R266, R267) -/

/-- Step 9: the NAK reason and INFO, or none where the window admits the packet. -/
def Blk.winCheck (b : Blk) (x : RxStream) (h : SkyHdr) : Option (Nat × Nat) :=
  match x.pd.windows.find? fun w => w.winId = h.winId with
  | none => some (rWinClosed, 0)
  | some w =>
    let k := b.winOf h.winId
    if !k.open_ then some (rWinClosed, 0)
    else if h.winGen ≠ k.gen then some (rGenStale, k.gen)
    else if (if h.typ = tRead then w.rd else w.wr) then none else some (rAccess, 0)

/-- Step 11: may a partner touch these bytes: a WRITE only a BUILDING buffer and never the phase block, a READ only the CURRENT buffer (R216, R227)? -/
def pairOk (c : Ctx) (write : Bool) (a len : Nat) : Bool :=
  !(write && hitsPhaseBlock c a len) &&
  ((regionsIn c a len).all fun r => r.pair = 0 || (bufOf c (r.pair - 1)).st = (if write then .building else .current))

/-- A refused access counts in the context (R231). -/
def Blk.noteRefused (b : Blk) (ctx : Nat) : Blk := b.modCtx ctx fun c => { c with refused := satInc 8 c.refused }

/-- Bytes of a slot of the receive area (R321). -/
def Blk.slotBytes (b : Blk) : Nat := b.spare.areaGranules * granBytes

/-- May a stream write bytes into the receive area: within one slot, whose first writer it is (R321)? -/
def Blk.areaOk (b : Blk) (stream off len : Nat) : Bool :=
  let z := b.slotBytes
  let slot := off / max 1 z
  decide (0 < z ∧ off + len ≤ 2 * z ∧ (off + len - 1) / max 1 z ≤ slot) &&
  (match b.spare.slotFrom.find slot with
    | some n => n = stream
    | none => true)

/-- The position of the member at a PEER_ADDR, as far as the groups tell it; 0xFF where they do not. -/
def Blk.posOfAddr (b : Blk) (a : Nat) : Nat := (b.memberAt a).getD 0xFF

/-- A write into the receive area is refused (R321). -/
def Blk.areaFull (b : Blk) (x : RxStream) (off : Nat) : Blk :=
  (b.modSpare fun k => { k with areaFull := satInc 8 k.areaFull }).raise 0x9006 moduleCtx hubPan (off / max 1 b.slotBytes % 256 + b.posOfAddr x.e.peerAddr * 2 ^ 8)

/-- Place bytes in the receive area. -/
def Blk.areaWrite (b : Blk) (stream off : Nat) (bs : List Nat) : Blk :=
  let slot := off / max 1 b.slotBytes
  b.modSpare fun k =>
    let hi := off % max 1 b.slotBytes + bs.length
    { k with area := memWriteBytes k.area off bs, slotFrom := k.slotFrom.set slot stream,
             slot0 := if slot = 0 then max k.slot0 hi else k.slot0, slot1 := if slot = 1 then max k.slot1 hi else k.slot1 }

/-- Where a WRITE's bytes go in a context's memory. -/
def writeAddr (w : WindowRec) (h : SkyHdr) : Nat := w.base + h.offset

/-- Was a window's generation issued in the present incarnation of its context (R248, R260)? -/
def genSince (k : Win) (g : Nat) : Bool := decide (g ≠ 0 ∧ (g + 65535 - k.base) % 65535 ≤ (k.gen + 65535 - k.base) % 65535)

/-- A packet fails step 9: a wrong generation at an open window is told to its owner, and one from before the context's re-creation counts in LATE_DROP
(R248, R261, R280). -/
def Blk.winRefused (b : Blk) (x : RxStream) (h : SkyHdr) (r i : Nat) : Blk :=
  if r ≠ rGenStale then b.nak h.stream h r i
  else
    let b := match x.owner with
      | some c => if (b.ctx c).tdStep = 8 && !genSince (b.winOf h.winId) h.winGen then b.lateDrop c else b
      | none => b
    (b.raise 0x7005 (x.owner.getD moduleCtx) (diePan (homeDie h.stream)) (h.winId + h.winGen * 2 ^ 16)).nak h.stream h r i

/-- A packet meets an uncorrectable error in memory: NAK MEM_ERROR; the owner of the line is acted on (R147, R148, R267). -/
def Blk.memNak (b : Blk) (h : SkyHdr) : Blk := b.nak h.stream h rMemError 0

/-- A WRITE that has passed step 7 (R261 steps 8 to 12, R266). -/
def State.rxWrite (s : State) (arr : Arrival) (x : RxStream) (p : Packet) : State :=
  let h := p.h
  let n := h.stream
  let refuse := fun (b : Blk) r i => s.setB (b.nak n h r i)
  if !s.b.step8 h then refuse s.b rBounds 0
  else match s.b.winCheck x h, x.pd.windows.find? fun w => w.winId = h.winId with
    | some (r, i), _ => s.setB (s.b.winRefused x h r i)
    | none, none => s
    | none, some w =>
      if w.size < h.offset + h.length then refuse s.b rBounds 0
      else match x.owner with
        | none =>
          if h.length ≠ 0 && !s.b.areaOk n h.offset h.length then refuse (s.b.areaFull x h.offset) rBounds 0
          else if !s.b.recFree h then refuse (s.b.recFullEvent (homeDie n)) rBusy 0
          else
            let k := s.b.meet none true h.offset h.length arr.mem
            if k.2 then s.setB (k.1.memNak h)
            else s.setB (((k.1.areaWrite n h.offset p.data).countRec arr h).accept n arr h true)
        | some c =>
          let a := writeAddr w h
          if !pairOk (s.b.ctx c) true a h.length then refuse (s.b.noteRefused c) rRefused 0
          else if !s.b.recFree h then refuse (s.b.recFullEvent (homeDie n)) rBusy 0
          else if s.canWrite c a h.length then
            let k := s.b.meet (some c) true a h.length arr.mem
            if k.2 then s.setB (k.1.memNak h)
            else
              let s := (s.setB (k.1.observe s.mem c (cellsAt a p.data) false)).store c a p.data
              s.setB ((s.b.countRec arr h).accept n arr h true)
          else
            let s := s.cowBlock c a h.length
            if s.b.holdRoom p then s.setB (((s.b.countRec arr h).holdPkt arr p).accept n arr h false)
            else s.setB (s.b.holdDrop arr.port)

/-- The bytes that a READ takes, and the buffer they lie in. -/
def State.readBytes (s : State) (x : RxStream) (w : WindowRec) (h : SkyHdr) : List Nat × Option Nat :=
  match x.owner with
  | none => (memBytes s.b.spare.area h.offset h.msgLen, none)
  | some c =>
    let a := w.base + h.offset
    (s.viewBytes none c a h.msgLen, ((regionsIn (s.b.ctx c) a h.msgLen).find? fun r => r.pair ≠ 0).map fun r => r.pair - 1)

/-- A READ (R261 steps 8 to 11, R267): checked, read, and put among the READs being served; one that meets an uncorrectable error is answered NAK MEM_ERROR, and the
window's owner is acted on (R148). -/
def State.rxRead (s : State) (arr : Arrival) (x : RxStream) (p : Packet) : State :=
  let h := p.h
  let n := h.stream
  let refuse := fun (b : Blk) r i => s.setB (b.nak n h r i)
  if !s.b.step8 h then refuse s.b rBounds 0
  else match s.b.winCheck x h, x.pd.windows.find? fun w => w.winId = h.winId with
    | some (r, i), _ => s.setB (s.b.winRefused x h r i)
    | none, none => s
    | none, some w =>
      let st := s.b.strmOf n
      if w.size < h.offset + h.msgLen then refuse s.b rBounds 0
      else if (match x.owner with | some c => !pairOk (s.b.ctx c) false (w.base + h.offset) h.msgLen | none => false) then
        refuse (match x.owner with | some c => s.b.noteRefused c | none => s.b) rRefused 0
      else
        let others := st.serves.filter fun v => v.msgId ≠ h.msgId
        let k := s.b.meet x.owner false (match x.owner with | some _ => w.base + h.offset | none => h.offset) h.msgLen arr.mem
        if 64 ≤ others.length then refuse s.b rBusy 0
        else if k.2 then s.setB (k.1.memNak h)
        else
          let s := s.setB k.1
          let d := s.readBytes x w h
          let s := match x.owner with | some c => s.setB (s.b.noteUses c (w.base + h.offset) h.msgLen) | none => s
          let v : ReadServe := { msgId := h.msgId, len := h.msgLen, winGen := h.winGen, winId := h.winId, data := d.1, buf := d.2 }
          s.setB (s.b.setStrm n { st with serves := others ++ [v] })

/-- How far a READ's bytes have come without a gap. -/
def gotUpTo (got : List (Nat × Nat)) : Nat → Nat → Nat
  | 0, off => off
  | n + 1, off => match got.find? fun r => decide (r.1 ≤ off ∧ off < r.1 + r.2) with
    | some r => gotUpTo got n (r.1 + r.2)
    | none => off

/-- Place a READ_RESP at the READ's local destination, and complete the READ when all its bytes are there (R267, R276). -/
def State.placeResp (s : State) (stream : Nat) (m : OutMsg) (off : Nat) (bs : List Nat) : State :=
  let s := match m.addr with
    | some a => (s.setB (s.b.observe s.mem m.ctx (cellsAt (a + off) bs) false)).store m.ctx (a + off) bs
    | none => s
  let got := m.got ++ [(off, bs.length)]
  let full := m.len ≤ gotUpTo got (got.length + 1) 0
  let b := if m.use_ = .seal_ then s.b.sealGot off bs else s.b
  let b := b.modStrm stream fun st => modMsg st m.msgId fun x => { x with got := got, status := if full then some (0, 0) else x.status }
  if !full then s.setB b
  else if m.use_ = .seal_ then s.setB ((b.modStrm stream fun st => { st with msgs := st.msgs.filter fun x => x.msgId ≠ m.msgId }).sealNext m.len)
  else s.setB (b.settle m.ctx)

/-- A READ_RESP: dropped where it matches no incomplete READ or lies beyond it; a part that has come is dropped too (R267, R278). Where its placement meets two wrong
symbols it is not placed, and no PSN is there to be refused (R147, R255). -/
def State.rxResp (s : State) (arr : Arrival) (p : Packet) : State :=
  let h := p.h
  let bad := s.setB (s.b.modPort arr.port fun x => { x with badAck := satInc 16 x.badAck })
  match (s.b.strmOf h.stream).msgs.find? fun m => m.msgId = h.msgId && m.typ = tRead && m.status.isNone && m.firstAt.isSome with
  | none => bad
  | some m =>
    if h.msgLen ≠ m.len || decide (m.len < h.offset + h.length) || h.length = 0 then bad
    else if decide (h.offset + h.length ≤ gotUpTo m.got (m.got.length + 1) h.offset) then s
    else match m.addr with
      | some a =>
        if s.canWrite m.ctx (a + h.offset) h.length then
          let k := s.b.meet (some m.ctx) true (a + h.offset) h.length arr.mem
          if k.2 then s.setB k.1 else (s.setB k.1).placeResp h.stream m h.offset p.data
        else
          let s := s.cowBlock m.ctx (a + h.offset) h.length
          if s.b.holdRoom p then s.setB (s.b.holdPkt arr p) else s.setB (s.b.holdDrop arr.port)
      | none => s.placeResp h.stream m h.offset p.data

/-! ### FLUSH, CANCEL, EVENT (R268, R269) -/

/-- A FLUSH is marked and waits for its answer (R268). -/
def Blk.rxFlush (b : Blk) (arr : Arrival) (p : Packet) : Blk :=
  let b := b.modStrm p.h.stream fun st => { st with flushes := st.flushes ++ [(p.h.psn, p.h.msgId)] }
  b.accept p.h.stream arr p.h true

/-- A CANCEL marks its range and discards the record whose packets lie in it (R269). -/
def Blk.rxCancel (b : Blk) (arr : Arrival) (p : Packet) : Blk :=
  let first := p.h.offset / 2 ^ 32 % 2 ^ 32
  let count := p.h.offset % 2 ^ 32
  let n := p.h.stream
  let b := b.modStrm n fun st => (List.range (min count 4097)).foldl (fun st i => markPsn st (psnAdd first i)) st
  let b := { b with recs := b.recs.filter fun r => r.stream ≠ n || !(r.pkts.any fun x => decide (psnSub x.1 first < count)) }
  b.accept n arr p.h true

/-- The record of an EVENT message, on its way to a sink that numbers it anew and marks its own gaps (R241, R269). -/
def recOfBytes (l : List Nat) : EventRec := { recAt l with gap := false, seq := 0 }

/-- Deliver an EVENT: to the context's sink through its bucket, or to the module's; one on its own sink stream is dropped (R269). -/
def Blk.rxEvent (b : Blk) (arr : Arrival) (x : RxStream) (p : Packet) : Blk :=
  let key := x.owner.getD moduleCtx
  if !b.step8 p.h then b.nak p.h.stream p.h rBounds 0
  else
    let b := if b.sinkOf key = p.h.stream then (match x.owner with
        | some c => b.modCtx c fun k => { k with dropped := satInc 16 k.dropped }
        | none => b)
      else if b.sec.sinkUp then b.offer key (recOfBytes p.data) else b.bootHold (recOfBytes p.data)
    b.accept p.h.stream arr p.h true

/-! ### Acknowledgements (R270, R271, R273, R274) -/

/-- Does an acknowledgement name a PSN as received? -/
def acks (h : SkyHdr) (psn : Nat) : Bool :=
  decide (2 ^ 31 ≤ psnSub psn h.ackPsn) ||
  (decide (1 ≤ psnSub psn h.ackPsn ∧ psnSub psn h.ackPsn ≤ 32) && bitAt h.sackBits (psnSub psn h.ackPsn - 1))

/-- One RTT sample (R273, R274). -/
def rttSample (st : Strm) (now target : Nat) (x : Nat) : Strm :=
  let l := (st.rtts.filter fun r => decide (now < r.1 + 1000000000 ∧ r.2 < x)) ++ [(now, x)]
  let base := (l.head?.map (·.2)).getD x
  let st := { st with rtts := l, lateSeen := st.lateSeen || decide (base + target < x) }
  match st.srtt with
  | none => { st with srtt := some x, rttvar := x / 2 }
  | some r => { st with rttvar := (3 * st.rttvar + (max r x - min r x)) / 4, srtt := some ((7 * r + x) / 8) }

/-- After packets have been acknowledged: what no longer needs them goes; a FLUSH waits for its FLUSH_ACK from now on (R268). -/
def ackMsgs (st : Strm) (now : Nat) (before : Strm) : Strm :=
  let gone := fun (m : OutMsg) => !msgOpen st m && m.typ ≠ tRead && m.typ ≠ tFlush && !m.failed && (match m.use_ with | .program _ _ _ => false | _ => true)
  { st with msgs := (st.msgs.filter fun m => !gone m).map fun m =>
      if m.typ = tFlush && !m.acked && !(st.pkts.any fun k => k.msgId = m.msgId) && (before.pkts.any fun k => k.msgId = m.msgId) then
        { m with acked := true, lastAt := now } else m }

/-- Fast retransmit: the SACK shows three higher PSNs and the packet is older than 1.25 srtt; never past MPL (R273). -/
def Blk.fastResend (b : Blk) (stream : Nat) (h : SkyHdr) : Blk :=
  let st := b.strmOf stream
  let l := st.pkts.filter fun k => !b.past k.firstAt b.mpl && decide (5 * b.srttOf st < 4 * (b.now - k.lastAt)) &&
    decide (3 ≤ ((List.range 32).filter fun i => bitAt h.sackBits i && decide (0 < psnSub (psnAdd h.ackPsn (1 + i)) k.psn ∧ psnSub (psnAdd h.ackPsn (1 + i)) k.psn < 2 ^ 31)).length)
  l.foldl (fun b k => b.resend stream k k.rto) b

/-- The drains that an acknowledgement has moved on (R326). -/
def Blk.drainAcks (b : Blk) (l : List OutMsg) : Blk :=
  l.foldl (fun b m => match m.use_ with | .harvest c d => b.drainAck c d | _ => b) b

/-- An ACK or SACK (R270, R271): copies are freed, timers and window follow; one that matches nothing outstanding is ignored. -/
def Blk.rxAck (b : Blk) (arr : Arrival) (h : SkyHdr) : Blk :=
  let n := h.stream
  let st := b.strmOf n
  let hit := st.pkts.filter fun k => acks h k.psn
  let beyond := decide (0 < psnSub h.ackPsn st.psn ∧ psnSub h.ackPsn st.psn < 2 ^ 31) || st.unsent.any (acks h) ||
    (List.range 32).any fun i => bitAt h.sackBits i && decide (psnSub (psnAdd h.ackPsn (1 + i)) st.psn < 2 ^ 31)
  let again := st.msgs.any fun m => m.typ = tFlush && m.status.isNone && m.acked && acks h m.psn
  if beyond || (hit.isEmpty && !again) then b.modPort arr.port fun x => { x with badAck := satInc 16 x.badAck }
  else
    let ms := st.msgs.filter fun m => hit.any fun k => k.msgId = m.msgId
    let syn := match st.synPsn with | some p => acks h p | none => false
    let x := (b.now + 2 ^ 32 - h.ts % 2 ^ 32) % 2 ^ 32
    let st' := { st with pkts := st.pkts.filter fun k => !acks h k.psn, synced := st.synced || syn, synPsn := if syn then none else st.synPsn,
                         acks := st.acks + 1, marked := st.marked + b2n h.ece, eceSeen := st.eceSeen || h.ece }
    let st' := ackMsgs (rttSample st' b.now (b.cfg.mod.targetDelay * 1000) x) b.now st
    let b := (b.setStrm n st').cwndTick n
    let b := b.drainAcks ms
    let b := if h.sackBits = 0 then b else b.fastResend n h
    (ms.foldl (fun b m => b.settle m.ctx) b).drainAll

/-- A FLUSH_ACK: DONE, or PARTIAL where an earlier message of the incarnation failed or was cancelled (R268). -/
def Blk.rxFlushAck (b : Blk) (arr : Arrival) (h : SkyHdr) : Blk :=
  let n := h.stream
  let st := b.strmOf n
  match st.msgs.find? fun m => m.msgId = h.msgId && m.typ = tFlush && m.status.isNone && m.firstAt.isSome with
  | none => b.modPort arr.port fun x => { x with badAck := satInc 16 x.badAck }
  | some m =>
    let part := match st.firstFail with | some f => decide (2 ^ 31 ≤ psnSub f m.msgId) | none => false
    let v := if part then 2 else 0
    let syn := st.synPsn = some m.psn
    let st' := { dropPkts st m with synced := st.synced || syn }
    let b := b.setStrm n (modMsg st' m.msgId fun y => { y with status := some (v, 0), acked := true })
    let b := if part then b.raise 0x7001 m.ctx (diePan (homeDie n)) (n % 2 ^ 14 + m.msgId * 2 ^ 32 + 2 * 2 ^ 64) else b
    match m.use_ with
    | .harvest _ _ => (b.drainFlushed n m.msgId v).modStrm n fun y => { y with msgs := y.msgs.filter fun z => z.msgId ≠ m.msgId }
    | _ => b.settle m.ctx

/-- NO_STREAM: every outstanding message of the direction ends; MPL later the direction synchronises anew (R263, R312). -/
def Blk.rxNoStream (b : Blk) (x : RxStream) (stream : Nat) : Blk :=
  let st := b.strmOf stream
  let out := st.msgs.filter fun m => msgOpen st m || (m.status.isNone && m.typ ≠ tCancel)
  let b := out.foldl (fun b m => b.giveUpMsg stream m 4 0 false (some 1)) b
  let b := b.modStrm stream fun y => { y with resyncAt := some (b.now + b.mpl), synced := false, synPsn := none }
  b.raise 0x7002 (x.owner.getD moduleCtx) (diePan (homeDie stream)) (stream % 2 ^ 14)

/-- A NAK (R263, R266, R271): a failing reason ends the message, a retry reason sends the packet again after RTO. -/
def Blk.rxNak (b : Blk) (arr : Arrival) (x : RxStream) (h : SkyHdr) : Blk :=
  let n := h.stream
  let b := b.modPort arr.port fun y => { y with nakRx := satInc 16 y.nakRx }
  let st := b.strmOf n
  let pkt := st.pkts.find? fun k => k.psn = h.psn && k.msgId = h.msgId
  let m := st.msgs.find? fun m => m.msgId = h.msgId && (pkt.isSome || (m.typ = tRead && m.status.isNone && m.firstAt.isSome && h.psn = 0))
  match m with
  | none => b.modPort arr.port fun y => { y with badAck := satInc 16 y.badAck }
  | some m =>
    if 1 ≤ h.reason && decide (h.reason ≤ 6) then
      let b := match m.use_ with
        | .harvest _ d => if h.reason = rBounds then (b.modSpare fun k => { k with areaFull := satInc 8 k.areaFull }).raise 0x9006 moduleCtx hubPan (d + b.pos * 2 ^ 8) else b
        | _ => b
      b.giveUpMsg n m (0x100 + h.reason) h.info true (some 7)
    else if h.reason = rNoStream then b.rxNoStream x n
    else if decide (8 ≤ h.reason ∧ h.reason ≤ 10) then
      b.setStrm n (modMsg { st with pkts := st.pkts.map fun (k : OutPkt) => if k.psn = h.psn && k.msgId = h.msgId then { k with retry := true } else k }
        m.msgId fun y => if y.typ = tRead then { y with retry := true } else y)
    else b.modPort arr.port fun y => { y with badAck := satInc 16 y.badAck }

/-! ### Collective traffic (R300, R301, R309, R312 to R314, R329) -/

/-- Is a 16-bit epoch tag below the context's epoch (R301)? -/
def epochBelow (e gen : Nat) : Bool := decide (1 ≤ (e % 2 ^ 16 + 2 ^ 16 - gen % 2 ^ 16) % 2 ^ 16 ∧ (e % 2 ^ 16 + 2 ^ 16 - gen % 2 ^ 16) % 2 ^ 16 ≤ 32767)

/-- Bytes of collective staging in use on a link die by what is held, of 64 MiB (R302). -/
def Blk.stagingUsed (b : Blk) (die : Nat) : Nat := ((b.heldShards.filter fun h => h.die = die).map fun h => h.pkt.data.length).sum

/-- Hold a shard or record in staging, or answer BUSY where it is full (R301). -/
def Blk.holdShard (b : Blk) (arr : Arrival) (p : Packet) : Blk :=
  let n := p.h.stream
  let die := homeDie n
  if 64 * 2 ^ 20 < b.stagingUsed die + p.data.length then
    (b.modCe (4 * (die - dLD0)) fun x => { x with heldBusy := satInc 16 x.heldBusy }).nak n p.h rBusy 0
  else (({ b with heldShards := b.heldShards ++ [({ die := die, arr := arr, pkt := p } : HeldShard)] }).countRec arr p.h).accept n arr p.h true

/-- A data segment of a running collective: its total, its extent, its destination, its placement. -/
def State.rxShard (s : State) (arr : Arrival) (p : Packet) (c : Coll) (rank : Nat) : State :=
  let h := p.h
  let n := h.stream
  let x := shardOf rank p
  let refuse := fun (b : Blk) r => s.setB (b.nak n h r 0)
  if s.b.mismatch c rank h.msgLen then s.setB ((s.b.accept n arr h true).abortColl c 8 rank)
  else if !s.b.shardExtent c x h.msgLen then refuse s.b rBounds
  else
    let c' := if c.d.op = 9 then { c with inLen := some h.msgLen } else c
    let dst := s.b.shardDst c' rank x.off x.dst
    let k := s.b.ctx c.ctx
    match dst.map fun a => (a, access k c.who true a h.length) with
    | some (a, .fault _ _ _) => refuse (if hitsPhaseBlock k a h.length then s.b.noteRefused c.ctx else s.b) rRefused
    | some (_, .wait) => refuse s.b rBusy
    | _ =>
      let m := match dst with | some a => s.b.meet (some c.ctx) true a h.length arr.mem | none => (s.b, false)
      let s := s.setB (s.b.modColl c.ctx c.group c.seq fun y => { y with inLen := c'.inLen })
      if s.shardReady c' rank x.off x.dst h.length then
        if m.2 then s.setB (m.1.memNak h)
        else
          let s := s.setB ((((m.1.modColl c.ctx c.group c.seq fun y => { y with inLen := c'.inLen }).countRec arr h)).accept n arr h true)
          s.takeShard c' x
      else
        let s := match dst with | some a => s.cowBlock c.ctx a h.length | none => s
        if s.b.holdRoom p then s.setB (((s.b.holdPkt arr p).countRec arr h).accept n arr h false) else s.setB (s.b.holdDrop arr.port)

/-- An ABORT for a collective that this member does not hold: its context is faulted as any member's (R312). -/
def Blk.abortUnknown (b : Blk) (ctx group seq rank : Nat) : Blk :=
  (b.raiseSev 3 0x8001 ctx hubPan (group + seq * 2 ^ 16 + 4 * 2 ^ 40 + rank * 2 ^ 48)).ctxFault ctx cGrpAbort hubPan noSeq false 0 0

/-- A producer's queue gains credits, and the QSENDs that wait on it go (R309). -/
def State.gainCredits (s : State) (c : Coll) (k : Nat) : State :=
  let b := s.b.modCtx c.ctx fun x => { x with queues := x.queues.set c.d.queue { (x.queues.get {} c.d.queue) with credits := (x.queues.get {} c.d.queue).credits + k } }
  (b.colls.filter fun y => y.ctx = c.ctx && y.d.op = 8 && y.d.queue = c.d.queue).foldl (fun s y => s.trySend y.ctx y.group y.seq) (s.setB b)

/-- Once every ENTRY or REPORT is known, the instant of the release or the start is: two tides after the highest. Where the last one came after it, this member has not
received every one by that instant, and the collective aborts (R306, R308). -/
def Blk.judgeLate (b : Blk) (ctx group seq rank : Nat) : Blk :=
  match b.findColl ctx group seq with
  | none => b
  | some c =>
    let t := if c.d.op = 7 then c.entry else c.report
    if (c.st = .running && c.d.op = 7 || c.st = .reported) && b.allIn c t && b.due (topTide t + 2) 1 then b.abortColl c 3 rank else b

/-- A control record for a collective that this member has issued (R301, R306, R308, R309, R312). -/
def State.rxCtlKnown (s : State) (arr : Arrival) (p : Packet) (c : Coll) (rank : Nat) : State :=
  let r := ctlOfBytes p.data
  let ok := fun (b : Blk) => b.accept p.h.stream arr p.h true
  let before := s.b.missing c
  if r.kind = 1 then
    if c.st = .running then
      s.setB (((ok (s.b.modColl c.ctx c.group c.seq fun x => { x with entry := x.entry.set rank r.tide })).reWait c.ctx c.group c.seq before).judgeLate
        c.ctx c.group c.seq rank)
    else if collOpen c then s.setB (s.b.holdShard arr p) else s.setB (ok s.b)
  else if r.kind = 2 then
    s.setB (((ok (s.b.modColl c.ctx c.group c.seq fun x => { x with report := x.report.set rank r.tide })).reWait c.ctx c.group c.seq before).judgeLate
      c.ctx c.group c.seq rank)
  else if r.kind = 3 then (if c.st = .aborted then s.setB (ok s.b) else s.setB ((ok s.b).abortColl c 4 rank))
  else if r.kind = 4 then (s.setB (ok s.b)).gainCredits c r.credits
  else if r.kind = 5 then s.setB ((ok s.b).resendShard c rank r.value r.len)
  else s.setB (ok s.b)

/-- RESTORE and READY records (R329). -/
def Blk.rxRestoreRec (b : Blk) (arr : Arrival) (p : Packet) (ctx rank : Nat) : Blk :=
  let r := ctlOfBytes p.data
  let b := b.accept p.h.stream arr p.h true
  if r.kind = 6 then b.modCtx ctx fun c => { c with hrv := { c.hrv with ms := c.hrv.ms.set rank (if r.value = noneStep then none else some r.value) } }
  else if r.kind = 7 then b.modCtx ctx fun c => { c with hrv := { c.hrv with ready := c.hrv.ready.set rank r.tide } }
  else b

/-- Has a sequence number not been issued here yet? -/
def seqAhead (c : Ctx) (group seq : Nat) : Bool := decide ((seq + 2 ^ 23 - c.collSeq.get 0 group) % 2 ^ 23 < 2 ^ 22)

/-- A collective packet that has passed step 7 (R261, R301). -/
def State.rxColl (s : State) (arr : Arrival) (x : RxStream) (p : Packet) : State :=
  let h := p.h
  let n := h.stream
  let ctl := bitAt h.offset 63
  let seq := bits h.offset 40 23
  let refuse := fun r i => s.setB (s.b.nak n h r i)
  match x.owner with
  | none => refuse rWinClosed 0
  | some ctx =>
    let c := s.b.ctx ctx
    let k := s.b.findColl ctx h.winId seq
    if !s.b.step8 h then refuse rBounds 0
    else match s.b.groupFor ctx h.winId seq with
      | none => refuse rWinClosed 0
      | some g =>
        let rank := g.members.findIdx fun m => m.addr = arr.src
        if s.b.spare.groupsLeft || decide (g.members.length ≤ rank) then refuse rWinClosed 0
        else if ctl && seq = seqRestore then s.setB (s.b.rxRestoreRec arr p ctx rank)
        else if epochBelow c.epoch h.winGen then refuse rGenStale (c.epoch % 2 ^ 16)
        else if !s.b.recFree h then s.setB ((s.b.recFullEvent (homeDie n)).nak n h rBusy 0)
        else match k with
          | some k =>
            if k.d.epoch % 2 ^ 16 ≠ h.winGen then refuse rGenStale (c.epoch % 2 ^ 16)
            else if ctl then s.rxCtlKnown arr p k rank
            else if k.st = .running then s.rxShard arr p k rank
            else if collOpen k then s.setB (s.b.holdShard arr p)
            else if k.st = .done && s.b.mismatch k rank h.msgLen then s.setB ((s.b.accept n arr h true).abortColl k 8 rank)
            else s.setB ((s.b.countRec arr h).accept n arr h true)
          | none =>
            if ctl && (ctlOfBytes p.data).kind = 3 then s.setB ((s.b.accept n arr h true).abortUnknown ctx h.winId seq rank)
            else if seqAhead c h.winId seq then s.setB (s.b.holdShard arr p)
            else s.setB ((s.b.countRec arr h).accept n arr h true)

/-! ### One arrival -/

/-- Step 7 for a sequenced packet; then its TYPE's steps 8 to 12. -/
def State.rxSequenced (s : State) (arr : Arrival) (x : RxStream) (p : Packet) : State :=
  let h := p.h
  let n := h.stream
  let st := s.b.strmOf n
  match s.b.psnRule st h with
  | (.synWait, _) => s.setB (s.b.nak n h rSynWait 0)
  | (.noStream, _) => s.setB (s.b.nak n h rNoStream 0)
  | (.dup, _) =>
    let b := (s.b.setStrm n { st with lastRx := some s.b.now, ece := st.ece || arr.ce }).modPort arr.port fun y => { y with dupDrop := satInc 16 y.dupDrop }
    let b := b.ackNow n h.ts
    s.setB (if h.typ = tFlush && flushReady (b.strmOf n) h.psn then b.flushAnswer n h.msgId h.ts else b)
  | (.tooFar, _) => s.setB ((s.b.setStrm n { st with lastRx := some s.b.now }).nak n h rTooFar 0)
  | (.new, syn) =>
    let st := if syn then { st with known := true, e := h.psn, map := [], unplaced := [], flushes := [], lastRx := some s.b.now } else { st with lastRx := some s.b.now }
    let s := s.setB (s.b.setStrm n st)
    if h.typ = tWrite then s.rxWrite arr x p
    else if h.typ = tFlush then s.setB (s.b.rxFlush arr p)
    else if h.typ = tCancel then s.setB (s.b.rxCancel arr p)
    else if h.typ = tEvent then s.setB (s.b.rxEvent arr x p)
    else s.rxColl arr x p

/-- Steps 5 to 12 of R261. -/
def State.rxChecks (s : State) (arr : Arrival) (p : Packet) : State :=
  let h := p.h
  if !verFits arr || !lengthOk h then s.setB (s.b.modPort arr.port fun y => { y with badHdr := satInc 16 y.badHdr })
  else
    let late := s.setB (match (s.b.ctx h.ctx).st with
      | .teardown => s.b.lateDrop h.ctx
      | .quarantine => s.b.lateDrop h.ctx
      | .absent => s.b.lateDrop h.ctx
      | _ => s.b.countUnknown arr.port)
    match s.b.rxStream h with
    | none => late
    | some x =>
      if x.e.peerAddr ≠ arr.src || !bitAt x.pd.ports arr.port || (arr.port = 0 && x.pd.macsecHp && !((s.b.portOf 0).cfg.macsec && arr.macsec)) then
        (match x.owner with | some _ => late | none => s.setB (s.b.countUnknown arr.port))
      else if !s.b.rxActive x p then (match x.owner with | some _ => late | none => s.setB (s.b.countUnknown arr.port))
      else if sequenced h.typ then s.rxSequenced arr x p
      else
        let s := s.setB (s.b.modStrm h.stream fun st => { st with lastRx := st.lastRx.map fun _ => s.b.now })
        if h.typ = tRead then s.rxRead arr x p
        else if h.typ = tReadResp then s.rxResp arr p
        else if h.typ = tFlushAck then s.setB (s.b.rxFlushAck arr h)
        else if h.typ = tNak then s.setB (s.b.rxNak arr x h)
        else s.setB (s.b.rxAck arr h)

/-- What injection does with an arrival: nothing, a drop, a second delivery, or a hold (R409). -/
inductive Inject where
  | none | drop | dup | hold
  deriving DecidableEq, Repr

/-- Is a packet's stream in the scope of injection, its context not torn down (R409, R410)? -/
def Blk.injScoped (b : Blk) (h : SkyHdr) : Bool :=
  b.tst.active && !b.tst.stopping && (match b.rxStream h with
    | some x => match x.owner with
      | some c => !([.teardown, .quarantine, .absent] : List CtxState).contains (b.ctx c).st && (b.tst.allCtx || (List.range 8).any fun i => let v := b.tst.ctxs.get 0 i; bitAt v 31 && v % 1024 = c)
      | none => b.tst.allCtx
    | none => false)

/-- The three draws for an arrival, by seed, stream, PSN and arrival count. -/
def Blk.injectOf (b : Blk) (h : SkyHdr) : Inject :=
  let n := b.tst.arrivals.get 0 h.stream
  let d := fun (i : Nat) => Config.draw b.tst.seed (3 * h.stream + i) h.psn n % 65536
  if !b.injScoped h then .none
  else if d 0 < b.tst.drop % 65536 then .drop
  else if d 1 < b.tst.drop / 65536 then .dup
  else if d 2 < b.tst.reord / 65536 then .hold
  else .none

/-- Count an arrival on a scoped stream, and a perturbation. -/
def Blk.injCount (b : Blk) (h : SkyHdr) (i : Inject) : Blk :=
  if !b.injScoped h then b
  else { b with tst := { b.tst with arrivals := b.tst.arrivals.set h.stream (b.tst.arrivals.get 0 h.stream + 1),
                                    cnt := if i = .none then b.tst.cnt else satInc 32 b.tst.cnt } }

/-- Step 2 of R261: this module's address, next header UDP, UDP_PORT, the UDP checksum, and lengths that agree. -/
def Blk.frameFits (b : Blk) (arr : Arrival) (p : Packet) : Bool :=
  b.cfg.mod.portAddr.contains arr.dst && arr.nextHdr = 17 && arr.dstPort = b.cfg.mod.udpPort && arr.ipLen = arr.udpLen &&
  arr.udpLen = 8 + 48 + p.data.length + 4 && p.data.length = p.h.length &&
  arr.udpSum = udpChecksum arr.src arr.dst arr.srcPort arr.dstPort (udpPayload arr.ver arr.rsv (wireHdr arr p.h) p.data arr.crc)

/-- A packet arrives at a port (R261, R286, R409). -/
def State.rx (s : State) (arr : Arrival) (p : Packet) : State :=
  let port := s.b.portOf arr.port
  let mod := fun (f : Port → Port) => s.setB (s.b.modPort arr.port f)
  if port.st ≠ .up || s.b.spare.displaced || !s.b.running then s
  else if port.cfg.macsec && !arr.macsec then
    mod fun y => if arr.unprot then { y with unprotDrop := satInc 16 y.unprotDrop } else { y with icvFail := satInc 16 y.icvFail }
  else if !s.b.frameFits arr p then mod fun y => { y with badHdr := satInc 16 y.badHdr }
  else
    let s := if arr.ce then mod fun y => { y with ceRx := satInc 32 y.ceRx } else s
    if !s.b.knownPeer arr.src then
      if port.unkUsed < s.b.cfg.mod.unkRate then s.setB (s.b.countUnknown arr.port)
      else s.setB (s.b.modPort arr.port fun y => { y with unkDrop := satInc 16 y.unkDrop, unkOver := satInc 32 y.unkOver })
    else if !crcFits arr p then s.setB (s.b.modPort arr.port fun y => { y with crcErr := satInc 16 y.crcErr })
    else
      let i := s.b.injectOf p.h
      let s := s.setB (s.b.injCount p.h i)
      match i with
      | .none => s.rxChecks arr p
      | .drop => s
      | .dup => (s.rxChecks arr p).rxChecks arr p
      | .hold => s.setB { s.b with tst := { s.b.tst with held := s.b.tst.held ++ [{ at_ := s.b.now + s.b.tst.reord % 65536 * 1000, arr := arr, pkt := p }] } }

/-- The packet with its TYPE. -/
def withType (p : Packet) (t : Nat) : Packet := { p with h := { p.h with typ := t } }

/-- Its control record's KIND, where it is a control segment. -/
def ctlKind (p : Packet) : Option Nat :=
  if (p.h.typ = tReduce || p.h.typ = tPermute) && bitAt p.h.offset 63 then some (ctlOfBytes p.data).kind else none

/-- A control segment of one KIND arrives. -/
def State.rxCtl (s : State) (arr : Arrival) (p : Packet) (kind : Nat) : State := if ctlKind p = some kind then s.rx arr p else s

/-- WRITE (R266). -/
def execWrite (arr : Arrival) (p : Packet) (s : State) : Host.Outcome State Fault Refusal := .next (s.rx arr (withType p tWrite))
/-- READ (R267). -/
def execRead (arr : Arrival) (p : Packet) (s : State) : Host.Outcome State Fault Refusal := .next (s.rx arr (withType p tRead))
/-- READ_RESP (R267). -/
def execReadResp (arr : Arrival) (p : Packet) (s : State) : Host.Outcome State Fault Refusal := .next (s.rx arr (withType p tReadResp))
/-- FLUSH (R268). -/
def execFlush (arr : Arrival) (p : Packet) (s : State) : Host.Outcome State Fault Refusal := .next (s.rx arr (withType p tFlush))
/-- FLUSH_ACK (R268). -/
def execFlushAck (arr : Arrival) (p : Packet) (s : State) : Host.Outcome State Fault Refusal := .next (s.rx arr (withType p tFlushAck))
/-- ACK (R270). -/
def execAck (arr : Arrival) (p : Packet) (s : State) : Host.Outcome State Fault Refusal := .next (s.rx arr (withType p tAck))
/-- SACK (R270). -/
def execSack (arr : Arrival) (p : Packet) (s : State) : Host.Outcome State Fault Refusal := .next (s.rx arr (withType p tSack))
/-- NAK (R271). -/
def execNak (arr : Arrival) (p : Packet) (s : State) : Host.Outcome State Fault Refusal := .next (s.rx arr (withType p tNak))
/-- CANCEL (R269). -/
def execCancel (arr : Arrival) (p : Packet) (s : State) : Host.Outcome State Fault Refusal := .next (s.rx arr (withType p tCancel))
/-- EVENT (R269). -/
def execEvent (arr : Arrival) (p : Packet) (s : State) : Host.Outcome State Fault Refusal := .next (s.rx arr (withType p tEvent))
/-- REDUCE (R301). -/
def execReduce (arr : Arrival) (p : Packet) (s : State) : Host.Outcome State Fault Refusal := .next (s.rx arr (withType p tReduce))
/-- PERMUTE_SEG (R301). -/
def execPermuteSeg (arr : Arrival) (p : Packet) (s : State) : Host.Outcome State Fault Refusal := .next (s.rx arr (withType p tPermute))
/-- ENTRY (R306). -/
def execEntry (arr : Arrival) (p : Packet) (s : State) : Host.Outcome State Fault Refusal := .next (s.rxCtl arr p 1)
/-- REPORT (R308). -/
def execReport (arr : Arrival) (p : Packet) (s : State) : Host.Outcome State Fault Refusal := .next (s.rxCtl arr p 2)
/-- ABORT (R312). -/
def execAbort (arr : Arrival) (p : Packet) (s : State) : Host.Outcome State Fault Refusal := .next (s.rxCtl arr p 3)
/-- CREDIT (R309). -/
def execCredit (arr : Arrival) (p : Packet) (s : State) : Host.Outcome State Fault Refusal := .next (s.rxCtl arr p 4)
/-- REREQ (R312). -/
def execRereq (arr : Arrival) (p : Packet) (s : State) : Host.Outcome State Fault Refusal := .next (s.rxCtl arr p 5)
/-- RESTORE (R329). -/
def execRestore (arr : Arrival) (p : Packet) (s : State) : Host.Outcome State Fault Refusal := .next (s.rxCtl arr p 6)
/-- READY (R329). -/
def execReady (arr : Arrival) (p : Packet) (s : State) : Host.Outcome State Fault Refusal := .next (s.rxCtl arr p 7)

/-! ### The hold buffer (R170, R277, R279) -/

/-- A packet that has been placed is acknowledged (R266). -/
def Blk.placed (b : Blk) (x : Held) : Blk :=
  let h := x.pkt.h
  let b := b.modStrm h.stream fun st => { st with unplaced := st.unplaced.filter (· ≠ h.psn) }
  (b.oweAck h.stream x.arr h).flushCheck h.stream

/-- Place a waiting packet, if it can be placed now: the new state, or none. -/
def State.tryPlace (s : State) (x : Held) : Option State :=
  let h := x.pkt.h
  let drop := some (s.setB (s.b.placed x))
  match s.b.rxStream h with
  | none => drop
  | some r => match r.owner with
    | none => drop
    | some c =>
      if h.typ = tWrite then
        match r.pd.windows.find? fun w => w.winId = h.winId with
        | none => drop
        | some w =>
          let a := writeAddr w h
          if !s.canWrite c a h.length then none
          else
            let k := s.b.meet (some c) true a h.length x.arr.mem
            if k.2 then some (s.setB (k.1.memNak h))
            else
              let s := (s.setB (k.1.observe s.mem c (cellsAt a x.pkt.data) false)).store c a x.pkt.data
              some (s.setB (s.b.placed x))
      else if h.typ = tReadResp then
        match (s.b.strmOf h.stream).msgs.find? fun m => m.msgId = h.msgId && m.typ = tRead && m.status.isNone with
        | none => some s
        | some m =>
          if decide (h.offset + h.length ≤ gotUpTo m.got (m.got.length + 1) h.offset) then some s
          else if s.canWrite c ((m.addr.getD 0) + h.offset) h.length then some (s.placeResp h.stream m h.offset x.pkt.data) else none
      else
        match s.b.findColl c h.winId (bits h.offset 40 23) with
        | none => drop
        | some k =>
          let rank := s.b.rankOfStream c h.winId (bits h.offset 40 23) h.stream
          let y := shardOf rank x.pkt
          if k.st ≠ .running then drop
          else if s.shardReady k rank y.off y.dst h.length then
            let m := match s.b.shardDst k rank y.off y.dst with | some a => s.b.meet (some c) true a h.length x.arr.mem | none => (s.b, false)
            if m.2 then some (s.setB (m.1.memNak h))
            else
              let s := (s.setB m.1).takeShard k y
              some (s.setB (s.b.placed x))
          else none

/-- HOLD_BUFFER_PLACE: the first waiting packet of a link die that can be placed is placed. -/
def State.holdPlace (s : State) (die : Nat) : State :=
  match s.b.held.findSome? fun x => if x.die = die then (s.tryPlace x).map fun t => (x, t) else none with
  | some (x, t) => t.setB { t.b with held := t.b.held.erase x }
  | none => s

/-- HOLD_BUFFER_PLACE (R279). -/
def execHoldBufferPlace (die : Nat) (s : State) : Host.Outcome State Fault Refusal := .next (s.holdPlace die)

/-- Injection ends: ACTIVE clears, then EV_TST_OFF (R409, R410). -/
def Blk.tstOff (b : Blk) : Blk :=
  ({ b with tst := { b.tst with active := false, stopping := false } }).raiseMod 0xE002 b.tst.cnt

/-- REORDER_RELEASE: a packet that injection has held passes the checks at its own time; after the last one ACTIVE may clear (R409, R410). -/
def State.reorderRelease (s : State) : State :=
  match s.b.tst.held.find? fun x => decide (x.at_ ≤ s.b.now) with
  | none => s
  | some x =>
    let s := s.setB { s.b with tst := { s.b.tst with held := s.b.tst.held.erase x } }
    let s := if (s.b.portOf x.arr.port).st = .up && !s.b.spare.displaced && s.b.running then s.rxChecks x.arr x.pkt else s
    if s.b.tst.stopping && s.b.tst.held.isEmpty then s.setB s.b.tstOff else s

/-- REORDER_RELEASE (R409). -/
def execReorderRelease (s : State) : Host.Outcome State Fault Refusal := .next s.reorderRelease

end Sys2Proof.Machine
end

