-- ==== Sys2Proof/Machine/Ports.lean ====
section
/-! DEFINITION. The Ethernet ports: bringing up, MACsec, retraining, faults, and the frames other than Skeyr (15). -/
namespace Sys2Proof.Machine
open Sys2Proof

/-- The ports that a domain can use now, as a mask (R280). -/
def Blk.usableMask (b : Blk) (pd : PdRec) : Nat := ((b.upPorts pd.ports).map fun i => 2 ^ i).sum

/-- A port's paths have joined or left the set: each domain that uses it is told, in its context's events (R272, R280). -/
def Blk.pathsChanged (b : Blk) (port : Nat) : Blk :=
  b.domains.foldl (fun b d => match d.1 with
    | some c => if bitAt d.2.ports port && !d.2.streams.isEmpty then
        b.raise 0x7004 c (portPan port) (d.2.pdId % 4096 + b.usableMask d.2 * 2 ^ 16) else b
    | none => b) b

/-- A retrain begins: the port auto-negotiates anew (R290). -/
def Blk.retrain (b : Blk) (port : Nat) (service : Bool) : Blk :=
  let up := (b.portOf port).st = .up
  let b := b.modPort port fun x =>
    { x with st := .an, rate := 0, lanes := 0, macsecUp := false, noCommon := false, want := false, service := service, ctl := [],
             retrainAt := some b.now, retrainCnt := satInc 16 x.retrainCnt, ucwTide := 0 }
  let b := b.setSt (portPan port) .reset
  if up then (b.raise 0x6002 moduleCtx (portPan port) 0).pathsChanged port else b

/-- A port whose reset has cleared its datapath waits for its turn to retrain (R290, R341). -/
def Blk.awaitRetrain (b : Blk) (port : Nat) : Blk :=
  let up := (b.portOf port).st = .up
  let b := b.modPort port fun x =>
    { x with st := .down, rate := 0, lanes := 0, macsecUp := false, noCommon := false, want := true, service := false, ctl := [], retrainAt := none, ucwTide := 0 }
  let b := b.setSt (portPan port) .reset
  if up then (b.raise 0x6002 moduleCtx (portPan port) 0).pathsChanged port else b

/-- Retrains that service writes or an image switch asked for run one port at a time, in port order (R290). -/
def Blk.nextRetrain (b : Blk) : Blk :=
  if b.ports.any fun e => e.2.service then b
  else match (List.range 7).find? fun i => (b.portOf i).want with
    | some i => b.retrain i true
    | none => b

/-- Ask for a retrain of a port; on a port that retrains already it is folded into that (R291). -/
def Blk.askRetrain (b : Blk) (port : Nat) : Blk :=
  let p := b.portOf port
  if !p.cfg.enable || p.retrainAt.isSome then b else (b.modPort port fun x => { x with want := true }).nextRetrain

/-- A port enters FAULT (R290, R291). -/
def Blk.portFault (b : Blk) (port reason : Nat) (loop : Bool) : Blk :=
  let up := (b.portOf port).st = .up
  let sev := b.faultSev
  let b := b.dropRun (portPan port)
  let b := b.withSev (if sev = 4 then 4 else 0) fun b =>
    let b := b.modPort port fun x => { x with st := .fault, rate := 0, lanes := 0, macsecUp := false, reason := reason, loopOk := loop, retrainAt := none, service := false, want := false, ctl := [] }
    let b := b.setSt (portPan port) .fault
    let b := b.raiseSev sev 0x6003 moduleCtx (portPan port) (reason + b2n loop * 2 ^ 8)
    if up then b.pathsChanged port else b
  b.nextRetrain

/-- A port is UP: its paths join the set (R285). -/
def Blk.portUp (b : Blk) (port : Nat) : Blk :=
  let p := b.portOf port
  let low := p.rate = 1 && p.cfg.rateSel = 2
  let ms := match p.retrainAt with | some t => min 65535 ((b.now - t) / 1000000) | none => p.lastMs
  let b := b.modPort port fun x => { x with st := .up, lanes := 0xF, lastMs := ms, retrainAt := none, service := false, rateLow := x.rateLow || low, reason := 0 }
  let b := b.setSt (portPan port) .ready
  let b := b.raise 0x6001 moduleCtx (portPan port) 0
  let b := if low then b.raise 0x6004 moduleCtx (portPan port) 0 else b
  (b.pathsChanged port).sinkFlush.nextRetrain

/-- The highest common rate: 2 for 800 Gb/s, 1 for 400 Gb/s, 0 where none is common (R284, R285). -/
def commonRate (sel : Nat) (has800 has400 : Bool) : Nat :=
  if has800 && (sel = 0 || sel = 2) then 2 else if has400 && (sel = 1 || sel = 2) then 1 else 0

/-- The rate that a port takes from the abilities its partner advertises: [0] 800GBASE-CR4, [1] 800GBASE-KR4, [2] 400GBASE-CR4, [3] 400GBASE-KR4, of which MEDIA admits
the CR4 or the KR4 pair (R283, R284, R285). -/
def agreedRate (c : PortRec) (abil : Nat) : Nat := commonRate c.rateSel (bitAt abil (b2n c.kr)) (bitAt abil (2 + b2n c.kr))

/-- PORT_AN_DONE: auto-negotiation has heard the partner's abilities; a port reset's datapath has been cleared before (R285, R291, R346). -/
def execPortAnDone (port abil : Nat) (s : State) : Host.Outcome State Fault Refusal :=
  let p := s.b.portOf port
  if p.st ≠ .an then .next s
  else
    let r := agreedRate p.cfg abil
    let b := s.b.dropRun (portPan port)
    .next (s.setB (b.modPort port fun x => if r = 0 then { x with noCommon := true } else { x with st := .training, rate := r, noCommon := false }))

/-- PORT_TRAINING_DONE: trained on all four lanes; without MACsec the port is UP, with it HELD (R285). -/
def execPortTrainingDone (port : Nat) (s : State) : Host.Outcome State Fault Refusal :=
  let p := s.b.portOf port
  if p.st ≠ .training then .next s
  else if p.cfg.macsec then .next (s.setB (s.b.modPort port fun x => { x with st := .held, lanes := 0xF }))
  else .next (s.setB (s.b.portUp port))

/-- MKA_LIVE: MKA is live and a SAK is installed (R285). -/
def execMkaLive (port : Nat) (s : State) : Host.Outcome State Fault Refusal :=
  if (s.b.portOf port).st ≠ .held then .next s
  else .next (s.setB ((s.b.modPort port fun x => { x with macsecUp := true, pn := 0, saks := x.saks + 1 }).portUp port))

/-- SAK_REKEY: a new SAK is installed before the packet number runs out; no frame is lost (R285). -/
def execSakRekey (port : Nat) (s : State) : Host.Outcome State Fault Refusal :=
  let p := s.b.portOf port
  if p.st = .up && p.cfg.macsec then .next (s.setB (s.b.modPort port fun x => { x with pn := 0, saks := x.saks + 1 })) else .next s

/-- PORT_LINK_DOWN: a link is lost; the eighth time within 60 s the port enters FAULT (R290, R291). -/
def Blk.linkDown (b : Blk) (port : Nat) : Blk :=
  let p := b.portOf port
  match p.st with
  | .down => b
  | .fault => b
  | .an => b
  | _ =>
    let l := (p.losses.filter fun t => decide (b.now < t + 60000000000)) ++ [b.now]
    let b := b.modPort port fun x => { x with losses := l, downCnt := satInc 16 x.downCnt }
    if 8 ≤ l.length then
      let b := b.withSev (if b.faultSev = 4 then 4 else 0) fun b => if p.st = .up then b.raise 0x6002 moduleCtx (portPan port) 0 else b
      b.portFault port 3 p.loopOk
    else if p.st = .up then b.retrain port false
    else b.modPort port fun x => { x with st := .an, rate := 0, lanes := 0, macsecUp := false }

/-- PORT_LINK_DOWN (R290). -/
def execPortLinkDown (port : Nat) (s : State) : Host.Outcome State Fault Refusal := .next (s.setB (s.b.linkDown port))

/-- UCW_LIMIT: codewords are counted; more than 16 uncorrectable ones in a tide start a retrain (R290). -/
def execUcwLimit (port corrected uncorrectable : Nat) (s : State) : Host.Outcome State Fault Refusal :=
  let p := s.b.portOf port
  if p.st ≠ .up then .next s
  else
    let b := s.b.modPort port fun x => { x with corrCw := satAdd 32 x.corrCw corrected, ucw := satAdd 32 x.ucw uncorrectable, ucwTide := x.ucwTide + uncorrectable }
    .next (s.setB (if 16 < p.ucwTide + uncorrectable then b.retrain port false else b))

/-- PORT_RETRAIN_TIMEOUT: not UP within RETRAIN_MAX; the loopback tells whether the fault lies beyond the module (R290, R291). -/
def execPortRetrainTimeout (port : Nat) (loopOk : Bool) (s : State) : Host.Outcome State Fault Refusal :=
  let p := s.b.portOf port
  match p.retrainAt with
  | some t =>
    if s.b.past t (p.cfg.retrainMax * 1000000) then
      .next (s.setB (s.b.portFault port (if p.st = .held then 4 else if p.noCommon then 2 else 1) loopOk))
    else .next s
  | none => .next s

/-- NEIGHBOR_SOLICITATION: a Neighbor Discovery message; a solicitation for an address of the module's own is answered (R288). -/
def execNeighborSolicitation (mac : MacsecIn) (port : Nat) (m : NdMsg) (s : State) : Host.Outcome State Fault Refusal :=
  .next (s.setB (s.b.withFrame port mac fun b => b.ndRx port m))

/-- PAUSE_FRAME: discarded and counted (R291). -/
def execPauseFrame (port : Nat) (s : State) : Host.Outcome State Fault Refusal :=
  if (s.b.portOf port).st = .up then .next (s.setB (s.b.modPort port fun x => { x with pauseRx := satInc 16 x.pauseRx })) else .next s

/-- OTHER_FRAME_RX: a frame of a protocol the port does not handle: after the MACsec check it is dropped and counted (R286, R288). -/
def execOtherFrameRx (arr : Arrival) (s : State) : Host.Outcome State Fault Refusal :=
  let p := s.b.portOf arr.port
  if p.st ≠ .up then .next s
  else .next (s.setB (s.b.modPort arr.port fun x =>
    if p.cfg.macsec && !arr.macsec then (if arr.unprot then { x with unprotDrop := satInc 16 x.unprotDrop } else { x with icvFail := satInc 16 x.icvFail })
    else { x with otherDrop := satInc 16 x.otherDrop }))

end Sys2Proof.Machine
end

