-- ==== Sys2Proof/Machine/Contexts.lean ====
section
/-! DEFINITION. Contexts: creation, sealed loads, activation, the later teardown steps, quarantine and the start of a restore (R209, R210, R232 to R250, R329). -/
namespace Sys2Proof.Machine
open Sys2Proof

/-! ### Creation (R160, R164, R235) -/

/-- The numbers under which a context's sealed regions and sealed programs wait to be loaded: regions in table order, then GENERATE and LEARN programs. -/
def genLoad : Nat := 0x10000
def learnLoad : Nat := 0x10001

def sealedLoads (r : CtxRec) : List Nat :=
  ((List.range r.regions.length).filter fun i => (r.regions[i]?).any (·.isSealed)) ++
    (if r.genSeal.isSome then [genLoad] else []) ++ (if r.learnSeal.isSome then [learnLoad] else [])

/-- The recipe state of a context's regions as its record gives it (R187). -/
def recipeState (r : CtxRec) : Tbl RegionSt := r.regions.foldl (fun t g => Tbl.set t g.tensorId { recipe := g.recipe }) []

/-- A context as its record creates it; the last fault record stays held until it is ACTIVE (R244, R252). -/
def freshCtx (old : Ctx) (r : CtxRec) (st : CtxState) : Ctx :=
  { st := st, qos := r.qos, rec_ := r, step := r.startStep, pos := r.startPos, loads := sealedLoads r, regions := recipeState r, fault := old.fault,
    tdUs := old.tdUs, tdReason := old.tdReason, tdStep := old.tdStep, refusedGone := old.refusedGone + old.refused }

/-- Free every granule of a context with all its copies and reservations. -/
def Blk.freeGrans (b : Blk) (ctx : Nat) : Blk :=
  b.modSlu fun s => { s with
    map := s.map.filter fun e => e.1 / 2 ^ 43 ≠ ctx, migs := s.migs.filter fun m => m.ctx ≠ ctx,
    old := s.old.filter fun o => o.ctx ≠ ctx, stalls := s.stalls.filter fun r => r.ctx ≠ ctx }

/-- The streams of a context begin anew (R259, R263). -/
def Blk.freshStreams (b : Blk) (ctx : Nat) : Blk :=
  let ns := b.streamsOf ctx
  { b with
    strm := b.strm.filter fun e => !ns.contains e.1, recs := b.recs.filter fun r => !ns.contains r.stream,
    held := b.held.filter fun h => !ns.contains h.pkt.h.stream, evSeq := b.evSeq.filter fun e => !ns.contains e.1 }

/-- What a context's streams keep through its quarantine: which PSNs have been received, and when the last packet came (R262). -/
def keptStrm (st : Strm) : Strm := { known := st.known, e := st.e, map := st.map, lastRx := st.lastRx }

/-- The incarnation of a context's streams ends (R259, R262). -/
def Blk.endStreams (b : Blk) (ctx : Nat) : Blk :=
  let ns := b.streamsOf ctx
  (b.strm.keys.filter fun n => ns.contains n).foldl (fun x n => x.setStrm n (keptStrm (b.strmOf n))) (b.freshStreams ctx)

/-- Give a context its regions, zeroed, or nothing (R160, R164). Without room a context being created is not; a restore halts, with a HALT to which the spec gives no
code: free (R235, R332, R340). -/
def State.allocate (s : State) (ctx : Nat) (r : CtxRec) (st : CtxState) : State :=
  let old := s.b.ctx ctx
  let b := (s.b.setCtx ctx (freshCtx old r st)).freshStreams ctx
  match b.placeAll ctx r.regions with
  | some b => { s with b := b, mem := memZero s.mem (memKey ctx 0) (memKey (ctx + 1) 0) }
  | none =>
    let b := if st = .restoring then
        (s.b.setCtx ctx { (freshCtx old r .restoring) with loads := [], hrv := { restoreStep := 2, halt := Config.freeNat s.b.freeCtr % 16 } }).spend
      else s.b.setCtx ctx { old with st := .absent, next := none }
    s.setB ((b.modSlu fun u => { u with noSpace := true }).raise 0x4001 ctx hubPan 0)

/-- CTX_CREATE: a declared context is created, at boot in ascending number (R235). -/
def execCtxCreate (ctx : Nat) (s : State) : Host.Outcome State Fault Refusal :=
  let c := s.b.ctx ctx
  match c.next with
  | some r =>
    if c.st = .absent && s.b.running && !(s.b.ctxs.any fun e => e.1 < ctx && e.2.st = .absent && e.2.next.isSome) then
      .next (s.allocate ctx r .creating)
    else .next s
  | none => .next s

/-! ### Sealed loads (R208 to R210) -/

/-- The rows and columns of a tensor that a region takes, in row-major order (R208, R209 step 3). -/
def takenElems (g : RegionRec) (cols : Nat) (es : List Nat) : List Nat :=
  (List.range g.rowCount).flatMap fun r => (es.drop ((g.rowFirst + r) * cols + g.colFirst)).take g.colCount

/-- Element (r, c) of the taken elements. -/
def takenElem (g : RegionRec) (es : List Nat) (r c : Nat) : Nat := es.getD (r * g.colCount + c) 0

/-- A row in the region's own scalar format (R209 step 4, R63): its bytes and flags. -/
def plainRow (g : RegionRec) (src dst : Fmt) (es : List Nat) (r : Nat) : List Nat × NumFlags :=
  (List.range g.colCount).foldl (fun a c =>
    let x := convertCode src dst false false (takenElem g es r c)
    (a.1 ++ leBytes (elemBytes dst) x.1, orFlags a.2 x.2)) ([], noFlags)

/-- A row in MXFP8-E4M3: element bytes, scale bytes, flags (R64, SUBN = 1). -/
def mxRow (g : RegionRec) (src : Fmt) (es : List Nat) (r : Nat) : List Nat × List Nat × NumFlags :=
  (List.range (g.colCount / 32)).foldl (fun a k =>
    let x := convertToMx src .mxE4m3 true ((List.range 32).map fun i => takenElem g es r (32 * k + i))
    (a.1 ++ x.2.1, a.2.1 ++ [x.1], orFlags a.2.2 x.2.2)) ([], [], noFlags)

/-- Engine tile order (R209 step 5): what is written, by address, and the flags. What PLAIN leaves in a region of an MX format is free: R63 converts to scalar formats. -/
def sealLayout (g : RegionRec) (srcCode free : Nat) (es : List Nat) : List (Nat × List Nat) × NumFlags :=
  let src := (fmtOfCode srcCode).getD .fp32
  if g.recipe = 1 then
    let rows := (List.range g.rowCount).map fun r => (r, mxRow g src es r)
    (rows.flatMap (fun x => [(g.base + x.1 * tilePitch g.colCount 1, x.2.1), (g.base + mxElemEnd g + x.1 * mxScalePitch g, x.2.2.1)]),
      rows.foldl (fun f x => orFlags f x.2.2.2) noFlags)
  else match fmtOfCode g.fmt with
    | some dst =>
      if isMx dst then ([(g.base, (List.range (g.rowCount * g.colCount)).map fun i => Config.freeNat (free + i) % 256)], noFlags)
      else
        let rows := (List.range g.rowCount).map fun r => (r, plainRow g src dst es r)
        (rows.map (fun x => (g.base + x.1 * tilePitch g.colCount (elemBytes dst), x.2.1)), rows.foldl (fun f x => orFlags f x.2.2) noFlags)
    | none => ([], noFlags)

/-- The part of a package's body that a load reads: a tensor's frames, or the whole of it for a program; nothing for a tensor the package has not. -/
def loadSpan (p : Package) (tensor : Option Nat) : Nat × Nat :=
  match tensor with
  | none => (0, p.bodyLen)
  | some i => match p.tensors[i]? with
    | some t => (t.off, t.len)
    | none => (0, 0)

/-- The chunks that a part of a body touches. -/
def spanChunks (x : Nat × Nat) : List Nat :=
  if x.2 = 0 then [] else (List.range ((x.1 + x.2 - 1) / sealChunk - x.1 / sealChunk + 1)).map fun i => x.1 / sealChunk + i

/-- A package's manifest and body as a load reads them (R209): with the bytes that read wrong, by offset in the package file. -/
def readMan (p : Package) (f : SealRead) : List Host.Cell := flashWrong p.man f.wrong
def readBody (p : Package) (f : SealRead) : List Host.Cell :=
  let s := bodyStart p.tensors.length p.chunks
  flashWrong p.body ((f.wrong.filter fun x => s ≤ x.1).map fun x => (x.1 - s, x.2))

/-- Do the frames give what is loaded: a tensor's elements, or an executable that keeps the limits of R131? -/
def framesOk (p : Package) (tensor : Option Nat) (frames : List Nat) : Bool :=
  match tensor with
  | none => (progOf frames).isSome
  | some i => match p.tensors[i]? with
    | some t => (tensorElems t frames).isSome
    | none => false

/-- Why a load of a tensor, or of a program, fails: reason and chunk (R209, R210). -/
def Blk.loadCheck (b : Blk) (id ver : Nat) (tensor : Option Nat) (f : SealRead) : Option (Nat × Nat) :=
  match b.store.pkgs.find? fun p => p.id = id && p.ver = ver with
  | none => some (1, 0)
  | some p => match b.keyFor p.key tensor.isNone with
    | none => some (2, 0)
    | some k =>
      let x := loadSpan p tensor
      if !manifestSigned (readMan p f) p k then some (3, 0)
      else match (spanChunks x).find? fun n => f.ldpc.contains n || !chunkFits p (readMan p f) (readBody p f) n with
        | some n => some (4, n)
        | none => if framesOk p tensor (flashBytes (readBody p f) x.1 x.2) then none else some (5, 0)

/-- What is loaded of a tensor: its source format and the elements taken (R209 step 3). -/
def Blk.loadElems (b : Blk) (g : RegionRec) (f : SealRead) : Nat × List Nat :=
  match b.store.pkgs.find? fun p => p.id = g.sealId && p.ver = g.sealVer with
  | none => (0, [])
  | some p => match p.tensors[g.sealTensor]? with
    | none => (0, [])
    | some t => (t.srcFmt, takenElems g t.cols ((tensorElems t (flashBytes (readBody p f) t.off t.len)).getD []))

/-- The detail of EV_SEC_SEAL_LOAD_FAIL: R210 names its parts; their places are the model's (log 14). -/
def loadFailDetail (ctx id ver tensor reason chunk : Nat) : Nat :=
  ctx + reason * 2 ^ 16 + tensor * 2 ^ 32 + chunk * 2 ^ 64 + ver * 2 ^ 96 + id * 2 ^ 128

/-- A load has failed: a context being created is not; a restore halts (R210, R329). -/
def State.loadFailed (s : State) (ctx id ver tensor : Nat) (why : Nat × Nat) : State :=
  let c := s.b.ctx ctx
  let d := loadFailDetail ctx id ver tensor why.1 why.2
  if c.st = .restoring then s.setB ((s.b.setCtx ctx { c with loads := [], hrv := { c.hrv with halt := 4 } }).raise 0xB103 ctx hubPan d)
  else
    let b := (s.b.freeGrans ctx).freshStreams ctx
    let b := b.setCtx ctx { c with st := .absent, loads := [], next := none }
    (s.setB (b.raise 0xB103 ctx hubPan d)).zeroCtx ctx

/-- SEAL_LOAD_REGION: the pipeline takes one region at a time, of the lowest context that has any to load (R209). -/
def State.sealLoad (s : State) (ctx : Nat) (f : SealRead) : State :=
  let c := s.b.ctx ctx
  match c.loads with
  | [] => s
  | i :: is =>
    if !(c.st = .creating || c.st = .restoring) || (s.b.ctxs.any fun e => e.1 < ctx && !e.2.loads.isEmpty && (e.2.st = .creating || e.2.st = .restoring)) then s
    else
      let src := if i = genLoad then c.rec_.genSeal else if i = learnLoad then c.rec_.learnSeal
        else (c.rec_.regions[i]?).map fun r => (r.sealId, r.sealVer)
      match src with
      | none => s.setB (s.b.setCtx ctx { c with loads := is })
      | some (id, ver) =>
        let tensor := ((c.rec_.regions[i]?).map (·.sealTensor)).getD 0
        match s.b.loadCheck id ver (if genLoad ≤ i then none else some tensor) f with
        | some why => s.loadFailed ctx id ver tensor why
        | none =>
          let b := s.b.setCtx ctx { c with loads := is }
          match c.rec_.regions[i]? with
          | none => s.setB b
          | some g =>
            let e := b.loadElems g f
            let x := sealLayout g e.1 s.b.freeCtr e.2
            let m := x.1.foldl (fun m y => memWriteBytes m (memKey ctx y.1) y.2) s.mem
            { s with mem := m, b := (b.setFlags ctx {} x.2).spend }

/-- SEAL_LOAD_REGION (R209). -/
def execSealLoadRegion (ctx : Nat) (found : SealRead) (s : State) : Host.Outcome State Fault Refusal := .next (s.sealLoad ctx found)

/-! ### Activation -/

/-- The detail of EV_CTX_CREATED (R250). -/
def Blk.createdDetail (b : Blk) (ctx : Nat) (restored : Bool) : Nat :=
  let mine := b.slu.map.filter fun e => e.1 / 2 ^ 43 = ctx
  let t1 := (mine.filter fun e => placeTier e.2.rest = 1).length
  t1 + (mine.length - t1) * 2 ^ 32 + (b.ctx ctx).rec_.regions.length * 2 ^ 64 + b2n restored * 2 ^ 80

/-- A window opens, at its counter's next generation (R260). -/
def Blk.openWin (b : Blk) (w : Nat) : Blk := (b.newGen w).modWin w fun x => { x with base := x.gen }

/-- A context becomes ACTIVE: its windows open, its fault record is let go (R235, R244, R260). -/
def Blk.activate (b : Blk) (ctx : Nat) (restored : Bool) : Blk :=
  let b := ((b.ctx ctx).rec_.pds.flatMap fun d => d.windows.map (·.winId)).foldl Blk.openWin b
  let b := b.modCtx ctx fun c => { c with st := .active, fault := {}, created := b.tide.num, hrv := { c.hrv with lastAt := b.tide.num, restoreStep := 0 } }
  b.raise 0x5001 ctx hubPan (b.createdDetail ctx restored)

/-- CTX_CREATED: every region placed and every load complete (R235). -/
def execCtxCreated (ctx : Nat) (s : State) : Host.Outcome State Fault Refusal :=
  let c := s.b.ctx ctx
  if c.st = .creating && c.loads.isEmpty then .next (s.setB (s.b.activate ctx false)) else .next s

/-! ### Teardown steps 4 to 8 (R247) -/

def tdCode (r : TdReason) : Nat := match r with | .fault => 0 | .removed => 1 | .replaced => 2

/-- Step 5: held records go at once without tokens, then EV_CTX_TEARDOWN, to the context's sink. -/
def Blk.flushEvents (b : Blk) (ctx : Nat) : Blk :=
  let held := (b.ctx ctx).ev.held
  let b := b.modCtx ctx fun c => { c with ev := { c.ev with held := [] } }
  let b := held.foldl (fun b r => b.release ctx r) b
  let r := b.record 0x5003 2 ctx hubPan (tdCode (b.ctx ctx).tdReason)
  if b.sec.sinkUp then b.release ctx r else b.bootHold r

/-- Step 4: the context's writes in flight land (R247). -/
def State.land (s : State) (ctx : Nat) : State :=
  let mine := s.b.pend.filter fun p => p.ctx = ctx
  { s with mem := mine.foldl (fun m p => (placedBytes p).foldl (fun m x => memWrite m (memKey p.ctx x.1) x.2.toNat) m) s.mem,
           b := { s.b with pend := s.b.pend.filter fun p => p.ctx ≠ ctx } }

/-- TEARDOWN_OPS_ENDED: steps 4 and 5, once every memory operation of the context has ended; its places are free. -/
def execTeardownOpsEnded (ctx : Nat) (s : State) : Host.Outcome State Fault Refusal :=
  let c := s.b.ctx ctx
  if c.st = .teardown && c.tdStep = 3 then
    let s := s.land ctx
    let b := s.b.modSlu fun x => { x with flight := x.flight.filter fun o => o.ctx ≠ ctx || o.lane ≠ 0 }
    .next (s.setB ((b.flushEvents ctx).modCtx ctx fun c => { c with tdStep := 5 }))
  else .next s

/-- Step 6: everything of the context is zeroed and freed: the zeroing rewrites the lines that had failed, and those that fail again when read back are to be repaired
(R148, R247). -/
def State.zeroise (s : State) (ctx : Nat) (bad : List (Nat × Nat)) : State :=
  let b := { s.b with mc := s.b.mc.mapV fun _ m => { m with
    bad := m.bad.filter fun e => m.badOf.find e.1 ≠ some ctx, badOf := m.badOf.filter fun e => e.2 ≠ ctx } }
  let b := bad.foldl (fun b x => if isMc x.1 then b.wantRepair x.1 false (Config.rowOf x.1 x.2) else b) b
  let b := b.freeGrans ctx
  let b := { b with
    rk := b.rk.mapV fun _ r => if runsFor r ctx then freshRk r else r
    colls := b.colls.filter fun c => c.ctx ≠ ctx
    heldShards := b.heldShards.filter fun h => h.pkt.h.ctx ≠ ctx }
  (s.setB (b.modCtx ctx fun c => { c with flags := {}, regions := [] })).zeroCtx ctx

/-- Step 7: domains, streams and tokens are freed; the packet numbers received are kept through the quarantine, which begins (R235, R247, R250, R262). -/
def Blk.returnAll (b : Blk) (ctx : Nat) : Blk :=
  let b := b.endStreams ctx
  let us := (b.now - (b.ctx ctx).tdStart) / 1000
  let b := b.modCtx ctx fun c => { c with st := .quarantine, tdStep := 7, tdUs := min us (2 ^ 32 - 1), quarEnd := b.now + 2 * b.mpl, ev := {}, queues := [] }
  (b.raise 0x5004 ctx hubPan ((b.ctx ctx).tdUs + (b.ctx ctx).lateDrop * 2 ^ 32)).drainAll

/-- TEARDOWN_ZEROISED: steps 6 and 7. -/
def execTeardownZeroised (ctx : Nat) (bad : List (Nat × Nat)) (s : State) : Host.Outcome State Fault Refusal :=
  let c := s.b.ctx ctx
  if c.st = .teardown && c.tdStep = 5 then .next ((s.zeroise ctx bad).setB ((s.zeroise ctx bad).b.returnAll ctx)) else .next s

/-! ### The start of a restore (R329 steps 1 to 3) -/

/-- Does the module restore nothing: its hub die is failed, or its tide is lost (R328)? -/
def Blk.restoresNothing (b : Blk) : Bool := b.rst.hubFault || b.tide.st = .lost

/-- RESTORING begins: regions, sealed loads, the newest step that the destinations' indexes hold, and the RESTORE records to the other members. -/
def State.restoreBegin (s : State) (ctx : Nat) (index : Option Nat) : State :=
  let c := s.b.ctx ctx
  let r := (c.next).getD (takeOff (takeSched c)).rec_
  if s.b.restoresNothing then
    let b := s.b.setCtx ctx { (freshCtx c r .restoring) with hrv := { restoreStep := 1 } }
    s.setB b
  else
    let s := s.allocate ctx r .restoring
    let c := s.b.ctx ctx
    if c.st ≠ .restoring || c.hrv.restoreStep = 2 then s
    else match r.sched with
      | none => s.setB (s.b.setCtx ctx { c with hrv := { restoreStep := 4, m := some index } })
      | some k => match s.b.groupOf k.phaseGroup with
        | none => s.setB (s.b.setCtx ctx { c with hrv := { restoreStep := 3, m := some index } })
        | some g =>
          let me := s.b.rankIn g
          let b := s.b.setCtx ctx { c with hrv := { restoreStep := 3, m := some index, ms := [(me, index)] } }
          s.setB (b.sendCtlAll ctx k.phaseGroup seqRestore 0 false { kind := 6, rank := me, value := index.getD noneStep })

/-- QUARANTINE_END: 2 × MPL have passed (R235, R249); a context that waits at the first step of R329 begins it once the module restores again (R328). `index` is the newest step of which the destinations hold a copy of every item (R329). -/
def State.quarantineEnd (s : State) (ctx : Nat) (index : Option Nat) : State :=
  let c := s.b.ctx ctx
  if c.st = .restoring && c.hrv.restoreStep = 1 && !s.b.restoresNothing then s.restoreBegin ctx index
  else if c.st ≠ .quarantine || decide (s.b.now < c.quarEnd) then s
  else match c.tdReason with
    | .fault => (s.setB (s.b.setCtx ctx { c with tdStep := 8 })).restoreBegin ctx index
    | _ =>
      let b := s.b.setCtx ctx { c with st := .absent, tdStep := 8, next := none }
      let s := s.setB (b.raise 0x5005 ctx hubPan c.lateAll)
      match c.next with
      | some r => s.allocate ctx r .creating
      | none => s

/-- QUARANTINE_END (R235). -/
def execQuarantineEnd (ctx : Nat) (index : Option Nat) (s : State) : Host.Outcome State Fault Refusal := .next (s.quarantineEnd ctx index)

end Sys2Proof.Machine
end

