-- ==== Sys2Proof/Machine/Restore.lean ====
section
/-! DEFINITION. Restores from the choice of copies to the resume (R327 to R332). -/
namespace Sys2Proof.Machine
open Sys2Proof

/-! ### Copies (R327) -/

/-- The TENSOR_ID that stands for the scalar record. -/
def scalarId : Nat := 0xFFFF

/-- The hash of a copy: of its bytes where they were fetched whole, else as its holder gave it. -/
def copySha (c : Copy) : Nat := if c.bytes.isEmpty then c.sha else shaNat c.bytes

/-- A copy is intact when its hash is the digest it carries and no uncorrectable error was met. -/
def copyIntact (c : Copy) : Bool := copySha c = c.carried && !c.ue

/-- The position of a holder; the host has none and reads 0xFF. -/
def Blk.holderPos (b : Blk) (holder : Nat) : Nat := if holder = 0 then b.cfg.hrv.buddy0 else if holder = 1 then b.cfg.hrv.buddy1 else 0xFF

/-- Why a choice halts the restore. -/
inductive HrvHalt where
  | diverge | lost
  deriving DecidableEq, Repr

/-- Copies of one item with a digest. -/
def withDigest (l : List Copy) (d : Nat) : List Copy := l.filter fun c => c.carried = d

/-- The digest that R327 chooses among intact copies. -/
def chooseDigest (l : List Copy) : Except HrvHalt Nat :=
  match l with
  | [] => .error .lost
  | c :: rest =>
    if rest.all fun x => x.carried = c.carried then .ok c.carried
    else if l.length ≤ 2 then .error .diverge
    else match l.find? fun x => decide (l.length < 2 * (withDigest l x.carried).length) with
      | some x => .ok x.carried
      | none => .error .diverge

/-- A damaged or minority copy is reported and counted. -/
def Blk.copyBad (b : Blk) (ctx tensor holder : Nat) : Blk :=
  (b.modCtx ctx fun c => { c with hrv := { c.hrv with copyBad := satInc 8 c.hrv.copyBad } }).raise 0x9003 ctx hubPan (tensor + b.holderPos holder * 2 ^ 16)

/-- A restore halts (R332, R340). -/
def Blk.hrvHalt (b : Blk) (ctx code : Nat) : Blk := b.modCtx ctx fun c => { c with hrv := { c.hrv with halt := code } }

/-- Choose one item's copy: reports, and the digest, or a halt. -/
def Blk.chooseItem (b : Blk) (ctx step tensor : Nat) (all : List Copy) : Blk × Option Nat :=
  let l := all.filter fun c => c.tensor = tensor
  let b := (l.filter fun c => !copyIntact c).foldl (fun b c => b.copyBad ctx tensor c.holder) b
  let good := l.filter copyIntact
  match chooseDigest good with
  | .ok d => ((good.filter fun c => c.carried ≠ d).foldl (fun b c => b.copyBad ctx tensor c.holder) b, some d)
  | .error .diverge => ((b.raise 0x9002 ctx hubPan (tensor + step % 2 ^ 48 * 2 ^ 16)).hrvHalt ctx 1, none)
  | .error .lost => ((b.raise 0x9004 ctx hubPan tensor).hrvHalt ctx 3, none)

/-- Choose a copy of every item, in order, until one halts. -/
def Blk.chooseAll (b : Blk) (ctx step : Nat) (all : List Copy) : List Nat → Blk × Option (List (Nat × Nat))
  | [] => (b, some [])
  | t :: ts =>
    match b.chooseItem ctx step t all with
    | (b, none) => (b, none)
    | (b, some d) => match Blk.chooseAll b ctx step all ts with
      | (b, some l) => (b, some ((t, d) :: l))
      | (b, none) => (b, none)

/-! ### The scalar record (R319, R330) -/

/-- The first stream counter that is a draw ahead of the restored position. -/
def counterAhead (r : ScalarRec) (step : Nat) : Option Nat :=
  (r.counters.find? fun e => decide (step < e.2.1 ∨ (e.2.1 = step ∧ r.pos < e.2.2))).map (·.1)

/-- The check of R330 that a record fails first, as EV_HRV_SKEW's detail. -/
def Blk.scalarSkew (b : Blk) (ctx step : Nat) (r : ScalarRec) : Option Nat :=
  if r.step ≠ step then some 1
  else if r.seedSha ≠ seedDigest (b.ctx ctx) then some 2
  else match counterAhead r step with
    | some n => some (3 + n % 256 * 2 ^ 8)
    | none => if r.groupSha ≠ b.groupDigest then some 4 else none

/-! ### Fetch and install (R329 steps 4 to 6, R331) -/

/-- S: the lowest M over all members, NONE lowest; none while a member's RESTORE record has not come. -/
def Blk.restoreStepS (b : Blk) (ctx : Nat) : Option (Option Nat) :=
  let c := b.ctx ctx
  match c.rec_.sched with
  | none => c.hrv.m
  | some k => match b.groupOf k.phaseGroup with
    | none => c.hrv.m
    | some g =>
      if !(List.range g.members.length).all c.hrv.ms.has then none
      else some (c.hrv.ms.vals.foldl (fun r m => match r, m with
        | some x, some y => some (min x y)
        | _, _ => none) (c.hrv.ms.vals.headD none))

/-- The pair after a restore (R331): the CURRENT buffer holds VERSION, the other is PREVIOUS, zero and drained. -/
def restoredPair (c : Ctx) (r : ScalarRec) : Ctx :=
  let cur : Buf := { st := .current, drained := true, ver := r.version }
  let old : Buf := { st := .previous, drained := true }
  if r.curBuf = 0 then { c with buf0 := cur, buf1 := old } else { c with buf0 := old, buf1 := cur }

/-- Window counters take the higher of the saved and the module's own (R331). -/
def Blk.restoreGens (b : Blk) (l : Tbl Nat) : Blk := l.foldl (fun b e => b.modWin e.1 fun w => { w with gen := max w.gen e.2 }) b

/-- Install the state of a capture: regions, counters, epoch, recipe state, pair, schedule (R331). -/
def State.install (s : State) (ctx step : Nat) (r : ScalarRec) (all : List Copy) (chosen : List (Nat × Nat)) : State :=
  let c := s.b.ctx ctx
  let c := { c with
    step := step, pos := r.pos, epoch := r.epoch, draws := r.counters,
    regions := r.recipes.map (fun e => (e.1, ({ recipe := e.2.1, zrun := e.2.2 } : RegionSt))),
    rec_ := { c.rec_ with sched := if c.rec_.sched.isSome then r.sched <|> c.rec_.sched else none },
    hrv := { c.hrv with safeStep := step } }
  let b := (s.b.setCtx ctx (restoredPair c r)).restoreGens r.winGens
  chosen.foldl (fun s e =>
    match tensorRegion c e.1, all.find? fun k => k.tensor = e.1 && copyIntact k && k.carried = e.2 && !k.bytes.isEmpty with
    | some g, some k => s.store ctx g.base (k.bytes.take (regionBytes g))
    | _, _ => s) (s.setB b)

/-- READY: the state is installed; the record goes to the other members (R329 step 6). -/
def Blk.restoreReady (b : Blk) (ctx : Nat) (fresh : Bool) : Blk :=
  let c := b.ctx ctx
  let g := (c.rec_.sched).bind fun k => b.groupOf k.phaseGroup
  let me := (g.map b.rankIn).getD 0
  let b := b.setCtx ctx { c with hrv := { c.hrv with installed := true, fresh := fresh, restoreStep := 7, ready := c.hrv.ready.set me b.tide.num, written := [], prev := [], copies := [] } }
  match c.rec_.sched with
  | some k => b.sendCtlAll ctx k.phaseGroup seqRestore 0 false { kind := 7, rank := me, tide := b.tide.num }
  | none => b

/-- The scalar record that a digest names, read from a copy fetched whole (R319, R329). -/
def scalarWith (c : Ctx) (copies : List Copy) (d : Nat) : Option ScalarRec :=
  (copies.find? fun k => k.tensor = scalarId && copyIntact k && k.carried = d && !k.bytes.isEmpty).map fun k => scalarAt c k.bytes

/-- RESTORE_FETCH_DONE: the copies of step S have been fetched or hashed; the scalar record's is chosen, and those of the regions that it says were saved; the record is
checked, the state is installed (R327, R329 to R331). -/
def State.restoreFetch (s : State) (ctx : Nat) (copies : List Copy) : State :=
  let c := s.b.ctx ctx
  if c.st ≠ .restoring || c.hrv.halt ≠ 0 || c.hrv.installed || !c.loads.isEmpty || c.hrv.restoreStep < 3 then s
  else match s.b.restoreStepS ctx with
    | none => s
    | some none => s.setB (s.b.restoreReady ctx true)
    | some (some step) =>
      let b := s.b.modCtx ctx fun c => { c with hrv := { c.hrv with restoreStep := 4 } }
      match b.chooseItem ctx step scalarId copies with
      | (b, none) => s.setB b
      | (b, some d) => match scalarWith c copies d with
        | none => s
        | some scalar => match b.chooseAll ctx step copies ((savedRegions c scalar.curBuf).map (·.tensorId)) with
          | (b, none) => s.setB b
          | (b, some chosen) =>
            match b.scalarSkew ctx step scalar with
            | some d => s.setB ((b.modCtx ctx fun c => { c with hrv := { c.hrv with halt := 2, restoreStep := 5 } }).raise 0x9001 ctx hubPan d)
            | none =>
              let s := (s.setB b).install ctx step scalar copies chosen
              s.setB (s.b.restoreReady ctx false)

/-- RESTORE_FETCH_DONE (R329). -/
def execRestoreFetchDone (ctx : Nat) (copies : List Copy) (s : State) : Host.Outcome State Fault Refusal :=
  .next (s.restoreFetch ctx copies)

/-! ### Resume (R329 step 7, R331) -/

/-- The instant of the resume, once every member is ready: B + 2, or the tide after step 6 for a context without a PHASE_GROUP. -/
def Blk.resumeTide (b : Blk) (ctx : Nat) : Option Nat :=
  let c := b.ctx ctx
  match c.rec_.sched with
  | none => some (topTide c.hrv.ready + 1)
  | some k => if (match b.groupOf k.phaseGroup with | some g => (List.range g.members.length).all c.hrv.ready.has | none => false) then some (topTide c.hrv.ready + 2) else none

/-- RESTORE_RESUME: the context becomes ACTIVE and its phase begins: GENERATE after a restore, LEARN without a schedule or from NONE. -/
def State.restoreResume (s : State) (ctx : Nat) : State :=
  let c := s.b.ctx ctx
  match s.b.resumeTide ctx with
  | none => s
  | some t =>
    if c.st ≠ .restoring || !c.hrv.installed || !s.b.due t 0 then s
    else
      let b := s.b.activate ctx true
      let b := b.modCtx ctx fun c => { c with hrv := { c.hrv with installed := false, fresh := false, m := none, ms := [], ready := [] } }
      let s := s.setB b
      if c.rec_.sched.isSome && !c.hrv.fresh then s.generateStart ctx false else s.learnStart ctx false

/-- RESTORE_RESUME (R329). -/
def execRestoreResume (ctx : Nat) (s : State) : Host.Outcome State Fault Refusal := .next (s.restoreResume ctx)

end Sys2Proof.Machine
end

