-- ==== Sys2Proof/Machine/Resets.lean ====
section
/-! DEFINITION. Resets of units, ports, dies and the module, their escalation, and the hub cores (18). -/
namespace Sys2Proof.Machine
open Sys2Proof

/-! ### The module reset (R341, R348) -/

/-- What is left of the module once every die is in reset and the tier keys are destroyed (R153, R341): the fuses and device constants, the seal store, the
configuration flash with its state area, the supplies. -/
def Blk.cleared (b : Blk) : Blk :=
  { out := b.out, freeCtr := b.freeCtr, now := b.now, pwr := b.pwr, repairs := b.repairs
    rst := { lastCause := b.rst.lastCause, moduleResets := b.rst.moduleResets, retired := b.rst.retired,
             replaced := b.rst.replaced, spareMe := b.rst.spareMe, spareRk := b.rst.spareRk, spareCe := b.rst.spareCe }
    sec := { rootHash := b.sec.rootHash, ownerHash := b.sec.ownerHash, romSha := b.sec.romSha, identKey := b.sec.identKey, imageKey := b.sec.imageKey, serial := b.sec.serial,
             minSvn := b.sec.minSvn, slot0 := { b.sec.slot0 with writing := false }, slot1 := { b.sec.slot1 with writing := false }, select := b.sec.select, unlock := b.sec.unlockNext,
             glitchVolt := b.sec.glitchVolt, glitchClk := b.sec.glitchClk, glitchPend := b.sec.glitchPend }
    store := { dir0 := b.store.dir0, dir1 := b.store.dir1 }
    mon := { trips := b.mon.trips, lastSite := b.mon.lastSite, lastC := b.mon.lastC, factory := b.mon.factory } }

/-- Every die in reset; memory is lost with its keys. -/
def State.clearAll (s : State) : State := { s with b := s.b.cleared, mem := [] }

/-- The causes of a module reset (R361). -/
def causePower : Nat := 0
def causeRstN : Nat := 1
def causeEscalated : Nat := 2
def causeHubSilent : Nat := 3
def causeService : Nat := 4
def causeThermal : Nat := 5
def causeGlitch : Nat := 6
def causeUnlock : Nat := 7
def causeHubDie : Nat := 8

/-- A module reset: the cause goes to the state area, and the boot ROM is to start (R348). -/
def State.moduleReset (s : State) (cause : Nat) : State :=
  let s := s.clearAll
  s.setB { s.b with
    rst := { s.b.rst with lastCause := cause, moduleResets := satInc 32 s.b.rst.moduleResets }
    pwr := { s.b.pwr with pgAt := s.b.now } }

/-- Is main power on? -/
def Blk.powered (b : Blk) : Bool := b.pwr.rails

/-- MODULE_RESET: a hub-die function or the hub die's controller has failed its liveness check, lost its clock or met an internal error (R344, R348).
The other causes are the effects of rows of their own. -/
def execModuleReset (cause : Nat) (s : State) : Host.Outcome State Fault Refusal :=
  if cause = causeHubDie && s.b.powered && s.b.pwr.rstN then .next (s.moduleReset cause) else .next s

/-- RST_N_ASSERT: the module is held in reset (R349). -/
def execRstNAssert (s : State) : Host.Outcome State Fault Refusal :=
  if !s.b.pwr.rstN then .next s
  else
    let s := if s.b.powered then s.moduleReset causeRstN else s
    .next (s.setB { s.b with pwr := { s.b.pwr with rstN := false } })

/-- RST_N_RELEASE: boot starts (R349). -/
def execRstNRelease (s : State) : Host.Outcome State Fault Refusal :=
  if s.b.pwr.rstN then .next s else .next (s.setB { s.b with pwr := { s.b.pwr with rstN := true, pgAt := s.b.now } })

/-! ### Engine resets (R341, R344, R345) -/

/-- Cause of the contexts that a unit or die reset faults (R245, R341). -/
def resetCause (reason : RstReason) (die : Bool) : Nat := if reason = .clkstop then cClkStop else if die then cDieReset else cUnitReset

/-- The number of an engine among its kind in the module: ME 0 to 31, VE 0 to 15, raker core 0 to 63. -/
def unitNo (p : Pan) : Nat := panDie p * unitCount (panDie p) (panKind p) + panIdx p

/-- Is a leaf an ME, a VE or a raker core? -/
def isEngine (p : Pan) : Bool := panShape p = some .leaf && decide (panKind p ≤ kRK) && decide (panDie p < 4)

/-- The contexts with work on an engine, each with the sequence number of its command or launch there (R341); on an ME also those with a group there (R87). -/
def Blk.workOf (b : Blk) (p : Pan) : List (Nat × Nat) :=
  let n := unitNo p
  if panKind p = kME then
    ((b.meOf n).q.map fun c => (c.ctx, c.seq)) ++ (b.meOf n).ag.vals.filterMap fun g => g.owner.map fun o => (o.1, noSeq)
  else if panKind p = kVE then
    let v := b.veOf n
    ((v.run.toList ++ v.next.toList) ++ v.q).map fun x => (x.ctx, x.seq)
  else match (b.rkOf n).prog with
    | some g => [(g.ctx, noSeq)]
    | none => []

/-- One entry per context: its lowest sequence number. -/
def perCtx (l : List (Nat × Nat)) : Tbl Nat :=
  l.foldl (fun t x => match Tbl.find t x.1 with
    | some q => if x.2 < q then t.set x.1 x.2 else t
    | none => t.set x.1 x.2) []

/-- Fault the contexts of a reset. -/
def Blk.faultAll (b : Blk) (l : Tbl Nat) (cause : Nat) (p : Pan) : Blk := l.foldl (fun b x => b.ctxFault x.1 cause p x.2 false 0 0) b

/-- An engine's state is discarded (R345 step 3). -/
def Blk.clearUnit (b : Blk) (p : Pan) : Blk :=
  let n := unitNo p
  let b := b.resetXing p
  let b := { b with pend := b.pend.filter fun x => match x.who with
    | .rk c => panKind p ≠ kRK || c ≠ n
    | .ve v => panKind p ≠ kVE || v ≠ n
    | .close m _ => panKind p ≠ kME || m ≠ n }
  if panKind p = kME then { b with me := b.me.erase n }
  else if panKind p = kVE then { b with ve := b.ve.erase n }
  else { b with rk := b.rk.erase n }

/-- A pan's registers return to their reset values (R343); its heartbeat is no register of its own and runs on. -/
def Blk.clearPan (b : Blk) (p : Pan) : Blk := b.modPan p fun x => { x with cause := 0, hbLate := false }

/-- Does a reset that faults these contexts make a fault record: is one of them up to a first fault (R246)? -/
def Blk.makesFault (b : Blk) (l : Tbl Nat) : Bool := l.any fun x => match (b.ctx x.1).st with
  | .creating => true
  | .active => true
  | .restoring => true
  | _ => false

/-- Note a reset that begins. -/
def Blk.beginReset (b : Blk) (p : Pan) (reason : RstReason) (code : Nat) : Blk :=
  let b := b.modRst fun r => { r with
    running := (r.running.filter fun x => !panWithin p x.pan) ++ [{ pan := p, reason := reason, at_ := b.now }],
    notLive := r.notLive.filter fun x => !panWithin p x, stopped := r.stopped.filter fun x => !panWithin p x }
  b.raise code moduleCtx hubPan (b.full p + reason.code * 2 ^ 32)

/-- A unit reset runs: fence, fault, clear (R345); what it raises goes with the fault records (R242). -/
def Blk.resetUnit (b : Blk) (p : Pan) (reason : RstReason) : Blk :=
  let work := perCtx (b.workOf p)
  let b := b.withSev (if b.makesFault work then 3 else 0) fun b =>
    let b := (b.beginReset p reason 0xA002).modRst fun r => { r with unitCnt := satInc 16 r.unitCnt }
    let b := (b.clearPan p).setSt p .reset
    b.faultAll work (resetCause reason false) p
  b.clearUnit p

/-- A unit reset begins; while one of a pan that contains it runs, it is folded into that (R25). -/
def Blk.startUnit (b : Blk) (p : Pan) (reason : RstReason) : Blk := if b.inReset p then b else b.resetUnit p reason

/-! ### Die resets (R341, R342, R347) -/

/-- The contexts whose memory operations in flight go to a controller of a die (R178, R341). -/
def Blk.opsOn (b : Blk) (die : Nat) : List (Nat × Nat) := (b.slu.flight.filter fun o => o.lane = 0 && panDie o.mc = die).map fun o => (o.ctx, noSeq)

/-- Does a context have work on a compute die: on an engine, a memory operation, or a working copy in its SRAM? -/
def Blk.workOnDie (b : Blk) (die : Nat) : Tbl Nat :=
  let units := (dieLeaves die).filter isEngine
  perCtx (units.flatMap b.workOf ++ b.opsOn die ++ ((b.slu.map.filter fun e => e.2.work = some die).map fun e => (e.1 / 2 ^ 43, noSeq)))

/-- The contexts with a stream homed on a link die or a collective on its engines. -/
def Blk.workOnLink (b : Blk) (die : Nat) : Tbl Nat :=
  perCtx ((b.ctxs.filter fun e => ctxLives e.2.st && e.2.rec_.pds.any fun d => d.streams.any fun x => homeDie x.stream = die).map (fun e => (e.1, noSeq)) ++
    ((b.colls.filter fun c => collOpen c && c.engine.any fun e => dLD0 + e / 4 = die).map fun c => (c.ctx, noSeq)))

/-- The memory die of a place. -/
def placeDie (p : Place) : Nat := match p with | .sram d => d | .t1 s => 8 + s | .t2 _ => dFD

/-- Does a byte in flight go to a die: to the working copy there, or to the resting place where there is none? -/
def Blk.byteOn (b : Blk) (ctx die a : Nat) : Bool :=
  match b.gran ctx (a / granBytes) with
  | some g => (match g.work with | some d => d = die | none => placeDie g.rest = die)
  | none => false

/-- What is in flight on a die is discarded: memory operations and the bytes of writes (R341, R342, R347). -/
def Blk.dropFlight (b : Blk) (die : Nat) : Blk :=
  { b with
    slu := { b.slu with flight := b.slu.flight.filter fun o => panDie o.mc ≠ die }
    pend := b.pend.map fun p => { p with bytes := p.bytes.filter fun x => !b.byteOn p.ctx die x.1 } }

/-- The contexts with an operation in flight on a memory die: a memory operation, a move, staging copy or prefetch that reads or writes it, or a write not yet placed. -/
def Blk.workOnMem (b : Blk) (die : Nat) : Tbl Nat :=
  perCtx (b.opsOn die ++ (b.slu.migs.filter fun m => match b.gran m.ctx m.gran with
      | some g => placeDie g.rest = die || placeDie (migDst m.kind g.rest) = die
      | none => false).map (fun m => (m.ctx, noSeq)) ++
    ((b.pend.filter fun p => p.bytes.any fun x => b.byteOn p.ctx die x.1).map fun p => (p.ctx, noSeq)))

/-- A controller after its die's reset: rate, key and repairs stand, and so do the errors in a memory whose contents are kept (R342, R343). -/
def Blk.clearMc (b : Blk) (p : Pan) : Blk :=
  let m := b.mcOf p
  let mine := b.repairs.filter fun r => r.mc = p
  let n : Mc := { rate := m.rate, keyReady := m.keyReady, period := m.period, bad := if mcKind p ≤ 1 then [] else m.bad, badOf := if mcKind p ≤ 1 then [] else m.badOf
                  lanesUsed := min (Config.spareLanes (mcKind p)) (mine.filter (·.lane)).length
                  rowsUsed := min (Config.spareRows (mcKind p)) (mine.filter fun r => !r.lane).length
                  calibAt := m.calibAt, passAt := b.now }
  { b with mc := b.mc.set p n }

/-- The copies in a compute die's SRAM are gone, with what was being put there; GEN rises (R169, R179). -/
def Blk.clearSram (b : Blk) (die : Nat) : Blk :=
  b.modSlu fun s => { s with
    map := s.map.mapV fun _ g =>
      if holdsCopy g die then bumpGen { g with work := if g.work = some die then none else g.work, staged := g.staged.filter (· ≠ die) } else g
    migs := s.migs.filter fun m => (match m.kind with
      | .stage d _ => d ≠ die
      | .work d => d ≠ die
      | .writeBack d => d ≠ die
      | _ => true)
    old := s.old.filter fun o => o.place ≠ .sram die }

/-- The granules that a capture sends to a destination. -/
def Blk.drainGrans (b : Blk) (ctx dest : Nat) (k : Capture) : List Nat :=
  let c := b.ctx ctx
  let of_ := fun (l : List Nat) => l.flatMap fun t => match tensorRegion c t with | some r => regionGrans r | none => []
  let h := of_ k.harvest
  let l := of_ k.log
  if dest = 0 then h ++ l else if dest = 1 then l else if b.cfg.hrv.hostLog then h ++ l else h

/-- The drains in progress to some destinations are sent again from the start: no FLUSH of theirs has reported DONE (R342, R358). -/
def Blk.redrain (b : Blk) (dest : Nat → Bool) : Blk :=
  b.ctxs.foldl (fun b e => match e.2.hrv.cap with
    | some k => (k.drains.filter fun d => !d.done && dest d.dest).foldl (fun b d =>
        let b := b.modCtx e.1 fun c => { c with hrv := { c.hrv with cap := c.hrv.cap.map fun k => { k with drains := k.drains.filter fun x => x.dest ≠ d.dest } } }
        b.startDrain e.1 d.dest (b.drainGrans e.1 d.dest k) k.scalar) b
    | none => b) b

/-- A link die loses its engines, its link SRAM and the state of the streams homed there; its ports come up anew (R341). -/
def Blk.clearLink (b : Blk) (die : Nat) : Blk :=
  let b := { b with
    strm := b.strm.filter fun e => homeDie e.1 ≠ die
    recs := b.recs.filter fun r => homeDie r.stream ≠ die
    held := b.held.filter fun h => h.die ≠ die
    heldShards := b.heldShards.filter fun h => h.die ≠ die
    ces := b.ces.filter fun e => dLD0 + e.1 / 4 ≠ die }
  let b := (List.range 7).foldl (fun b i => if portDie i = die then b.modPort i fun x => { cfg := x.cfg } else b) b
  (b.redrain fun d => homeDie (b.destStream d) = die).sealStreams fun n => homeDie n = die

/-- Leaves of a die that are in service or may return to it. -/
def Blk.liveLeaves (b : Blk) (die : Nat) : List Pan := (dieLeaves die).filter fun p => (b.panSt p).st ≠ .off && (b.panSt p).st ≠ .retired

/-- A die reset begins: fence, fault, clear (R347 steps 1 to 3). -/
def Blk.startDie (b : Blk) (die : Nat) (reason : RstReason) : Blk :=
  let p := diePan die
  if b.inReset p then b
  else
    let ls := b.liveLeaves die
    let up := (List.range 7).filter fun i => portDie i = die && decide ((b.portOf i).st = .up)
    let work := if die < 4 then b.workOnDie die else if die = dLD0 || die = dLD1 then b.workOnLink die else b.workOnMem die
    let b := b.withSev (if b.makesFault work then 3 else 0) fun b =>
      let b := (b.beginReset p reason 0xA003).modRst fun r => { r with dieCnt := satInc 16 r.dieCnt }
      let b := (p :: b.membersOf p ++ dieLeaves die).foldl Blk.clearPan b
      let b := (b.setSts ls .reset).setSt p .reset
      b.faultAll work (resetCause reason true) p
    let b := ((dieLeaves die).filter isEngine).foldl Blk.clearUnit b
    let b := ((dieLeaves die).filter isMc).foldl Blk.clearMc b
    let b := ((dieLeaves die).filter fun q => !isEngine q).foldl Blk.resetXing b
    let b := b.dropFlight die
    let b := if die < 4 then b.clearSram die else if die = dLD0 || die = dLD1 then b.clearLink die
      else (b.abandon fun m => work.has m.ctx).redrain fun _ => true
    up.foldl (fun b i => (b.raise 0x6002 moduleCtx (portPan i) 0).pathsChanged i) b

/-- The die that holds a controller or collective engine, or that a die pan names; the hub die has no die reset (R341). -/
def resetDie (p : Pan) : Option Nat :=
  if panDie p = dHD then none
  else match panShape p with
    | some .die => some (panDie p)
    | some .leaf => if panKind p = kMC || panKind p = kCE then some (panDie p) else none
    | _ => none

/-- Factory spares of a unit's kind on its die (R22). -/
def spareCount (p : Pan) : Nat :=
  if panKind p = kME then 1 else if panKind p = kRK then 2 else if panKind p = kCE then 1 else 0

/-- Spares of a kind used on a die. -/
def Blk.sparesUsed (b : Blk) (p : Pan) : Nat :=
  if panKind p = kME then b.rst.spareMe.get 0 (panDie p) else if panKind p = kRK then b.rst.spareRk.get 0 (panDie p)
  else if panKind p = kCE then b.rst.spareCe.get 0 (panDie p) else 0

/-- Put a spare in a failed unit's place: it takes the index, and the old unit, which has no pan address any more, is RETIRED (R22). Without one the unit stays FAULT
(R347 step 4). -/
def Blk.substitute (b : Blk) (p : Pan) : Blk :=
  let n := b.sparesUsed p
  if spareCount p ≤ n then b.setSt p .fault
  else
    let d := panDie p
    (b.modRst fun r => { r with
      failed := r.failed.filter (· ≠ p)
      replaced := r.replaced ++ [(p, { (b.panSt p) with st := .retired })]
      spareMe := if panKind p = kME then r.spareMe.set d (n + 1) else r.spareMe
      spareRk := if panKind p = kRK then r.spareRk.set d (n + 1) else r.spareRk
      spareCe := if panKind p = kCE then r.spareCe.set d (n + 1) else r.spareCe }).setSt p .ready

/-- A die reset ends: spares for failed units, the rest READY, the ports retrain (R347 steps 4 to 6). `failed` lists the leaves that the reset has found failed
beside those marked by an escalation (R346). -/
def Blk.endDie (b : Blk) (die : Nat) (failed : List Nat) : Blk :=
  let p := diePan die
  let b := b.dropRun p
  let b := b.modPan p fun x => { x with st := .ready }
  let bad := (b.rst.failed ++ failed).filter fun x => panDie x = die
  let b := (dieLeaves die).foldl (fun b q =>
    if (b.panSt q).st ≠ .reset then b
    else if bad.contains q then (if panKind q = kLP then b.portFault (portOfPan q) 1 false else b.substitute q)
    else if panKind q = kLP then b
    else b.setSt q .ready) b
  (List.range 7).foldl (fun b i =>
    if portDie i = die && (b.portOf i).cfg.enable && (b.panSt (portPan i)).st = .reset then
      b.modPort i fun x => { x with st := .an, retrainAt := some b.now, retrainCnt := satInc 16 x.retrainCnt }
    else b) b

/-! ### The rows -/

/-- May a reset of a leaf start for this reason: its clock has stopped, its heartbeat has not advanced, or the unit reports an internal error? Service resets
start when they fall due, and escalation follows an overrun. -/
def Blk.mayReset (b : Blk) (p : Pan) (reason : RstReason) : Bool :=
  b.running && (match reason with
    | .liveness => b.rst.notLive.any (panWithin p)
    | .clkstop => b.rst.stopped.any (panWithin p)
    | .internal => true
    | .service => false
    | .escalated => false)

/-- UNIT_RESET (R344, R345). -/
def execUnitReset (pan : Nat) (reason : RstReason) (s : State) : Host.Outcome State Fault Refusal :=
  if isEngine pan && s.b.mayReset pan reason then .next (s.setB (s.b.startUnit pan reason)) else .next s

/-- UNIT_RESET_DONE: within 10 µs the unit is READY (R345, R346). -/
def execUnitResetDone (pan : Nat) (s : State) : Host.Outcome State Fault Refusal :=
  match s.b.rst.running.find? fun r => r.pan = pan && isEngine pan with
  | some r =>
    if s.b.past r.at_ 10000 then .next s
    else .next (s.setB ((s.b.dropRun pan).setSt pan .ready))
  | none => .next s

/-- A reset has overrun its bound (R346). -/
def Blk.escalate (b : Blk) (p : Pan) : Blk :=
  let b := (b.modRst fun r => { r with escalated := satInc 16 r.escalated, lastPan := b.full p }).dropRun p
  b.raise 0xA004 moduleCtx hubPan (b.full p)

/-- UNIT_RESET_TIMEOUT: not READY 10 µs after its reset began, the unit is marked failed and its die is reset (R346). -/
def execUnitResetTimeout (pan : Nat) (s : State) : Host.Outcome State Fault Refusal :=
  match s.b.rst.running.find? fun r => r.pan = pan && isEngine pan with
  | some r =>
    if !s.b.past r.at_ 10000 then .next s
    else
      let b := (s.b.escalate pan).modRst fun x => { x with failed := x.failed ++ [pan] }
      .next (s.setB (b.startDie (panDie pan) .escalated))
  | none => .next s

/-- A port's datapath is cleared, with what was in flight at its crossing; LNK counters stay (R41, R341, R343, R346). -/
def Blk.clearPort (b : Blk) (port : Nat) (reason : RstReason) : Blk :=
  let p := portPan port
  let b := (b.beginReset p reason 0xA002).modRst fun r => { r with portCnt := satInc 16 r.portCnt }
  ((b.clearPan p).modPort port fun x => { x with ctl := [], saks := 0, pn := 0 }).resetXing p

/-- A port reset: the datapath is cleared and the port retrains (R346). -/
def Blk.startPort (b : Blk) (port : Nat) (reason : RstReason) : Blk :=
  if b.inReset (portPan port) || !(b.portOf port).cfg.enable then b else (b.clearPort port reason).retrain port false

/-- The reset of a kind group of ports: every datapath is cleared, and the ports retrain one at a time, in port order (R341). -/
def Blk.startPorts (b : Blk) (ports : List Nat) (reason : RstReason) : Blk :=
  (ports.foldl (fun b i => if (b.portOf i).cfg.enable then (b.clearPort i reason).awaitRetrain i else b) b).nextRetrain

/-- PORT_RESET (R346). -/
def execPortReset (port : Nat) (reason : RstReason) (s : State) : Host.Outcome State Fault Refusal :=
  if decide (port < 7) && s.b.mayReset (portPan port) reason then .next (s.setB (s.b.startPort port reason)) else .next s

/-- PORT_RESET_TIMEOUT: the datapath clear has overrun 10 µs, and the link die is reset (R346). -/
def execPortResetTimeout (port : Nat) (s : State) : Host.Outcome State Fault Refusal :=
  match s.b.rst.running.find? fun r => r.pan = portPan port with
  | some r =>
    if s.b.past r.at_ 10000 then .next (s.setB ((s.b.escalate (portPan port)).startDie (portDie port) .escalated)) else .next s
  | none => .next s

/-- DIE_RESET: of a die pan, or of the die of a controller or collective engine (R341, R347). -/
def execDieReset (pan : Nat) (reason : RstReason) (s : State) : Host.Outcome State Fault Refusal :=
  match resetDie pan with
  | some d => if s.b.mayReset pan reason then .next (s.setB (s.b.startDie d reason)) else .next s
  | none => .next s

/-- DIE_RESET_DONE: `failed` lists what the reset has found failed on the die (R347). -/
def execDieResetDone (pan : Nat) (failed : List Nat) (s : State) : Host.Outcome State Fault Refusal :=
  match s.b.rst.running.find? fun r => r.pan = pan && panShape pan = some .die with
  | some r => if s.b.past r.at_ 1000000 then .next s else .next (s.setB (s.b.endDie (panDie pan) failed))
  | none => .next s

/-- DIE_RESET_TIMEOUT: not ended 1 ms after it began; a module reset follows (R346). -/
def execDieResetTimeout (pan : Nat) (s : State) : Host.Outcome State Fault Refusal :=
  match s.b.rst.running.find? fun r => r.pan = pan && panShape pan = some .die with
  | some r => if s.b.past r.at_ 1000000 then .next ((s.setB (s.b.escalate pan)).moduleReset causeEscalated) else .next s
  | none => .next s

/-! ### Hub cores (R350, R351, R355) -/

/-- Pan of a hub core. -/
def hcPan (core : Nat) : Pan := leafPan dHD kHC core

def hcOf (r : RstSt) (core : Nat) : HcState := if core = 0 then r.hc0 else r.hc1
def setHc (r : RstSt) (core : Nat) (x : HcState) : RstSt := if core = 0 then { r with hc0 := x } else { r with hc1 := x }

/-- The ACTIVE core. -/
def activeHc (r : RstSt) : Nat := if r.hc0 = .active then 0 else 1

/-- A core is reset and loads its firmware anew: 50 ms to be STANDBY (R351). -/
def Blk.reloadHc (b : Blk) (core : Nat) : Blk :=
  (b.modRst fun r => { (setHc r core .loading) with loadAt := r.loadAt.set core b.now, missed := r.missed.set core 0, switchovers := satInc 16 r.switchovers, fwStby := 0, handoverReady := false }).setSt (hcPan core) .reset

/-- HUB_CORE_SILENT: a core has missed eight windows: switchover, reload of the standby, or a module reset (R351). -/
def State.hubSilent (s : State) (core : Nat) : State :=
  let r := s.b.rst
  let b := s.b.modRst fun r => { r with missedWin := satAdd 16 r.missedWin 8 }
  let other := 1 - core
  if !s.b.running || 2 ≤ core then s
  else match hcOf r core, hcOf r other with
    | .active, .standby =>
      let fw := r.fwStby
      let b := (b.modRst fun r => { (setHc r other .active) with fwAct := fw }).reloadHc core
      s.setB (b.raiseMod 0xA005 other)
    | .active, _ => (s.setB b).moduleReset causeHubSilent
    | .standby, _ => s.setB ((b.reloadHc core).raiseMod 0xA005 (activeHc r + 2 ^ 8))
    | _, _ => s

/-- HUB_CORE_SILENT (R351). -/
def execHubCoreSilent (core : Nat) (s : State) : Host.Outcome State Fault Refusal := .next (s.hubSilent core)

/-- HUB_CORE_STANDBY: a reset core has its firmware and is STANDBY, within 50 ms (R351). -/
def execHubCoreStandby (core : Nat) (s : State) : Host.Outcome State Fault Refusal :=
  match s.b.rst.loadAt.find core with
  | some t =>
    if hcOf s.b.rst core ≠ .loading || s.b.past t 50000000 then .next s
    else .next (s.setB ((s.b.modRst fun r => { (setHc r core .standby) with loadAt := r.loadAt.erase core, fwStby := r.fwAct }).setSt (hcPan core) .ready))
  | none => .next s

/-- HUB_RELOAD_TIMEOUT: not STANDBY after 50 ms, the core is FAULT and the module is out of service (R351). -/
def execHubReloadTimeout (core : Nat) (s : State) : Host.Outcome State Fault Refusal :=
  match s.b.rst.loadAt.find core with
  | some t =>
    if hcOf s.b.rst core = .loading && s.b.past t 50000000 then
      let b := (s.b.modRst fun r => { (setHc r core .fault) with loadAt := r.loadAt.erase core }).setSt (hcPan core) .fault
      .next (s.setB (b.raiseSev s.b.faultSev 0xA006 moduleCtx hubPan core))
    else .next s
  | none => .next s

/-! ### Service resets and retirement (R357, R360) -/

/-- A kind group's own reset: of each member in its own domain, a member's running one absorbed, with one completion for the group (R25, R341). -/
def Blk.startKind (b : Blk) (p : Pan) (reason : RstReason) : Blk :=
  if panKind p = kMC || panKind p = kCE then b.startDie (panDie p) reason
  else if b.inReset p then b
  else
    let b := (b.clearPan p).modRst fun r => { r with running := r.running.filter fun x => !panWithin p x.pan }
    let b := if panKind p = kLP then b.startPorts ((leavesOf p).map portOfPan) reason else (leavesOf p).foldl (fun b q => b.resetUnit q reason) b
    b.modRst fun r => if r.running.any fun x => panWithin p x.pan then { r with running := r.running ++ [{ pan := p, reason := reason, at_ := b.now }] } else r

/-- A scheduled reset begins: of each member for a kind group (R341). -/
def State.serviceStart (s : State) (p : Pan) : State :=
  match panShape p with
  | some .module => s.moduleReset causeService
  | some .die => s.setB (s.b.startDie (panDie p) .service)
  | some .leaf =>
    if isEngine p then s.setB (s.b.startUnit p .service)
    else if panKind p = kLP then s.setB (s.b.startPort (portOfPan p) .service)
    else s.setB (s.b.startDie (panDie p) .service)
  | some .kind => s.setB (s.b.startKind p .service)
  | none => s

/-- SERVICE_RESET_DUE: the first scheduled action that is due is a reset (R36, R360). -/
def execServiceResetDue (s : State) : Host.Outcome State Fault Refusal :=
  match s.b.nextSched with
  | some x => match x.act with
    | .reset p => if s.b.firstDue x.tide x.phase (rankAct x.act) then .next ((s.setB (s.b.unschedule x)).serviceStart p) else .next s
    | _ => .next s
  | none => .next s

/-- RETIRE: the first scheduled action that is due is the retirement; the module pan is FAULT from here on (R357). -/
def execRetire (s : State) : Host.Outcome State Fault Refusal :=
  match s.b.nextSched with
  | some x => match x.act with
    | .retire => if !s.b.firstDue x.tide x.phase (rankAct x.act) then .next s else .next (s.setB (((s.b.unschedule x).modRst fun r => { r with retired := true }).raiseSev s.b.faultSev 0xA00A moduleCtx hubPan 0))
    | _ => .next s
  | none => .next s

end Sys2Proof.Machine
end

