-- ==== Sys2Proof/Machine/Boot.lean ====
section
/-! DEFINITION. Boot from power-good to ready, and attestation reports (R363 to R365, R369 to R376). -/
namespace Sys2Proof.Machine
open Sys2Proof

/-! ### What the configuration sets -/

/-- The highest operating point whose power class does not exceed a cap (R4, R405). -/
def opOfCap (w : Nat) : Nat := if 600 ≤ w then 0 else if 450 ≤ w then 1 else if 325 ≤ w then 2 else 3

/-- The pin rate of an operating point, as MEM_STATUS.RATE codes it (R4, R141, R157). -/
def rateOfOp (op : Nat) : Nat := if op ≤ 1 then 0 else op - 1

/-- The power class of an operating point in W (R4). -/
def classOfOp (op : Nat) : Nat := if op = 0 then 600 else if op = 1 then 450 else if op = 2 then 325 else 250

/-- Heartbeat intervals: HB_K and NSLOT of a period (R391). -/
def hbK (period : Nat) : Nat := (1000000 + period - 1) / period
def nslotOf (period : Nat) : Nat := min 16 ((hbK period * period - 400000) / 75000)

/-- The interval settings of the management bus (R391): a slot beyond NSLOT is bad. -/
def Blk.setIntervals (b : Blk) : Blk :=
  let p := b.tide.period
  let s := b.mgt.slotId % 16
  let bad := decide (nslotOf p ≤ s)
  let b' := b.modMgt fun m => { m with hbK := hbK p, nslot := nslotOf p, slotBad := m.slotBad || bad }
  if bad && !b.mgt.slotBad then b'.raiseMod 0xD001 s else b'

/-- The rake period that an image gives a controller (R150, R368). -/
def rakeOf (m : ModuleRec) (p : Pan) : Nat :=
  let k := mcKind p
  m.rake.getD (if k ≤ 1 then 0 else if k = 2 then 1 else if k = 3 then 2 else 3) 1

/-- The tide unit with an image's settings, as at boot (R27 to R31, R35). -/
def freshTide (m : ModuleRec) : TideUnit :=
  { period := m.period, holdLimit := m.holdLimit, maxOffset := m.maxOffset, epoch := m.epoch, order := m.sources, ptpDomain := m.ptpDomain, beaconTx := m.beaconTx }

/-- A configuration takes effect at boot step 3 (R365). -/
def Blk.configure (b : Blk) (slot : Nat) (c : Kartile) : Blk :=
  let op := opOfCap c.mod.powerCap
  let b := { b with
    cfg := c, tide := freshTide c.mod
    ports := (List.range 7).map fun i => (i, ({ cfg := c.mod.ports.getD i {} } : Port))
    rst := { b.rst with fwAct := c.hubFw, fwStby := c.hubFw }
    sec := { b.sec with slot := slot, svn := c.svn, configured := true, bootState := 3 }
    slu := { b.slu with policyOk := true }
    mon := { b.mon with op := op, target := op, cclk := op, rate := rateOfOp op, capW := c.mod.powerCap, capSrc := false } }
  b.setIntervals

/-! ### Steps 4 and 5 -/

/-- Does the repair list ask more of a controller than it has (R149)? -/
def Blk.listBeyond (b : Blk) (p : Pan) : Bool :=
  let mine := b.repairs.filter fun r => r.mc = p
  decide (Config.spareLanes (mcKind p) < (mine.filter fun r => r.lane).length ∨ Config.spareRows (mcKind p) < (mine.filter fun r => !r.lane).length)

/-- A controller after its training: its key, its rate, its rake, the repairs listed for it (R149, R150, R157). -/
def Blk.bootMc (b : Blk) (p : Pan) : Mc :=
  let mine := b.repairs.filter fun r => r.mc = p
  { keyReady := decide (mcKind p = 2 ∨ mcKind p = 3) || (decide (mcKind p = 4) && decide (b.sec.unlock ≠ 2))
    rate := if mcKind p = 2 then b.mon.rate else 0, period := rakeOf b.cfg.mod p, rakeActive := decide (mcKind p ≠ 5), passAt := b.now
    lanesUsed := min (Config.spareLanes (mcKind p)) (mine.filter fun r => r.lane).length
    rowsUsed := min (Config.spareRows (mcKind p)) (mine.filter fun r => !r.lane).length }

/-- Step 4: the tier keys are generated, tier 1 and tier 2 trained, the repair list applied, the receive area taken; a controller that fails is FAULT, as is one
with more repairs listed than it has resources (R149, R152, R321, R363). -/
def Blk.bootMemory (b : Blk) (untrained : List Nat) (margin : List (Nat × Nat)) : Blk :=
  let b := { b with
    sec := { b.sec with
      tierKeys := true, t1Key := { data := Config.tierKey b.freeCtr 0, tweak := Config.tierKey b.freeCtr 1 }
      t2Key := { data := Config.tierKey b.freeCtr 2, tweak := Config.tierKey b.freeCtr 3 } }
    freeCtr := b.freeCtr + 1
    spare := { b.spare with areaGranules := b.cfg.hrv.areaGranules }
    mc := allMC.map fun p => (p, b.bootMc p) }
  let b := b.setSts allLeaves .ready
  let b := b.setSts (((List.range 7).filter fun i => (b.portOf i).cfg.enable).map portPan) .init
  let b := untrained.foldl (fun b p => if isMc p then b.setSt p .fault else b) b
  let b := (allMC.filter fun p => decide (mcKind p ≤ 3) && b.listBeyond p).foldl Blk.repairOut b
  margin.foldl (fun b x => if isMc x.1 && decide (mcKind x.1 = 2 ∨ mcKind x.1 = 3) then b.repair x.1 true x.2 else b) b

/-- Step 5: every enabled port comes up; until its first UP its pan is INIT (R17, R285). -/
def Blk.bootPorts (b : Blk) : Blk :=
  let b := (List.range 7).foldl (fun b i =>
    if (b.portOf i).cfg.enable then b.modPort i fun x => { x with st := .an, retrainAt := some b.now } else b) b
  b.modSec fun x => { x with bootState := 4 }

/-- Booting an image whose header asks for it blows SVN fuses (R374). -/
def Blk.svnCommit (b : Blk) : Blk :=
  if b.cfg.svnCommit && decide (b.sec.minSvn < b.cfg.svn) then
    (b.modSec fun x => { x with minSvn := x.minSvn.max b.cfg.svn }).raiseMod 0xB007 b.cfg.svn
  else b

/-! ### Steps 1 to 3 -/

/-- A slot of the configuration flash. -/
def slotOf (s : SecSt) (n : Nat) : SlotSt := if n = 0 then s.slot0 else s.slot1
def setSlot (s : SecSt) (n : Nat) (x : SlotSt) : SecSt := if n = 0 then { s with slot0 := x } else { s with slot1 := x }

/-- What booting a slot finds: one that is not VALID counts as failing with reason 10 (R373). -/
def Blk.trySlot (b : Blk) (n : Nat) (pos : Nat) : ImageVerdict :=
  if (slotOf b.sec n).valid then readImage b.store.pkgs b.sec (slotOf b.sec n) pos else .refuse 10 0xFFFF

/-- An image is refused: the SEC_REFUSE register and EV_SEC_IMAGE_REFUSED (R371, R386). -/
def Blk.imageRefused (b : Blk) (slot reason dir : Nat) : Blk :=
  (b.modSec fun x => { x with reason := reason, dirIndex := dir }).raiseMod 0xB001 (reason + dir * 2 ^ 8 + slot * 2 ^ 24)

/-- A glitch is reported by the boot that follows it (R385). -/
def Blk.glitchReport (b : Blk) : Blk :=
  match b.sec.glitchPend with
  | some v => (b.modSec fun x => { x with glitchPend := none }).raiseMod 0xB006 (b2n v)
  | none => b

/-- The boot with an accepted image. -/
def Blk.bootWith (b : Blk) (slot : Nat) (c : Kartile) (untrained : List Nat) (margin : List (Nat × Nat)) : Blk :=
  (((b.configure slot c).svnCommit).bootMemory untrained margin).bootPorts

/-- May the boot begin: main power, no reset held, and every junction site below 95 °C (R349, R402)? -/
def Blk.mayBoot (b : Blk) : Bool :=
  b.pwr.rails && b.pwr.rstN && !b.sec.booting && (List.range 56).all fun i => decide ((b.mon.sites.get {} i).tempC < 95)

/-- BOOT_ROM: steps 1 to 5, with the other slot where SELECT fails, or RECOVERY where both do (R363, R373). -/
def Blk.boot (b : Blk) (pos : Nat) (untrained : List Nat) (margin : List (Nat × Nat)) : Blk :=
  if !b.mayBoot then b
  else
    let b := (b.modSec fun x => { x with booting := true }).modMgt fun m => { m with slotId := b.pwr.slotPins % 64 }
    let b := b.glitchReport
    let first := b.sec.select % 2
    let other := 1 - first
    match b.trySlot first pos with
    | .accept c => b.bootWith first c untrained margin
    | .refuse r i =>
      let b := b.imageRefused first r i
      match b.trySlot other pos with
      | .accept c =>
        let b := b.modSec fun x => { x with select := other, fallback := true }
        (b.raiseMod 0xB002 r).bootWith other c untrained margin
      | .refuse r i => (b.imageRefused other r i).modSec fun x => { x with recovery := true, bootState := 7 }

/-- BOOT_ROM, with the module's active position (R363). -/
def execBootRom (pos : Nat) (untrained : List Nat) (margin : List (Nat × Nat)) (s : State) : Host.Outcome State Fault Refusal :=
  .next (s.setB (s.b.boot pos untrained margin))

/-! ### Attestation (R375, R376) -/

/-- A digest as its 32 bytes. -/
def shaBytes (n : Nat) : List Nat := leBytes 32 n

/-- PART and STEPPING as the identification registers report them (R418). -/
def idPart : Nat := 0x00511024
def idStepping : Nat := 0x000400B0

/-- The digest of the seal store's directory. -/
def Blk.dirSha (b : Blk) : Nat := Config.sealDirSha (b.store.pkgs.map fun p => (p.id, p.ver, p.key))

/-- What an attestation report over a nonce says, to its signature (R376). The digest of the image public key is formed as R369 forms those of the root and owner keys. -/
def Blk.reportHead (b : Blk) (nonce : List Nat) : List Nat :=
  let pad := fun (n : Nat) (l : List Nat) => l.take n ++ List.replicate (n - l.length) 0
  leBytes 4 0x54544151 ++ leBytes 4 1 ++ leBytes 8 b.sec.serial ++ leBytes 4 idPart ++ leBytes 4 idStepping ++ pad 32 nonce ++ leBytes 8 b.tide.num ++
    leBytes 4 b.rst.moduleResets ++ [b.rst.lastCause, b.sec.unlock, b.sec.minSvn, b.sec.slot] ++
    shaBytes b.sec.romSha ++ shaBytes b.cfg.hubFwSha ++ shaBytes b.cfg.rkFwSha ++ shaBytes b.cfg.headerSha ++
    (if b.sec.configured then sha256 (beBytes 384 b.cfg.ownerN) else leBytes 32 0) ++ shaBytes b.dirSha ++ shaBytes (keyDigest b.sec.imageKey.n) ++
    leBytes 88 0

/-- An attestation report over a nonce, signed by the identity key with a salt (R375, R376). -/
def Blk.reportBytes (b : Blk) (nonce : List Nat) (salt : Nat) : List Nat := b.reportHead nonce ++ sigMake b.sec.identKey (b.reportHead nonce) (leBytes 32 salt)

/-! ### Steps 6 to 8 -/

/-- BOOT_STATE now: with every enabled port UP or FAULT, step 5 is over (R363, R388). -/
def Blk.bootStateNow (b : Blk) : Nat :=
  if b.sec.bootState = 4 && (List.range 7).all fun i => !(b.portOf i).cfg.enable || decide ((b.portOf i).st = .up ∨ (b.portOf i).st = .fault) then 5
  else b.sec.bootState

/-- Contexts that an image declares wait to be created, in ascending number (R235). -/
def Blk.declareCtxs (b : Blk) (l : List CtxRec) : Blk := l.foldl (fun b r => b.modCtx r.ctx fun c => { c with next := some r }) b

/-- BOOT_READY: with the tide LOCKED and its number set, the boot report is signed and the module is ready; its harvest windows open and its contexts are to be
created. At unlock level DEBUG the module never leaves INIT (R33, R363, R384). -/
def Blk.bootReady (b : Blk) (salt : Nat) : Blk :=
  if b.bootStateNow ≠ 5 || b.tide.st ≠ .locked || !b.tide.numSet || decide (b.sec.unlock = 2) then b
  else
    let b := b.modSec fun x => { x with
      bootState := 6, ready := true, bootMs := min ((b.now - b.pwr.pgAt) / 1000000) (2 ^ 32 - 1), report := b.reportBytes [] salt }
    let b := (b.cfg.hrv.pd.windows.map (·.winId)).foldl Blk.newGen b
    let b := b.raiseMod 0xA00B b.rst.lastCause
    let b := if b.sec.unlock = 0 then b else b.raiseMod 0xB005 b.sec.unlock
    b.declareCtxs b.cfg.ctxs

/-- BOOT_READY (R363). -/
def execBootReady (salt : Nat) (s : State) : Host.Outcome State Fault Refusal := .next (s.setB (s.b.bootReady salt))

/-- BOOT_LATE: step 8 has not been reached 150 s after power-good (R364). -/
def execBootLate (s : State) : Host.Outcome State Fault Refusal :=
  let b := s.b
  if !b.pwr.rails || !b.pwr.rstN || b.sec.ready || b.sec.bootLate || !b.past b.pwr.pgAt 150000000000 then .next s
  else
    let step := if b.sec.recovery then 3 else b.bootStateNow + 1
    .next (s.setB ((b.modSec fun x => { x with bootLate := true }).raiseMod 0xB003 step))

end Sys2Proof.Machine
end

