-- ==== Sys2Proof/Machine/RvFp.lean ====
section
/-! DEFINITION. The F and D arithmetic of a raker core: IEEE 754 binary32 and binary64 under the RISC-V rounding modes, with their flags (R126). -/
namespace Sys2Proof.Machine

/-! A result is a code with its flags: NV 16, DZ 8, OF 4, UF 2, NX 1. A rounding mode is its RISC-V number: 0 nearest even, 1 to zero, 2 down, 3 up, 4 nearest with ties away.
FP32 and T64 have the layouts of binary32 and binary64 (R49). All of it is PRESUMED from the RISC-V specification that R126 names (log 10). -/

/-- Divide by 2^k under a rounding mode, and whether anything was lost. -/
def rvShift (rm : Nat) (neg : Bool) (m k : Nat) : Nat × Bool :=
  let q := m >>> k
  let r := m % 2 ^ k
  let up : Bool := match rm with
    | 0 => decide (2 ^ k < 2 * r) || (decide (2 * r = 2 ^ k) && decide (q % 2 = 1))
    | 1 => false
    | 2 => neg && r ≠ 0
    | 3 => !neg && r ≠ 0
    | _ => r ≠ 0 && decide (2 ^ k ≤ 2 * r)
  (q + b2n up, decide (r ≠ 0))

/-- Where an overflow goes (IEEE 754, 7.4). -/
def rvOverflow (f : Fmt) (rm : Nat) (neg : Bool) : Nat :=
  if rm = 1 || (rm = 2 && !neg) || (rm = 3 && neg) then signBit f neg + maxFiniteCode f else infCode f neg

/-- Round an exact non-zero magnitude: overflow, or tininess after rounding and then one rounding on the subnormal grid. -/
def rvRound (f : Fmt) (rm : Nat) (neg : Bool) (m : Nat) (e : Int) : Nat × Nat :=
  if m = 0 then (signBit f neg, 0)
  else
    let k := Nat.log2 m + 1 - (manBits f + 1)
    let r := rvShift rm neg m k
    let e' := e + (k : Nat)
    if overMax f r.1 e' then (rvOverflow f rm neg, 5)
    else if magLt r.1 e' 1 (minNormalExp f) then
      let j := (minSubExp f - e).toNat
      let g := rvShift rm neg m j
      (encodeFp f neg g.1 (e + (j : Nat)), if g.2 then 3 else 0)
    else (encodeFp f neg r.1 e', b2n r.2)

/-- A value as a result; an exact zero takes the sign given. -/
def rvResult (f : Fmt) (rm : Nat) (zero nv : Bool) : Val → Nat × Nat
  | .nan _ => (canonicalNan f, 16 * b2n nv)
  | .inf n => (infCode f n, 16 * b2n nv)
  | .fin _ 0 _ => (signBit f zero, 16 * b2n nv)
  | .fin n m e => rvRound f rm n m e

/-- A sum, after an operation that may have been invalid: a zero sum of operands of both signs is negative only when rounding down. -/
def rvSum (f : Fmt) (rm : Nat) (x y : Val) (nv : Bool) : Nat × Nat :=
  let o := addV x y
  rvResult f rm (if negOf x = negOf y then negOf x else decide (rm = 2)) (nv || o.invalid) o.val

def rvAdd (f : Fmt) (rm a b : Nat) (sub : Bool) : Nat × Nat := rvSum f rm (decodeFp f a) (negV sub (decodeFp f b)) false

def rvMul (f : Fmt) (rm a b : Nat) : Nat × Nat :=
  let o := mulV (decodeFp f a) (decodeFp f b)
  rvResult f rm (negOf o.val) o.invalid o.val

/-- A fused product and sum, of which the product and the addend may be negated. -/
def rvFma (f : Fmt) (rm a b c : Nat) (negP negC : Bool) : Nat × Nat :=
  let o := mulV (decodeFp f a) (decodeFp f b)
  rvSum f rm (negV negP o.val) (negV negC (decodeFp f c)) o.invalid

/-- A quotient: enough bits of it, and a last one that tells of a remainder. -/
def rvDiv (f : Fmt) (rm a b : Nat) : Nat × Nat :=
  match decodeFp f a, decodeFp f b with
  | .nan s, .nan t => (canonicalNan f, 16 * b2n (s || t))
  | .nan s, _ => (canonicalNan f, 16 * b2n s)
  | _, .nan t => (canonicalNan f, 16 * b2n t)
  | .inf _, .inf _ => (canonicalNan f, 16)
  | .inf n, .fin k _ _ => (infCode f (n != k), 0)
  | .fin n _ _, .inf k => (signBit f (n != k), 0)
  | .fin n m e, .fin k l d =>
    if l = 0 then (if m = 0 then (canonicalNan f, 16) else (infCode f (n != k), 8))
    else
      let sh := manBits f + 4 + Nat.log2 l
      let q := (m * 2 ^ sh) / l
      rvRound f rm (n != k) (2 * q + b2n (decide ((m * 2 ^ sh) % l ≠ 0))) (e - d - (sh : Nat) - 1)

/-- The integer square root, bit by bit from 2^(k-1) down. -/
def isqrt : Nat → Nat → Nat → Nat
  | 0, _, acc => acc
  | k + 1, n, acc => isqrt k n (if (acc + 2 ^ k) * (acc + 2 ^ k) ≤ n then acc + 2 ^ k else acc)

def rvSqrt (f : Fmt) (rm a : Nat) : Nat × Nat :=
  match decodeFp f a with
  | .nan s => (canonicalNan f, 16 * b2n s)
  | .inf n => if n then (canonicalNan f, 16) else (infCode f false, 0)
  | .fin n m e =>
    if m = 0 then (signBit f n, 0)
    else if n then (canonicalNan f, 16)
    else
      let odd := e % 2 ≠ 0
      let p := manBits f + 3
      let v := (if odd then 2 * m else m) * 4 ^ p
      let r := isqrt (Nat.log2 v / 2 + 1) v 0
      rvRound f rm false (2 * r + b2n (decide (r * r ≠ v))) (((if odd then e - 1 else e) - 2 * (p : Nat)) / 2 - 1)

/-- The lesser or the greater of two, in the order with −0 below +0; a number wins over a NaN. -/
def rvMinMax (f : Fmt) (a b : Nat) (mx : Bool) : Nat × Nat :=
  let x := decodeFp f a
  let y := decodeFp f b
  let fl := 16 * b2n (isSnanV x || isSnanV y)
  if isNanV x then (if isNanV y then canonicalNan f else b, fl)
  else if isNanV y then (a, fl)
  else (if ltTotal x y != mx then a else b, fl)

/-- A comparison: 0 less or equal, 1 less, 2 equal; only the last is quiet. -/
def rvCmp (f : Fmt) (op a b : Nat) : Nat × Nat :=
  let x := decodeFp f a
  let y := decodeFp f b
  let nv := if op = 2 then isSnanV x || isSnanV y else isNanV x || isNanV y
  (b2n (match op with | 0 => ltV x y || eqV x y | 1 => ltV x y | _ => eqV x y), 16 * b2n nv)

/-- The class of a code, as one bit of ten. -/
def rvClass (f : Fmt) (a : Nat) : Nat :=
  match decodeFp f a with
  | .nan s => if s then 2 ^ 8 else 2 ^ 9
  | .inf n => if n then 1 else 2 ^ 7
  | .fin n m _ => if m = 0 then (if n then 2 ^ 3 else 2 ^ 4) else if isSubnormalCode f a then (if n then 2 ^ 2 else 2 ^ 5) else if n then 2 else 2 ^ 6

/-- The least and the greatest integer of a width. -/
def rvIntMin (w : Nat) (sg : Bool) : Int := if sg then -(2 ^ (w - 1) : Nat) else 0
def rvIntMax (w : Nat) (sg : Bool) : Int := if sg then (2 ^ (w - 1) : Nat) - 1 else (2 ^ w : Nat) - 1

/-- Into an integer of a width: out of range and NaN are invalid and give the nearest end, NaN the greatest. -/
def rvToInt (f : Fmt) (rm a w : Nat) (sg : Bool) : Int × Nat :=
  match decodeFp f a with
  | .nan _ => (rvIntMax w sg, 16)
  | .inf n => (if n then rvIntMin w sg else rvIntMax w sg, 16)
  | .fin n m e =>
    let r := if 0 ≤ e then (m * 2 ^ e.toNat, false) else rvShift rm n m (-e).toNat
    let i : Int := if n then -(r.1 : Nat) else (r.1 : Nat)
    if i < rvIntMin w sg then (rvIntMin w sg, 16) else if rvIntMax w sg < i then (rvIntMax w sg, 16) else (i, b2n r.2)

/-- From an integer. -/
def rvOfInt (f : Fmt) (rm : Nat) (i : Int) : Nat × Nat := rvRound f rm (decide (i < 0)) i.natAbs 0

/-- From one format to the other. -/
def rvConvert (src dst : Fmt) (rm a : Nat) : Nat × Nat :=
  let x := decodeFp src a
  rvResult dst rm (negOf x) (isSnanV x) x

end Sys2Proof.Machine
end

