-- ==== Sys2Proof/Machine/RvInt.lean ====
section
/-! DEFINITION. The integer side of RV64GC: fields of an instruction word, compressed instructions, integer arithmetic (R126). -/
namespace Sys2Proof.Machine
open Sys2Proof

/-! All of it is PRESUMED from the RISC-V specification that R126 names (log 10). -/

/-! ### Words of 64 bits -/

/-- An integer as 64 bits. -/
def wrap64 (i : Int) : Nat := (i % (2 ^ 64 : Nat)).toNat
def int64 (v : Nat) : Int := toSigned 64 v
/-- A value of `w` bits sign-extended to 64. -/
def sx (w v : Nat) : Nat := wrap64 (toSigned w v)

/-! ### Fields of a 32-bit word -/

def wOp (w : Nat) : Nat := bits w 0 7
def wRd (w : Nat) : Nat := bits w 7 5
def wF3 (w : Nat) : Nat := bits w 12 3
def wRs1 (w : Nat) : Nat := bits w 15 5
def wRs2 (w : Nat) : Nat := bits w 20 5
def wF7 (w : Nat) : Nat := bits w 25 7
def wImmI (w : Nat) : Nat := sx 12 (bits w 20 12)
def wImmS (w : Nat) : Nat := sx 12 (bits w 7 5 + bits w 25 7 * 2 ^ 5)
def wImmB (w : Nat) : Nat := sx 13 (bits w 8 4 * 2 + bits w 25 6 * 2 ^ 5 + bits w 7 1 * 2 ^ 11 + bits w 31 1 * 2 ^ 12)
def wImmU (w : Nat) : Nat := sx 32 (bits w 12 20 * 2 ^ 12)
def wImmJ (w : Nat) : Nat := sx 21 (bits w 21 10 * 2 + bits w 20 1 * 2 ^ 11 + bits w 12 8 * 2 ^ 12 + bits w 31 1 * 2 ^ 20)

/-! ### Compressed instructions as the 32-bit words they stand for -/

def encR (op f3 f7 rd rs1 rs2 : Nat) : Nat := op + rd * 2 ^ 7 + f3 * 2 ^ 12 + rs1 * 2 ^ 15 + rs2 * 2 ^ 20 + f7 * 2 ^ 25
def encI (op f3 rd rs1 imm : Nat) : Nat := op + rd * 2 ^ 7 + f3 * 2 ^ 12 + rs1 * 2 ^ 15 + imm % 2 ^ 12 * 2 ^ 20
def encS (op f3 rs1 rs2 imm : Nat) : Nat := op + bits imm 0 5 * 2 ^ 7 + f3 * 2 ^ 12 + rs1 * 2 ^ 15 + rs2 * 2 ^ 20 + bits imm 5 7 * 2 ^ 25
def encB (f3 rs1 imm : Nat) : Nat :=
  0x63 + bits imm 11 1 * 2 ^ 7 + bits imm 1 4 * 2 ^ 8 + f3 * 2 ^ 12 + rs1 * 2 ^ 15 + bits imm 5 6 * 2 ^ 25 + bits imm 12 1 * 2 ^ 31
def encJ (imm : Nat) : Nat := 0x6F + bits imm 12 8 * 2 ^ 12 + bits imm 11 1 * 2 ^ 20 + bits imm 1 10 * 2 ^ 21 + bits imm 20 1 * 2 ^ 31

/-- Quadrant 0: loads and stores of the eight registers x8 to x15, and addi4spn. -/
def expand0 (h : Nat) : Option Nat :=
  let rd := 8 + bits h 2 3
  let rs := 8 + bits h 7 3
  let uw := bits h 6 1 * 4 + bits h 10 3 * 8 + bits h 5 1 * 64
  let ud := bits h 10 3 * 8 + bits h 5 2 * 64
  match bits h 13 3 with
  | 0 =>
    let u := bits h 6 1 * 4 + bits h 5 1 * 8 + bits h 11 2 * 16 + bits h 7 4 * 64
    if u = 0 then none else some (encI 0x13 0 rd 2 u)
  | 1 => some (encI 0x07 3 rd rs ud)
  | 2 => some (encI 0x03 2 rd rs uw)
  | 3 => some (encI 0x03 3 rd rs ud)
  | 5 => some (encS 0x27 3 rs rd ud)
  | 6 => some (encS 0x23 2 rs rd uw)
  | 7 => some (encS 0x23 3 rs rd ud)
  | _ => none

/-- Quadrant 1: immediates, arithmetic of x8 to x15, jumps and branches. -/
def expand1 (h : Nat) : Option Nat :=
  let rd := bits h 7 5
  let imm := sx 6 (bits h 2 5 + bits h 12 1 * 32)
  let sh := bits h 2 5 + bits h 12 1 * 32
  let r := 8 + bits h 7 3
  let r2 := 8 + bits h 2 3
  let b := sx 9 (bits h 3 2 * 2 + bits h 10 2 * 8 + bits h 2 1 * 32 + bits h 5 2 * 64 + bits h 12 1 * 256)
  match bits h 13 3 with
  | 0 => some (encI 0x13 0 rd rd imm)
  | 1 => if rd = 0 then none else some (encI 0x1B 0 rd rd imm)
  | 2 => some (encI 0x13 0 rd 0 imm)
  | 3 =>
    if rd = 2 then
      let i := sx 10 (bits h 6 1 * 16 + bits h 2 1 * 32 + bits h 5 1 * 64 + bits h 3 2 * 128 + bits h 12 1 * 512)
      if i = 0 then none else some (encI 0x13 0 2 2 i)
    else if imm = 0 then none else some (0x37 + rd * 2 ^ 7 + imm % 2 ^ 20 * 2 ^ 12)
  | 4 =>
    match bits h 10 2 with
    | 0 => some (encI 0x13 5 r r sh)
    | 1 => some (encI 0x13 5 r r (sh + 0x400))
    | 2 => some (encI 0x13 7 r r imm)
    | _ => match bits h 12 1, bits h 5 2 with
      | 0, 0 => some (encR 0x33 0 0x20 r r r2)
      | 0, 1 => some (encR 0x33 4 0 r r r2)
      | 0, 2 => some (encR 0x33 6 0 r r r2)
      | 0, _ => some (encR 0x33 7 0 r r r2)
      | _, 0 => some (encR 0x3B 0 0x20 r r r2)
      | _, 1 => some (encR 0x3B 0 0 r r r2)
      | _, _ => none
  | 5 => some (encJ (sx 12 (bits h 3 3 * 2 + bits h 11 1 * 16 + bits h 2 1 * 32 + bits h 7 1 * 64 + bits h 6 1 * 128 + bits h 9 2 * 256 + bits h 8 1 * 1024 +
      bits h 12 1 * 2048)))
  | 6 => some (encB 0 r b)
  | _ => some (encB 1 r b)

/-- Quadrant 2: loads and stores on the stack pointer, slli, jumps through registers, moves. -/
def expand2 (h : Nat) : Option Nat :=
  let rd := bits h 7 5
  let rs2 := bits h 2 5
  let ud := bits h 5 2 * 8 + bits h 12 1 * 32 + bits h 2 3 * 64
  let uw := bits h 4 3 * 4 + bits h 12 1 * 32 + bits h 2 2 * 64
  let sd := bits h 10 3 * 8 + bits h 7 3 * 64
  match bits h 13 3 with
  | 0 => some (encI 0x13 1 rd rd (bits h 2 5 + bits h 12 1 * 32))
  | 1 => some (encI 0x07 3 rd 2 ud)
  | 2 => if rd = 0 then none else some (encI 0x03 2 rd 2 uw)
  | 3 => if rd = 0 then none else some (encI 0x03 3 rd 2 ud)
  | 4 =>
    match bits h 12 1 with
    | 0 => if rs2 ≠ 0 then some (encR 0x33 0 0 rd 0 rs2) else if rd = 0 then none else some (encI 0x67 0 0 rd 0)
    | _ => if rs2 ≠ 0 then some (encR 0x33 0 0 rd rd rs2) else if rd = 0 then some 0x00100073 else some (encI 0x67 0 1 rd 0)
  | 5 => some (encS 0x27 3 2 rs2 sd)
  | 6 => some (encS 0x23 2 2 rs2 (bits h 9 4 * 4 + bits h 7 2 * 64))
  | _ => some (encS 0x23 3 2 rs2 sd)

/-- A 16-bit instruction as the 32-bit word it stands for; the reserved ones, all zeros among them, stand for none. -/
def expandC (h : Nat) : Option Nat :=
  match h % 4 with
  | 0 => expand0 h
  | 1 => expand1 h
  | _ => expand2 h

/-! ### Integer arithmetic -/

/-- Division as RISC-V M defines it: by 0 it gives all ones and the dividend as remainder, and the one overflow gives the dividend and 0. -/
def divS (x y : Int) : Int := if y = 0 then -1 else x.tdiv y
def remS (x y : Int) : Int := if y = 0 then x else x.tmod y
def divU (w x y : Nat) : Nat := if y = 0 then 2 ^ w - 1 else x / y
def remU (x y : Nat) : Nat := if y = 0 then x else x % y

/-- A right shift that keeps the sign. -/
def sra (w a k : Nat) : Int := toSigned w a / (2 ^ k : Nat)

/-- Register-register operations of 64 bits. -/
def rvOp (f7 f3 a b : Nat) : Option Nat :=
  let x := int64 a
  let y := int64 b
  match f7, f3 with
  | 0x00, 0 => some ((a + b) % 2 ^ 64)
  | 0x20, 0 => some (wrap64 (x - y))
  | 0x00, 1 => some ((a <<< (b % 64)) % 2 ^ 64)
  | 0x00, 2 => some (b2n (decide (x < y)))
  | 0x00, 3 => some (b2n (decide (a < b)))
  | 0x00, 4 => some (a ^^^ b)
  | 0x00, 5 => some (a >>> (b % 64))
  | 0x20, 5 => some (wrap64 (sra 64 a (b % 64)))
  | 0x00, 6 => some (a ||| b)
  | 0x00, 7 => some (a &&& b)
  | 0x01, 0 => some (wrap64 (x * y))
  | 0x01, 1 => some (wrap64 (x * y / (2 ^ 64 : Nat)))
  | 0x01, 2 => some (wrap64 (x * (b : Int) / (2 ^ 64 : Nat)))
  | 0x01, 3 => some (a * b / 2 ^ 64)
  | 0x01, 4 => some (wrap64 (divS x y))
  | 0x01, 5 => some (divU 64 a b)
  | 0x01, 6 => some (wrap64 (remS x y))
  | 0x01, 7 => some (remU a b)
  | _, _ => none

/-- Register-register operations of 32 bits, whose result is sign-extended. -/
def rvOpW (f7 f3 a b : Nat) : Option Nat :=
  let a := a % 2 ^ 32
  let b := b % 2 ^ 32
  let x := toSigned 32 a
  let y := toSigned 32 b
  match f7, f3 with
  | 0x00, 0 => some (sx 32 (a + b))
  | 0x20, 0 => some (sx 32 (wrap64 (x - y)))
  | 0x00, 1 => some (sx 32 (a <<< (b % 32)))
  | 0x00, 5 => some (sx 32 (a >>> (b % 32)))
  | 0x20, 5 => some (wrap64 (sra 32 a (b % 32)))
  | 0x01, 0 => some (sx 32 (a * b))
  | 0x01, 4 => some (sx 32 (wrap64 (divS x y)))
  | 0x01, 5 => some (sx 32 (divU 32 a b))
  | 0x01, 6 => some (sx 32 (wrap64 (remS x y)))
  | 0x01, 7 => some (sx 32 (remU a b))
  | _, _ => none

/-- Operations with an immediate: a shift takes its amount from the low bits and its kind from those above them. -/
def rvOpImm (w a : Nat) : Option Nat :=
  let i := wImmI w
  match wF3 w with
  | 1 => if bits w 26 6 = 0 then rvOp 0 1 a (bits w 20 6) else none
  | 5 => if bits w 26 6 = 0 then rvOp 0 5 a (bits w 20 6) else if bits w 26 6 = 0x10 then rvOp 0x20 5 a (bits w 20 6) else none
  | f => rvOp 0 f a i
def rvOpImmW (w a : Nat) : Option Nat :=
  match wF3 w with
  | 0 => rvOpW 0 0 a (wImmI w)
  | 1 => if wF7 w = 0 then rvOpW 0 1 a (wRs2 w) else none
  | 5 => if wF7 w = 0 ∨ wF7 w = 0x20 then rvOpW (wF7 w) 5 a (wRs2 w) else none
  | _ => none

/-- Is a branch taken? -/
def rvTaken (f3 a b : Nat) : Option Bool :=
  match f3 with
  | 0 => some (decide (a = b))
  | 1 => some (decide (a ≠ b))
  | 4 => some (decide (int64 a < int64 b))
  | 5 => some (decide (int64 b ≤ int64 a))
  | 6 => some (decide (a < b))
  | 7 => some (decide (b ≤ a))
  | _ => none

end Sys2Proof.Machine
end

