-- ==== Sys2Proof/Machine/Rv.lean ====
section
/-! DEFINITION. Raker cores run their programs: RV64GC and the extension of R132, fetched from local memory (R126, R127, R132, R135). -/
namespace Sys2Proof.Machine
open Sys2Proof

/-- What an instruction is to its core: it changes nothing but the core, or it acts on the module and is a row of the table. -/
inductive RvNext where
  | core (r : Rk)
  | row (c : Instr)
  deriving DecidableEq, Repr

/-! ### Floating-point registers -/

/-- A register read in a format: an FP32 value that is not NaN-boxed reads as the canonical NaN. -/
def getF (r : Rk) (f : Fmt) (n : Nat) : Nat :=
  let v := r.f.get 0 (n % 32)
  if f = .fp32 then (if v / 2 ^ 32 = 2 ^ 32 - 1 then v % 2 ^ 32 else canonicalNan .fp32) else v

/-- Write a result and add its flags to fcsr. -/
def putF (r : Rk) (f : Fmt) (fd : Nat) (v : Nat × Nat) : Rk :=
  let r := setF r fd (if f = .fp32 then 4 else 8) v.1
  { r with fcsr := r.fcsr ||| v.2 }
def putX (r : Rk) (rd : Nat) (v : Nat × Nat) : Rk :=
  let r := setX r rd v.1
  { r with fcsr := r.fcsr ||| v.2 }

/-- The rounding mode that a word asks for: its own, or the one in fcsr; the others are reserved. -/
def rmOf (r : Rk) (w : Nat) : Option Nat :=
  let m := if wF3 w = 7 then bits r.fcsr 5 3 else wF3 w
  if m ≤ 4 then some m else none

/-- The format that two bits name: S or D. -/
def fmtOf2 (n : Nat) : Option Fmt := if n = 0 then some .fp32 else if n = 1 then some .t64 else none

/-- The widths and signs of the integers of a conversion: W, WU, L, LU. -/
def intWidth (n : Nat) : Nat := if n < 2 then 32 else 64
def intSigned (n : Nat) : Bool := n % 2 = 0

/-- The OP-FP instructions. -/
def rvFpOp (r : Rk) (w : Nat) (f : Fmt) : Option Rk :=
  let a := getF r f (wRs1 w)
  let b := getF r f (wRs2 w)
  let rd := wRd w
  let x := getX r (wRs1 w)
  let n := wRs2 w
  let sgn := 2 ^ (fmtWidth f - 1)
  let put := putF r f rd
  match wF7 w / 4 with
  | 0x00 => (rmOf r w).map fun m => put (rvAdd f m a b false)
  | 0x01 => (rmOf r w).map fun m => put (rvAdd f m a b true)
  | 0x02 => (rmOf r w).map fun m => put (rvMul f m a b)
  | 0x03 => (rmOf r w).map fun m => put (rvDiv f m a b)
  | 0x0B => if n = 0 then (rmOf r w).map fun m => put (rvSqrt f m a) else none
  | 0x04 =>
    let s := fun v => some (put (a % sgn + v * sgn, 0))
    match wF3 w with
    | 0 => s (b / sgn % 2)
    | 1 => s (1 - b / sgn % 2)
    | 2 => s ((a / sgn + b / sgn) % 2)
    | _ => none
  | 0x05 => if wF3 w ≤ 1 then some (put (rvMinMax f a b (wF3 w = 1))) else none
  | 0x08 => match fmtOf2 n with
    | some g => if g = f then none else (rmOf r w).map fun m => put (rvConvert g f m (getF r g (wRs1 w)))
    | none => none
  | 0x14 => if wF3 w ≤ 2 then some (putX r rd (rvCmp f (wF3 w) a b)) else none
  | 0x18 => if n ≤ 3 then (rmOf r w).map fun m =>
      let i := rvToInt f m a (intWidth n) (intSigned n)
      putX r rd (if intWidth n = 32 then sx 32 (wrap64 i.1) else wrap64 i.1, i.2)
    else none
  | 0x1A => if n ≤ 3 then (rmOf r w).map fun m => put (rvOfInt f m (if intSigned n then toSigned (intWidth n) x else (x % 2 ^ intWidth n : Nat))) else none
  | 0x1C => if n ≠ 0 then none
    else match wF3 w with
      | 0 => some (setX r rd (let v := r.f.get 0 (wRs1 w); if f = .fp32 then sx 32 v else v))
      | 1 => some (setX r rd (rvClass f a))
      | _ => none
  | 0x1E => if n = 0 ∧ wF3 w = 0 then some (setF r rd (if f = .fp32 then 4 else 8) x) else none
  | _ => none

/-- The fused multiply-adds: FMADD, FMSUB, FNMSUB, FNMADD by bits [3:2] of the opcode. -/
def rvFmaOp (r : Rk) (w : Nat) : Option Rk :=
  match fmtOf2 (bits w 25 2), rmOf r w with
  | some f, some m =>
    let k := bits w 2 2
    some (putF r f (wRd w) (rvFma f m (getF r f (wRs1 w)) (getF r f (wRs2 w)) (getF r f (bits w 27 5)) (decide (2 ≤ k)) (decide (k = 1 ∨ k = 3))))
  | _, _ => none

/-! ### CSRs (R135) -/

/-- A CSR as user mode reads it: fflags, frm, fcsr, cycle, time, instret. -/
def csrRead (r : Rk) (now n : Nat) : Option Nat :=
  match n with
  | 0x001 => some (r.fcsr % 32)
  | 0x002 => some (bits r.fcsr 5 3)
  | 0x003 => some (r.fcsr % 256)
  | 0xC00 => some (r.cycle % 2 ^ 64)
  | 0xC01 => some (now % 2 ^ 64)
  | 0xC02 => some r.instret
  | _ => none

/-- A CSR written; the counters are read-only. -/
def csrWrite (r : Rk) (n v : Nat) : Option Rk :=
  match n with
  | 0x001 => some { r with fcsr := bits r.fcsr 5 3 * 32 + v % 32 }
  | 0x002 => some { r with fcsr := v % 8 * 32 + r.fcsr % 32 }
  | 0x003 => some { r with fcsr := v % 256 }
  | _ => none

/-- CSRRW, CSRRS, CSRRC and their immediate forms; a set or a clear that names register 0 writes nothing. -/
def rvCsr (r : Rk) (now w : Nat) : Option Rk :=
  let n := bits w 20 12
  let src := if 4 ≤ wF3 w then wRs1 w else getX r (wRs1 w)
  match csrRead r now n with
  | none => none
  | some old =>
    let new := match wF3 w % 4 with
      | 1 => some src
      | 2 => if wRs1 w = 0 then none else some (old ||| src)
      | _ => if wRs1 w = 0 then none else some (old ^^^ (old &&& src))
    match new with
    | none => some (setX r (wRd w) old)
    | some v => (csrWrite r n v).map fun r => setX r (wRd w) old

/-! ### Accesses, calls and the extension as rows -/

def amoOf (n : Nat) : Option AmoOp :=
  match n with
  | 0x01 => some .swap | 0x00 => some .add | 0x04 => some .xor | 0x0C => some .and_ | 0x08 => some .or_
  | 0x10 => some .min | 0x14 => some .max | 0x18 => some .minu | 0x1C => some .maxu
  | _ => none

/-- The address and the access of a load, a store, or an A instruction. -/
def rvAccess (r : Rk) (w : Nat) : Option (Nat × RkAccess) :=
  let a := getX r (wRs1 w)
  let v := getX r (wRs2 w)
  let f3 := wF3 w
  let n := 2 ^ (f3 % 4)
  let at_ := fun i => (a + i) % 2 ^ 64
  match wOp w with
  | 0x03 => if f3 = 7 then none else some (at_ (wImmI w), .load n (decide (f3 < 4)) (wRd w))
  | 0x07 => if f3 = 2 ∨ f3 = 3 then some (at_ (wImmI w), .fload n (wRd w)) else none
  | 0x23 => if f3 < 4 then some (at_ (wImmS w), .store n (v % 2 ^ (8 * n))) else none
  | 0x27 => if f3 = 2 ∨ f3 = 3 then some (at_ (wImmS w), .store n (r.f.get 0 (wRs2 w) % 2 ^ (8 * n))) else none
  | 0x2F =>
    if f3 ≠ 2 ∧ f3 ≠ 3 then none
    else match wF7 w / 4 with
      | 0x02 => if wRs2 w = 0 then some (a, .lr n (wRd w)) else none
      | 0x03 => some (a, .sc n (v % 2 ^ (8 * n)) (wRd w))
      | k => (amoOf k).map fun op => (a, .amo op n (v % 2 ^ (8 * n)) (wRd w))
  | _ => none

/-- ECALL by the call number in a7: the row of each call, and for SKEYR and COLL the row of the operation that the descriptor names (R135, R275, R299). -/
def rvCall (core pc : Nat) (r : Rk) : Instr :=
  let a0 := getX r 10
  let op := (locBytes r a0 1).getD 0 0
  match getX r 17 with
  | 0 => .exit core pc a0
  | 1 => .eventCall core pc a0 (getX r 11)
  | 2 => .tideCall core pc
  | 3 => .waitTide core pc a0 (getX r 11)
  | 4 => if op = tRead then .skeyrRead core pc a0 else if op = tFlush then .skeyrFlush core pc a0 else .skeyrWrite core pc a0
  | 5 => .skeyrWait core pc a0
  | 6 => match op with
    | 2 => .reduceScatter core pc a0 | 3 => .allGather core pc a0 | 4 => .allToAll core pc a0 | 5 => .broadcast core pc a0 | 6 => .permute core pc a0
    | 7 => .barrier core pc a0 | 8 => .qsend core pc a0 | 9 => .qrecv core pc a0
    | _ => .allReduce core pc a0
  | 7 => .collWait core pc a0
  | n => .ecall core pc n

/-- The extension: custom-0, R-type, funct7 and every unused field 0 (R132). -/
def rvCustom (core pc : Nat) (r : Rk) (w : Nat) : Option Instr :=
  if wF7 w ≠ 0 ∨ wRs2 w ≠ 0 then none
  else match wF3 w with
    | 0 => some (.qcmd core (wRd w) (getX r (wRs1 w)) pc)
    | 1 => some (.qlaunch core (wRd w) (getX r (wRs1 w)) pc)
    | 2 => some (.qwait core (wRd w) (getX r (wRs1 w)) pc)
    | 3 => some (.qtest core (wRd w) (getX r (wRs1 w)) pc)
    | 4 => if wRd w = 0 ∧ wRs1 w = 0 then some (.qfence core pc) else none
    | _ => none

/-! ### One instruction -/

/-- An instruction that changes nothing but its core, of a core that stands at it; `none` where it is illegal. -/
def rvLocal (now pc len : Nat) (r : Rk) (w : Nat) : Option Rk :=
  let a := getX r (wRs1 w)
  let b := getX r (wRs2 w)
  let rd := wRd w
  let jumpTo := fun (r : Rk) (t : Nat) => { r with npc := t % 2 ^ 64 }
  match wOp w with
  | 0x37 => some (setX r rd (wImmU w))
  | 0x17 => some (setX r rd (pc + wImmU w))
  | 0x6F => some (jumpTo (setX r rd (pc + len)) (pc + wImmJ w))
  | 0x67 => if wF3 w = 0 then some (jumpTo (setX r rd (pc + len)) ((a + wImmI w) % 2 ^ 64 / 2 * 2)) else none
  | 0x63 => (rvTaken (wF3 w) a b).map fun t => if t then jumpTo r (pc + wImmB w) else r
  | 0x13 => (rvOpImm w a).map (setX r rd)
  | 0x1B => (rvOpImmW w a).map (setX r rd)
  | 0x33 => (rvOp (wF7 w) (wF3 w) a b).map (setX r rd)
  | 0x3B => (rvOpW (wF7 w) (wF3 w) a b).map (setX r rd)
  | 0x53 => (fmtOf2 (bits w 25 2)).bind (rvFpOp r w)
  | 0x43 => rvFmaOp r w
  | 0x47 => rvFmaOp r w
  | 0x4B => rvFmaOp r w
  | 0x4F => rvFmaOp r w
  | 0x0F => if wF3 w = 1 then some r else none
  | 0x73 => if wF3 w = 0 then (if w = 0x10500073 then some r else none) else if wF3 w = 4 then none else rvCsr r now w
  | _ => none

/-- A 32-bit word: an access, a fence, a call, the extension, or an instruction of the core's own. A load or store that lies in the user part of local memory is one of
the core's own too (R127). -/
def rvWord (core now pc len : Nat) (r : Rk) (w : Nat) : RvNext :=
  let illegal : RvNext := .row (.rkIllegalInstr core pc .illegal)
  match wOp w with
  | 0x0B => match rvCustom core pc r w with
    | some c => .row c
    | none => illegal
  | 0x0F => if wF3 w = 0 then .row (.fence core pc) else match rvLocal now pc len (atPc r pc) w with
    | some r => .core r
    | none => illegal
  | 0x73 => if w = 0x00000073 then .row (rvCall core pc r)
    else if w = 0x00100073 then .row (.rkIllegalInstr core pc .ebreak)
    else match rvLocal now pc len (atPc r pc) w with
      | some r => .core r
      | none => illegal
  | _ => match rvAccess r w with
    | some (a, acc) =>
      if localBase ≤ a then
        if inUserLocal a (accSize acc) then .core (localPerform (atPc r pc) a acc) else .row (.rkIllegalInstr core pc .local_)
      else .row (.rkContextAccess core pc a acc)
    | none => match rvLocal now pc len (atPc r pc) w with
      | some r => .core r
      | none => illegal

/-- The instruction that a core stands at, fetched from the user part of local memory: 2 bytes, or 4 (R127, R134). -/
def rvNext (core now : Nat) (r : Rk) : RvNext :=
  let pc := r.npc
  let len := instrLen r pc
  if pc % 2 ≠ 0 || !inUserLocal pc len then .row (.rkIllegalInstr core pc .local_)
  else
    let h := ofLeBytes (locBytes r pc len)
    if len = 4 then rvWord core now pc 4 r h
    else match expandC h with
      | some w => rvWord core now pc 2 r w
      | none => .row (.rkIllegalInstr core pc .illegal)

/-! ### Running -/

/-- The command that a core, not waiting, stands at: where its instruction acts on the module (log 10). -/
def Blk.rowOf (b : Blk) (core : Nat) : Option Instr :=
  match b.mayIssue core with
  | none => none
  | some _ => match rvNext core b.now (b.rkOf core) with
    | .row c => some c
    | .core _ => none

/-- A core runs one instruction of its own; at one that acts on the module it stays until that command is taken. -/
def Blk.rvRun (b : Blk) (core : Nat) : Blk :=
  match b.mayIssue core with
  | none => b
  | some _ => match rvNext core b.now (b.rkOf core) with
    | .core r => b.modRk core fun _ => r
    | .row _ => b

/-- A nanosecond passes for the cores: three cycles of FCLK in two (R26), and one instruction (DESIGN CHOICE, log 10). -/
def Blk.rvTick (b : Blk) : Blk :=
  let b := { b with rk := b.rk.mapV fun _ r => { r with cycle := r.cycle + 1 + b.now % 2 } }
  b.rk.keys.foldl Blk.rvRun b

end Sys2Proof.Machine
end

