-- ==== Sys2Proof/Machine/MgtWire.lean ====
section
/-! DEFINITION. Frames of the management bus as bytes (R5, R390, R393, R394). -/
namespace Sys2Proof.Machine
open Sys2Proof

/-- The group address, and the EtherTypes of module frames and of OMP frames (R390). -/
def groupMac : Nat := 0x0346514D0000
def etherModule : Nat := 0x88B5
def etherOmp : Nat := 0x88B6

/-- A module's source address: 02, then SERIAL[39:0] (R390). -/
def ownMac (serial : Nat) : Nat := 0x02 * 2 ^ 40 + serial % 2 ^ 40

/-- The 18-byte header of a module frame (R393). -/
def mgtHead (kind pos flags serial tide : Nat) : List Nat := [kind, 1, pos % 256, flags % 8] ++ beBytes 8 serial ++ beBytes 6 tide

/-- A frame's payload (R393, R394). The event record and the capacity summary keep their own byte order (R20, R241). -/
def mgtBytes : MgtFrame → List Nat
  | .heartbeat pos flags serial tide hb status => mgtHead 1 pos flags serial tide ++ beBytes 2 hb ++ beBytes 4 status
  | .beacon pos flags serial tide delay => mgtHead 2 pos flags serial tide ++ beBytes 4 delay
  | .claim pos flags serial tide target takeover => mgtHead 3 pos flags serial tide ++ [target % 256, 0] ++ beBytes 6 takeover
  | .takeover pos flags serial tide target => mgtHead 4 pos flags serial tide ++ [target % 256, 0]
  | .event pos flags serial tide r => mgtHead 5 pos flags serial tide ++ recBytes r
  | .capacity pos flags serial tide words => mgtHead 6 pos flags serial tide ++ (List.range 16).flatMap fun i => leBytes 4 (words.getD i 0)
  | .omp _ msgId frag last bytes => beBytes 4 msgId ++ beBytes 2 frag ++ [b2n last, 0] ++ bytes

/-- One bit, and one byte, of the frame check sequence's reflected polynomial. -/
def fcsBit (c : Nat) : Nat := if c % 2 = 1 then (c / 2) ^^^ 0xEDB88320 else c / 2
def fcsByte (c x : Nat) : Nat :=
  let c := c ^^^ (x % 256)
  fcsBit (fcsBit (fcsBit (fcsBit (fcsBit (fcsBit (fcsBit (fcsBit c)))))))

/-- The frame check sequence of IEEE 802.3, clause 3 (R389). -/
def fcsOf (l : List Nat) : List Nat := leBytes 4 (l.foldl fcsByte 0xFFFFFFFF ^^^ 0xFFFFFFFF)

/-- A frame from its destination address to its FCS, padded to 64 bytes. -/
def busFrame (dst src etherType : Nat) (payload : List Nat) : List Nat :=
  let l := beBytes 6 dst ++ beBytes 6 src ++ beBytes 2 etherType ++ payload
  let l := l ++ List.replicate (60 - l.length) 0
  l ++ fcsOf l

/-- A frame of the module's own as it goes on the bus (R390). -/
def Blk.busBytes (b : Blk) (f : MgtFrame) : List Nat :=
  match f with
  | .omp dst .. => busFrame dst (ownMac b.sec.serial) etherOmp (mgtBytes f)
  | _ => busFrame groupMac (ownMac b.sec.serial) etherModule (mgtBytes f)

/-- Bytes of a frame's payload. -/
def mgtPayload : MgtFrame → Nat
  | .heartbeat .. => 24
  | .beacon .. => 22
  | .claim .. => 26
  | .takeover .. => 20
  | .event .. => 82
  | .capacity .. => 82
  | .omp _ _ _ _ bs => 8 + bs.length

/-! ### Reading a frame -/

/-- A module frame read from its payload: of a known KIND and version, and long enough for its body; what follows is padding (R393, R398). -/
def mgtAt (l : List Nat) : Option MgtFrame :=
  let kind := beField l 0 1
  let pos := beField l 2 1
  let flags := beField l 3 1 % 8
  let serial := beField l 4 8
  let tide := beField l 0xC 6
  if beField l 1 1 ≠ 1 then none
  else if kind = 1 && 24 ≤ l.length then some (.heartbeat pos flags serial tide (beField l 0x12 2) (beField l 0x14 4))
  else if kind = 2 && 22 ≤ l.length then some (.beacon pos flags serial tide (beField l 0x12 4))
  else if kind = 3 && 26 ≤ l.length then some (.claim pos flags serial tide (beField l 0x12 1) (beField l 0x14 6))
  else if kind = 4 && 20 ≤ l.length then some (.takeover pos flags serial tide (beField l 0x12 1))
  else if kind = 5 && 82 ≤ l.length then some (.event pos flags serial tide (recAt (l.drop 0x12)))
  else if kind = 6 && 82 ≤ l.length then some (.capacity pos flags serial tide ((List.range 16).map fun i => fieldAt l (0x12 + 4 * i) 4))
  else none

/-- What a frame on the bus is to the module. -/
inductive BusIn where
  /-- Its FCS is wrong. -/
  | fcsBad
  /-- It is none of the frames that the module accepts (R390, R398). -/
  | bad
  /-- An OMP frame for another node. -/
  | other
  | frame (f : MgtFrame)
  /-- A fragment: its node, whether it came to the group address, MSG_ID, FRAG, LAST, and its bytes, padding included (R394). -/
  | omp (src : Nat) (group : Bool) (msgId frag : Nat) (last : Bool) (bytes : List Nat)
  deriving DecidableEq, Repr

/-- Does a module frame come from a position that there is, and name one? -/
def frameOk : MgtFrame → Bool
  | .heartbeat pos .. => decide (pos ≤ 71)
  | .beacon pos .. => decide (pos ≤ 71)
  | .claim pos _ _ _ target _ => decide (pos ≤ 71 ∧ target ≤ 63)
  | .takeover pos _ _ _ target => decide (pos ≤ 71 ∧ target ≤ 63)
  | .event pos .. => decide (pos ≤ 71)
  | .capacity pos .. => decide (pos ≤ 71)
  | .omp .. => false

/-- A frame as it comes, from its destination address to its FCS (R389, R390, R393, R394, R398). -/
def Blk.busIn (b : Blk) (l : List Nat) : BusIn :=
  let n := l.length - 4
  let dst := beField l 0 6
  let p := (l.take n).drop 14
  if l.drop n ≠ fcsOf (l.take n) then .fcsBad
  else if n < 60 then .bad
  else if dst = groupMac && beField l 12 2 = etherModule then
    match mgtAt p with
    | some f => if n = max 60 (14 + mgtPayload f) && frameOk f then .frame f else .bad
    | none => .bad
  else if beField l 12 2 = etherOmp then
    if dst = groupMac || dst = ownMac b.sec.serial then
      if p.length ≤ 200 then .omp (beField l 6 6) (decide (dst = groupMac)) (beField p 0 4) (beField p 4 2) (bitAt (beField p 6 1) 0) (p.drop 8) else .bad
    else .other
  else .bad

end Sys2Proof.Machine
end

