-- ==== Sys2Proof/Machine/Mgt.lean ====
section
/-! DEFINITION. The management bus: what the module queues, how the MAC sends it, and the fragments of OMP messages (20). -/
namespace Sys2Proof.Machine
open Sys2Proof

/-! ### Intervals (R391) -/

/-- Does the management MAC run: from the boot ROM's start on? -/
def Blk.mgtOn (b : Blk) : Bool := b.pwr.rails && b.pwr.rstN && b.sec.booting

/-- Does the module send its heartbeat: once ready, in service or standing by? One whose STATE is FAULT reports that (R334, R357, R364). -/
def Blk.mgtActive (b : Blk) : Bool :=
  b.mgtOn && b.sec.ready && (inService b.moduleState || decide (b.moduleState = .spare ∨ b.moduleState = .fault))

/-- Interval length in ns, the interval's number, and the phase within it. -/
def Blk.intLen (b : Blk) : Nat := b.mgt.hbK * b.tide.period
def Blk.intNo (b : Blk) : Nat := b.tide.num / b.mgt.hbK
def Blk.intPhase (b : Blk) : Nat := b.tide.num % b.mgt.hbK * b.tide.period + b.phase

/-- Does the heartbeat go in the free window: of a spare, or where the slot number is too high? -/
def Blk.hbFree (b : Blk) : Bool := b.mgt.slotBad || b.moduleState = .spare

/-- Where the module's own slot and the free window start. -/
def Blk.slotStart (b : Blk) : Nat := 100000 + b.mgt.slotId % 16 * 75000
def Blk.freeStart (b : Blk) : Nat := 100000 + b.mgt.nslot * 75000

/-! ### Frames (R390, R393, R394) -/

/-- Ns from a frame's first bit to its last at 10 Mb/s: preamble, header, payload padded to 64 bytes, FCS. -/
def mgtWire (f : MgtFrame) : Nat := (8 + max 64 (18 + mgtPayload f)) * 800

/-- The interframe gap in ns. -/
def mgtGap : Nat := 9600

/-- The flags byte of a module frame. -/
def Blk.mgtFlags (b : Blk) : Nat := b2n b.isSpare + 2 * b2n b.tst.active + 4 * b2n (b.sec.unlock ≠ 0)

/-- The header is filled in as the frame goes: position, flags, serial, tide; a beacon carries the delay up to its SFD (R30), a claim that has missed its tide the takeover
two tides on (R395). -/
def Blk.stamp (b : Blk) (late : Bool) : MgtFrame → MgtFrame
  | .heartbeat _ _ _ _ hb st => .heartbeat b.pos b.mgtFlags b.sec.serial b.tide.num hb st
  | .beacon _ _ _ n _ => .beacon b.pos b.mgtFlags b.sec.serial n (b.now - b.lastEdge + 5600)
  | .claim _ _ _ _ t k => .claim b.pos b.mgtFlags b.sec.serial b.tide.num t (if late then b.tide.num + 2 else k)
  | .takeover _ _ _ _ t => .takeover b.pos b.mgtFlags b.sec.serial b.tide.num t
  | .event _ _ _ _ r => .event b.pos b.mgtFlags b.sec.serial b.tide.num r
  | .capacity _ _ _ _ w => .capacity b.pos b.mgtFlags b.sec.serial b.tide.num w
  | .omp d m n l bs => .omp d m n l bs

/-- Queue a frame (R395). -/
def Blk.mgtQueue (b : Blk) (f : MgtFrame) (deadline : Option Nat) (prio : Nat) : Blk :=
  b.modMgt fun m => { m with queue := m.queue ++ [{ f := f, deadline := deadline, prio := prio }] }

/-- The order in which frames go: beacons and heartbeats at their places, then claims and takeovers, events of severity 4 and 3, OMP, other events, capacity (R395). -/
def pBeacon : Nat := 0
def pHeartbeat : Nat := 1
def pClaim : Nat := 2
def pEventHigh : Nat := 3
def pOmp : Nat := 4
def pEventLow : Nat := 5
def pCapacity : Nat := 6

/-! ### The MAC (R389, R395, R396) -/

/-- May a frame begin now? Where no tide runs there are no intervals, and it may at any time. -/
def Blk.mayBegin (b : Blk) (f : MgtFrame) : Bool :=
  let p := b.intPhase
  let end_ := p + mgtWire f
  let free := decide (b.freeStart ≤ p ∧ end_ ≤ b.intLen - 20000)
  if !tideRuns b.tide || b.mgt.hbK = 0 then true
  else match f with
    | .beacon .. => decide (b.phase + mgtWire f ≤ 100000)
    | .heartbeat .. => if b.hbFree then free else decide (b.slotStart ≤ p)
    | _ => free

/-- Has a frame missed its deadline? -/
def Blk.expired (b : Blk) (q : MgtQ) : Bool := q.deadline.any fun t => decide (t ≤ b.tide.num)

/-- Mirrored events as queued frames (R395). -/
def mirrorQ (r : EventRec) : MgtQ := { f := .event 0 0 0 0 r, prio := if 3 ≤ r.sev then pEventHigh else pEventLow }

/-- The frame that goes next. -/
def Blk.mgtNext (b : Blk) : Option MgtQ :=
  ((b.mgt.queue ++ b.mgt.mirror.map mirrorQ).filter fun q => b.mayBegin q.f && !b.expired q).foldl (fun o q => match o with
    | none => some q
    | some x => if q.prio < x.prio then some q else o) none

/-- Take a frame out of the queue or out of the mirror queue. -/
def mgtTake (m : MgtSt) (q : MgtQ) : MgtSt :=
  if m.queue.contains q then { m with queue := m.queue.erase q }
  else match q.f with
    | .event _ _ _ _ r => { m with mirror := m.mirror.erase r }
    | _ => m

/-- A frame begins; a claim takes its takeover tide with it. -/
def Blk.mgtBegin (b : Blk) (q : MgtQ) : Blk :=
  let f := b.stamp (decide (q.prio = pClaim) && q.deadline.isNone) q.f
  let b := b.modMgt fun m => { m with sending := some { q with f := f }, txEnd := b.now + mgtWire f }
  match f with
  | .claim _ _ _ _ t k => b.modSpare fun s => { s with claim := if s.claim.any fun c => c.1 = t then some (t, k) else s.claim }
  | _ => b

/-- MGT_FRAME_TX (R395). -/
def Blk.mgtSend (b : Blk) : Blk :=
  let m := b.mgt
  if !b.mgtOn || m.sending.isSome || m.backoff.isSome || decide (b.now < m.txEnd + mgtGap) then b
  else match b.mgtNext with
    | some q => (b.modMgt fun m => mgtTake m q).mgtBegin q
    | none => b

/-- MGT_FRAME_TX (R395). -/
def execMgtFrameTx (s : State) : Host.Outcome State Fault Refusal := .next (s.setB s.b.mgtSend)

/-- The frame being sent has ended: it is on the bus (R400). Time alone does this, as the block idles. -/
def Blk.mgtEnd (b : Blk) : Blk :=
  match b.mgt.sending with
  | some q => if b.mgt.txEnd ≤ b.now then (b.modMgt fun m => { m with sending := none, txFrames := satInc 16 m.txFrames }).send (.mgt (b.busBytes q.f)) else b
  | none => b

/-- A bus-failure tide (R397). -/
def Blk.jamTide (b : Blk) (kind : Nat) : Blk :=
  if b.mgt.jamNow.isSome then b
  else
    let first := !b.mgt.jammed
    let b := b.modMgt fun m => { m with jamNow := some kind, jammed := true, jamTides := satInc 16 m.jamTides }
    if first then b.raiseMod 0xD002 kind else b

/-- Is a frame the module's heartbeat? -/
def isHeartbeat : MgtFrame → Bool
  | .heartbeat .. => true
  | _ => false

/-- MGT_COLLISION: jam and back-off over `slots` slot times of the 2^k allowed; after 16 attempts the frame is discarded (R389, R397). -/
def Blk.mgtCollision (b : Blk) (late : Bool) (slots : Nat) : Blk :=
  match b.mgt.sending with
  | none => b
  | some q =>
    let n := q.attempts + 1
    let q := { q with attempts := n }
    let b := b.modMgt fun m => { m with sending := none, txEnd := b.now, collisions := satInc 16 m.collisions, late := if late then satInc 8 m.late else m.late }
    if 16 ≤ n then
      let b := b.modMgt fun m => { m with excessive := satInc 8 m.excessive, txDiscard := satInc 16 m.txDiscard }
      if isHeartbeat q.f then b.jamTide 1 else b
    else b.modMgt fun m => { m with backoff := some (q, b.now + slots % 2 ^ min n 10 * 51200) }

/-- MGT_COLLISION (R389). -/
def execMgtCollision (late : Bool) (slots : Nat) (s : State) : Host.Outcome State Fault Refusal := .next (s.setB (s.b.mgtCollision late slots))

/-- MGT_BACKOFF_EXPIRY: a retry that would end beyond its window waits for the next one (R395). -/
def execMgtBackoffExpiry (s : State) : Host.Outcome State Fault Refusal :=
  match s.b.mgt.backoff with
  | some (q, t) =>
    if t ≤ s.b.now && s.b.mayBegin q.f && !s.b.expired q then .next (s.setB ((s.b.modMgt fun m => { m with backoff := none }).mgtBegin q)) else .next s
  | none => .next s

/-- What has missed its deadline goes, and is counted; a claim waits for the next free window instead (R395). -/
def Blk.dropExpired (b : Blk) : Blk :=
  let old := (b.mgt.queue.filter b.expired) ++ (b.mgt.backoff.toList.map (·.1)).filter b.expired
  let claims := (old.filter fun q => q.prio = pClaim && (match q.f with | .claim .. => true | _ => false)).map fun q => { q with deadline := none, attempts := 0 }
  b.modMgt fun m => { m with
    queue := (m.queue.filter fun q => !b.expired q) ++ claims
    backoff := m.backoff.filter fun x => !b.expired x.1
    txDiscard := satAdd 16 m.txDiscard old.length }

/-- TX_UNDERRUN: the frame ends with its FCS inverted, the threshold rises, and it is queued again if its deadline allows (R396); what is past its deadline goes. -/
def execTxUnderrun (s : State) : Host.Outcome State Fault Refusal :=
  match s.b.mgt.sending with
  | some q =>
    .next (s.setB (Blk.dropExpired (s.b.modMgt fun m => { m with
      sending := none, txEnd := s.b.now, underrun := satInc 16 m.underrun, txThresh := min 1518 (m.txThresh + 64), queue := q :: m.queue })))
  | none => .next s

/-- FRAME_DEADLINE (R395). -/
def execFrameDeadline (s : State) : Host.Outcome State Fault Refusal := .next (s.setB s.b.dropExpired)

/-- BUS_JAMMED: carrier for more than 2 ms (R397). -/
def execBusJammed (s : State) : Host.Outcome State Fault Refusal := .next (s.setB (if s.b.mgtOn then s.b.jamTide 0 else s.b))

/-- HEARTBEAT_SLOT: the slot's phase, or for a free-window sender the window's, has come in an interval whose heartbeat has not been queued (R391, R395). -/
def Blk.heartbeatSlot (b : Blk) : Blk :=
  let start := if b.hbFree then b.freeStart else b.slotStart
  if !b.mgtActive || !tideRuns b.tide || decide (b.intPhase < start) || decide (b.mgt.hbTide = b.intNo + 1) then b
  else
    let b := b.mgtQueue (.heartbeat 0 0 0 0 b.mgt.hbVal b.mgt.hbStatus) (some ((b.intNo + 1) * b.mgt.hbK)) pHeartbeat
    b.modMgt fun m => { m with hbTide := b.intNo + 1 }

/-- HEARTBEAT_SLOT (R391). -/
def execHeartbeatSlot (s : State) : Host.Outcome State Fault Refusal := .next (s.setB s.b.heartbeatSlot)

/-! ### OMP fragments (R394) -/

/-- Bytes of OMP messages are cut in pieces of at most 192. -/
def fragments : Nat → List Nat → List (List Nat)
  | 0, _ => []
  | n + 1, l => if l.length ≤ 192 then [l] else l.take 192 :: fragments n (l.drop 192)

/-- Queue an OMP message for a node of the bus. -/
def Blk.busOmp (b : Blk) (dst msgId : Nat) (bytes : List Nat) : Blk :=
  let l := fragments 255 bytes
  (List.range l.length).foldl (fun b i => b.mgtQueue (.omp dst msgId i (i + 1 = l.length) (l.getD i [])) none pOmp) b

/-- A frame is dropped as malformed. -/
def Blk.badFrame (b : Blk) : Blk := b.modMgt fun m => { m with badFrame := satInc 16 m.badFrame }

/-- A frame is accepted. -/
def Blk.goodFrame (b : Blk) : Blk := b.modMgt fun m => { m with rxFrames := satInc 16 m.rxFrames }

/-- A frame arrives. A row handles the frames of its kind, and any that is no frame of the module's; other modules' mirrored events are accepted and change nothing more
(R390, R398). -/
def Blk.busRow (b : Blk) (l : List Nat) (act : Blk → BusIn → Option Blk) : Blk :=
  if !b.mgtOn then b
  else match b.busIn l with
    | .fcsBad => b.modMgt fun m => { m with fcsErr := satInc 16 m.fcsErr }
    | .bad => b.badFrame
    | .other => b
    | .frame (.event ..) => b.goodFrame
    | x => (act b x).getD b

def isPartial (src msgId : Nat) (p : Partial) : Bool := p.src = src && p.msgId = msgId

/-- Where a whole OMP message ends by its BODY_LEN (R378): the padding of a short last fragment is no part of it. -/
def ompLen (bytes : List Nat) : Nat := 40 + beField bytes 0x10 2

/-- A fragment: the next of a message is added to it; fragment 0 begins one. To the group address goes nothing but IDENTITY (R390, R394). -/
def Blk.ompFragment (b : Blk) (src : Nat) (group : Bool) (msgId frag : Nat) (last : Bool) (bytes : List Nat) : Blk :=
  if 254 < frag || (group && decide (frag ≠ 0 ∨ beField bytes 2 2 ≠ 1)) then b.badFrame
  else
    let part : Option Partial :=
      if frag = 0 then some { src := src, msgId := msgId }
      else (b.mgt.parts.find? (isPartial src msgId)).filter fun p => !p.done && p.next = frag
    match part with
    | some p =>
      let all := p.bytes ++ bytes
      let rest := b.mgt.parts.filter fun x => !isPartial src msgId x
      if last && decide (all.length < ompLen all) then (b.modMgt fun m => { m with parts := rest }).badFrame
      else
        let p := { p with next := frag + 1, bytes := if last then all.take (ompLen all) else all, lastAt := b.now, done := last }
        b.goodFrame.modMgt fun m => { m with parts := rest ++ [p] }
    | none => b.goodFrame

/-- OMP_FRAGMENT (R394). -/
def execOmpFragment (l : List Nat) (s : State) : Host.Outcome State Fault Refusal :=
  .next (s.setB (s.b.busRow l fun b x => match x with
    | .omp src group msgId frag last bytes => some (b.ompFragment src group msgId frag last bytes)
    | _ => none))

/-- FRAGMENT_TIMEOUT: 2 s have passed since a partial message's last fragment (R394). -/
def execFragmentTimeout (src msgId : Nat) (s : State) : Host.Outcome State Fault Refusal :=
  .next (s.setB (s.b.modMgt fun m => { m with parts := m.parts.filter fun p => !(isPartial src msgId p && !p.done && s.b.past p.lastAt 2000000000) }))

end Sys2Proof.Machine
end

