-- ==== Sys2Proof/Machine/Omp.lean ====
section
/-! DEFINITION. OMP: its messages, sessions and roles, and the requests on identity, pans, slots and unlocking (19, R372 to R384). -/
namespace Sys2Proof.Machine
open Sys2Proof

/-! ### Messages (R378) -/

/-- The bytes of a message: header in network byte order, body, TAG. -/
def ompBytes (flags req session status seq msgId rsv : Nat) (body tag : List Nat) : List Nat :=
  [1, flags] ++ beBytes 2 req ++ [session, rsv % 256] ++ beBytes 2 status ++ beBytes 4 seq ++ beBytes 4 msgId ++ beBytes 2 body.length ++
    leBytes 6 (rsv / 256) ++ body ++ tag

/-- A request's bytes with a given TAG. -/
def reqBytes (m : OmpReq) (tag : List Nat) : List Nat :=
  (m.ver % 256) :: (ompBytes m.flags m.req m.session m.status m.seq m.msgId m.rsv m.body tag).drop 1

/-- A TAG of zero. -/
def tagZero : List Nat := List.replicate 16 0

/-- The TAG of a message of a session (R381). -/
def tagFor (key bytes : List Nat) : List Nat := (hmac256 key bytes).take 16

/-- STATUS (R380). -/
def stOk : Nat := 0
def stPanInvalid : Nat := 1
def stPanRemote : Nat := 2
def stAddrInvalid : Nat := 3
def stRsv : Nat := 4
def stReadonly : Nat := 5
def stRole : Nat := 6
def stRefused : Nat := 7
def stBusy : Nat := 8
def stAuth : Nat := 9
def stBadReq : Nat := 10

/-- Request codes (R379). -/
def qIdentity : Nat := 0x0001
def qAttest : Nat := 0x0002
def qPanRead : Nat := 0x0003
def qOpen : Nat := 0x0010
def qConfirm : Nat := 0x0011
def qClose : Nat := 0x0012
def qRegRead : Nat := 0x0020
def qRegWrite : Nat := 0x0021
def qSlotWrite : Nat := 0x0030
def qSlotCheck : Nat := 0x0031
def qSwitch : Nat := 0x0032
def qSeal : Nat := 0x0040
def qErase : Nat := 0x0041
def qUnlock : Nat := 0x0050

/-- Every request code. -/
def reqCodes : List Nat :=
  [qIdentity, qAttest, qPanRead, qOpen, qConfirm, qClose, qRegRead, qRegWrite, qSlotWrite, qSlotCheck, qSwitch, qSeal, qErase, qUnlock]

/-- Is the body as R379 requires: its length, its ranges, its zeros? -/
def bodyOk (req : Nat) (l : List Nat) : Bool :=
  let n := l.length
  let slot := fun (_ : Unit) => decide (fieldAt l 0 1 ≤ 1 ∧ fieldAt l 1 3 = 0)
  if req = qIdentity then n = 8 && decide (fieldAt l 0 1 ≤ 2) && fieldAt l 1 3 = 0
  else if req = qAttest then n = 32
  else if req = qPanRead then n = 4
  else if req = qOpen then n = 36 && fieldAt l 1 3 = 0
  else if req = qConfirm then n = 384
  else if req = qClose then n = 0
  else if req = qRegRead then n = 8 && decide (1 ≤ fieldAt l 4 4 ∧ fieldAt l 4 4 ≤ 16)
  else if req = qRegWrite then n = 8
  else if req = qSlotWrite then
    decide (12 ≤ n) && slot () && decide (1 ≤ fieldAt l 8 4 ∧ fieldAt l 8 4 ≤ 1024 ∧ n = 12 + fieldAt l 8 4 ∧ fieldAt l 4 4 + fieldAt l 8 4 ≤ slotSize)
  else if req = qSlotCheck then n = 4 && slot ()
  else if req = qSwitch then n = 12 && slot () && fieldAt l 10 2 = 0
  else if req = qSeal then n = 16 && fieldAt l 6 2 = 0
  else if req = qErase then n = 12
  else if req = qUnlock then n = 416
  else false

/-- Is the header as R378 requires of a request, and the body as R379 does? -/
def formOk (m : OmpReq) : Bool := m.ver = 1 && m.flags = 0 && m.status = 0 && m.rsv = 0 && reqCodes.contains m.req && bodyOk m.req m.body

/-- The role bit a request needs, beside being of a confirmed session; none for role Any (R377, R379, R382). -/
def roleBit (req : Nat) : Option Nat :=
  if req = qRegWrite then some 0
  else if req = qSlotWrite || req = qSlotCheck || req = qSwitch then some 1
  else if req = qSeal || req = qErase then some 2
  else if req = qUnlock then some 3
  else none

/-- Requests accepted without a session; more of them in RECOVERY (R373, R382). -/
def sessionless (recovery : Bool) (req : Nat) : Bool :=
  req = qIdentity || req = qAttest || req = qPanRead ||
    (if recovery then req = qSlotWrite || req = qSlotCheck || req = qSwitch else req = qOpen)

/-! ### Answering -/

/-- What a request's action leaves: the answer, whether the session closes after it, and the cause of a module reset that follows it. -/
structure OmpReply where
  status : Nat := 0
  body : List Nat := []
  /-- The session number that the answer to OPEN carries. -/
  session : Option Nat := none
  close : Bool := false
  reset : Option Nat := none
  deriving DecidableEq, Repr

/-- Send an answer the way the request came, to the address and port it came from. Messages with SESSION 0, and the answer to OPEN, carry a TAG of zero (R378). -/
def Blk.answer (b : Blk) (m : OmpReq) (session status seq : Nat) (body : List Nat) (key : Option (List Nat)) : Blk :=
  let raw := fun tag => ompBytes 1 m.req session status seq m.msgId 0 body tag
  let bytes := raw (match key with | some k => tagFor k (raw tagZero) | none => tagZero)
  if m.bus then b.busOmp m.src m.msgId bytes else b.emit 0 m.src (.omp m.src m.srcPort bytes)

/-- A response body is sent only with STATUS OK, except for SLOT_CHECK (R379). -/
def replyBody (req : Nat) (r : OmpReply) : List Nat := if r.status = stOk || req = qSlotCheck then r.body else []

def Blk.modSession (b : Blk) (n : Nat) (f : Session → Session) : Blk :=
  b.modSec fun s => { s with sessions := s.sessions.set n (f (s.sessions.get {} n)) }

def Blk.closeSess (b : Blk) (n : Nat) : Blk := b.modSec fun s => { s with sessions := s.sessions.erase n }

/-- A bad message of a session: the sixteenth in a row closes it (R382). -/
def Blk.badMsg (b : Blk) (n : Nat) : Blk :=
  let k := (b.sec.sessions.get {} n).bad + 1
  if 16 ≤ k then b.closeSess n else b.modSession n fun x => { x with bad := k }

/-- A message is dropped on its TAG or SEQ (R382). -/
def Blk.tagFail (b : Blk) : Blk := b.modSec fun s => { s with tagFail := satInc 16 s.tagFail }

/-- An opening fails (R382). -/
def Blk.authFail (b : Blk) (op : Nat) : Blk := (b.modSec fun s => { s with authFail := satInc 16 s.authFail }).raiseMod 0xB004 (op % 256)

/-- Does a message reach the OMP server: over the bus, of which its fragments have come, or in a datagram on HP? In RECOVERY only the bus runs (R373, R378, R394). -/
def Blk.ompHere (b : Blk) (m : OmpReq) : Bool :=
  b.mgtOn && (if m.bus then (b.sec.configured || b.sec.recovery) && b.mgt.parts.any fun p => p.src = m.src && p.done && p.bytes = reqBytes m m.tag
    else b.running && !b.spare.displaced && (b.portOf 0).st = .up && (!(b.portOf 0).cfg.macsec || m.mac = .valid))

/-- A datagram that fails the MACsec check on HP is dropped and counted, whatever it asks (R286). -/
def Blk.ompFrame (b : Blk) (m : OmpReq) : Blk := if m.bus || !b.running then b else (b.frameIn 0 m.mac).1

/-- The message's fragments are used up. -/
def Blk.ompTaken (b : Blk) (m : OmpReq) : Blk :=
  if m.bus then
    match b.mgt.parts.find? fun p => p.src = m.src && p.done && p.bytes = reqBytes m m.tag with
    | some p => b.modMgt fun g => { g with parts := g.parts.erase p }
    | none => b
  else b

/-- The module reset that follows an answer. -/
def State.afterReply (s : State) (r : OmpReply) : State :=
  match r.reset with
  | some c => s.moduleReset c
  | none => s

/-- The action of a request, for the session it came on (0: none). -/
abbrev OmpAct := State → Nat → State × OmpReply

/-- A request without a session (R378, R382). -/
def State.ompBare (s : State) (m : OmpReq) (act : OmpAct) : State :=
  if !formOk m then s.setB (s.b.answer m 0 stBadReq 0 [] none)
  else if !sessionless s.b.sec.recovery m.req then s.setB (s.b.answer m 0 stRole 0 [] none)
  else
    let x := act s 0
    (x.1.setB (x.1.b.answer m (x.2.session.getD 0) x.2.status 0 (replyBody m.req x.2) none)).afterReply x.2

/-- A request of a session that is accepted: its role is checked, its action run, its answer kept and sent (R380, R382). -/
def State.ompAccept (s : State) (m : OmpReq) (n : Nat) (act : OmpAct) : State :=
  let x := s.b.sec.sessions.get {} n
  let roles := ((s.b.cfg.operators[x.op]?).map (·.roles)).getD 0
  let s := s.setB (s.b.modSession n fun x => { x with seq := m.seq, bad := 0, lastAt := s.b.now })
  let r : State × OmpReply :=
    if !formOk m then (s, { status := stBadReq })
    else if (roleBit m.req).any fun k => !bitAt roles k then (s, { status := stRole })
    else act s n
  let body := replyBody m.req r.2
  let b := r.1.b.answer m n r.2.status m.seq body (some x.key)
  let b := if r.2.close then b.closeSess n
    else b.modSession n fun y => { y with last := some (reqBytes m m.tag, r.2.status, body) }
  (r.1.setB b).afterReply r.2

/-- A request of a session (R380 to R382). -/
def State.ompSession (s : State) (m : OmpReq) (act : OmpAct) : State :=
  let b := s.b
  match b.sec.sessions.find m.session with
  | none => s.setB b.tagFail
  | some x =>
    if m.tag ≠ tagFor x.key (reqBytes m tagZero) then s.setB (b.tagFail.badMsg m.session)
    else if !x.confirmed && m.req ≠ qConfirm && m.req ≠ qClose then
      s.setB ((b.answer m m.session stAuth 0 [] (some x.key)).badMsg m.session)
    else if m.seq = x.seq + 1 then s.ompAccept m m.session act
    else match x.last with
      | some (bytes, status, body) =>
        if m.seq = x.seq && bytes = reqBytes m m.tag then
          s.setB ((b.modSession m.session fun y => { y with bad := 0, lastAt := b.now }).answer m m.session status m.seq body (some x.key))
        else s.setB (b.tagFail.badMsg m.session)
      | none => s.setB (b.tagFail.badMsg m.session)

/-- A request arrives, and passes the MACsec check where HP asks for one (R286). A row handles the requests of its code, and any whose code is unknown; a message that is itself a response is dropped. -/
def State.omp (s : State) (m : OmpReq) (code : Nat) (act : OmpAct) : State :=
  if m.req ≠ code && reqCodes.contains m.req then s
  else if !s.b.ompHere m then s.setB (s.b.ompFrame m)
  else
    let s := s.setB (s.b.ompTaken m)
    if bitAt m.flags 0 then s
    else if m.session = 0 then s.ompBare m act
    else s.ompSession m act

/-- An action on everything but memory. -/
def onBlk (f : Blk → Nat → Blk × OmpReply) : OmpAct := fun s n => ((s.setB (f s.b n).1), (f s.b n).2)

/-! ### IDENTITY, ATTEST, PAN_READ (R14, R15, R23, R375, R376) -/

/-- IDENTITY: the serial, and up to 3,072 bytes of the certificate of the identity key or the image key. -/
def identityReply (sec : SecSt) (l : List Nat) : OmpReply :=
  let cert := if fieldAt l 0 1 = 0 then [] else if fieldAt l 0 1 = 1 then sec.identKey.cert else sec.imageKey.cert
  let piece := (cert.drop (fieldAt l 4 4)).take 3072
  { body := leBytes 8 sec.serial ++ leBytes 4 cert.length ++ leBytes 4 piece.length ++ piece }

/-- IDENTITY (R375, R379). -/
def execIdentity (m : OmpReq) (s : State) : Host.Outcome State Fault Refusal :=
  .next (s.omp m qIdentity (onBlk fun b _ => (b, identityReply b.sec m.body)))

/-- ATTEST (R376, R379). -/
def execAttest (m : OmpReq) (salt : Nat) (s : State) : Host.Outcome State Fault Refusal :=
  .next (s.omp m qAttest (onBlk fun b _ => (b, { body := b.reportBytes m.body salt })))

/-- The active positions of the torus (R13, R295). -/
def Blk.positions (b : Blk) : List Nat := List.range ((b.cfg.torus.len.foldl (· * ·) 1))

/-- A position's STATE code as this module sees it: its own, what its last heartbeat frame said, or FAULT where it is missing (R14, R18). -/
def Blk.posWord (b : Blk) (p : Nat) : Nat :=
  if p = b.pos then b.statusOf modulePan
  else match b.mgt.peers.find p with
    | some x => if x.heard && !x.declared then x.status else PState.fault.code * 2 ^ 28
    | none => PState.fault.code * 2 ^ 28

/-- The spares that stand by: those heard, and this module (R14, R20). R352 watches active positions only, and no rule says when a standing spare that falls silent stops
counting: DESIGN CHOICE, it goes on counting (log 47). -/
def Blk.sparesHeard (b : Blk) : List Nat :=
  (if b.isSpare then [b.pos] else []) ++ (b.mgt.peers.filter fun e => e.2.heard && !e.2.declared && bits e.2.status 28 4 = PState.spare.code).map (·.1)

/-- A pan state by its code. -/
def stateOfCode (n : Nat) : PState :=
  match n with
  | 1 => .reset
  | 2 => .init
  | 3 => .ready
  | 4 => .busy
  | 5 => .calib
  | 6 => .spare
  | 7 => .fault
  | 8 => .retired
  | _ => .off

/-- A position's capacity summary. -/
def Blk.posWords (b : Blk) (p : Nat) : List Nat :=
  if p = b.pos then b.capacityOf modulePan
  else match b.mgt.peers.find p with
    | some x => if x.heard && !x.declared then x.capacity else []
    | none => []

/-- The cluster pan's capacity summary: the active modules' sum, and the spares that stand by (R20). -/
def Blk.clusterWords (b : Blk) : List Nat :=
  (sumWords ((b.positions.map b.posWords).filter fun w => !w.isEmpty)).take 15 ++ [b.sparesHeard.length]

/-- The cluster pan's status word (R14, R16, R18). -/
def Blk.clusterStatus (b : Blk) : Nat :=
  let ws := b.positions.map b.posWord ++ b.sparesHeard.map fun p => (if p = b.pos then b.statusOf modulePan else ((b.mgt.peers.find p).map (·.status)).getD 0)
  let sts := ws.map fun w => stateOfCode (bits w 28 4)
  let c := b.clusterWords
  let x := b.panSt clusterPan
  statusWord (groupState false sts) (c.getD 11 0 = 0 || c.getD 12 0 = 0 || c.getD 13 0 = 0 || c.getD 15 0 = 0) (ws.any fun w => bitAt w 26) (ws.any fun w => bitAt w 25)
    x.hbLate x.cause (sts.filter countsMember).length sts.length

/-- Status word, heartbeat and capacity summary in one answer (R23). -/
def panBody (status hb : Nat) (words : List Nat) : List Nat := leBytes 4 status ++ leBytes 2 hb ++ leBytes 2 0 ++ words.flatMap (leBytes 4)

/-- PAN_READ of an address (R14, R15). -/
def Blk.panReply (b : Blk) (a : Nat) : OmpReply :=
  match panRef b.pos a with
  | .invalid => { status := stPanInvalid }
  | .remote => { status := stPanRemote }
  | .own p => { body := panBody (b.statusOf p) (b.panSt p).hb (b.capacityOf p) }
  | .cluster => { body := panBody b.clusterStatus (b.panSt clusterPan).hb b.clusterWords }

/-- PAN_READ (R23). -/
def execPanRead (m : OmpReq) (s : State) : Host.Outcome State Fault Refusal :=
  .next (s.omp m qPanRead (onBlk fun b _ => (b, b.panReply (fieldAt m.body 0 4))))

/-! ### Sessions (R381, R382) -/

/-- The nonce and the wrapped key of an answer to OPEN. -/
def openBody (d : OpenDraw) (modulus : Nat) : List Nat := leBytes 32 d.nonce ++ oaepSeal modulus (leBytes 32 d.key) (leBytes 32 d.seed)

/-- What both sides sign: the answer to OPEN up to the wrapped key, header included, and the host nonce. -/
def openSigned (m : OmpReq) (n : Nat) (d : OpenDraw) (modulus : Nat) : List Nat :=
  (ompBytes 1 qOpen n stOk 0 m.msgId 0 (openBody d modulus ++ List.replicate 384 0) []).take 24 ++ openBody d modulus ++ m.body.drop 4

/-- OPEN: the lowest free session number is opened for the operator, with a fresh session key that is encrypted under the operator's and a signature of the identity key. -/
def Blk.openReply (b : Blk) (m : OmpReq) (d : OpenDraw) : Blk × OmpReply :=
  let op := fieldAt m.body 0 1
  match b.cfg.operators[op]? with
  | none => (b.authFail op, { status := stAuth })
  | some o => match (List.range 8).find? fun i => !b.sec.sessions.has (i + 1) with
    | none => (b, { status := stBusy })
    | some i =>
      let signed := openSigned m (i + 1) d o.modulus
      let x : Session := { op := op, key := leBytes 32 d.key, signed := signed, lastAt := b.now }
      (b.modSec fun s => { s with sessions := s.sessions.set (i + 1) x },
        { body := openBody d o.modulus ++ sigMake b.sec.identKey signed (leBytes 32 d.salt), session := some (i + 1) })

/-- OPEN (R381). It belongs to no session: on one it is refused. -/
def execOpen (m : OmpReq) (d : OpenDraw) (s : State) : Host.Outcome State Fault Refusal :=
  .next (s.omp m qOpen (onBlk fun b n => if n = 0 then b.openReply m d else (b, { status := stRefused })))

/-- CONFIRM: the operator's signature over the bytes of the opening. -/
def Blk.confirmReply (b : Blk) (n : Nat) (sig : List Nat) : Blk × OmpReply :=
  let x := b.sec.sessions.get {} n
  if x.confirmed then (b, { status := stRefused })
  else match b.cfg.operators[x.op]? with
    | some o =>
      if sigVerifies o.modulus x.signed (ofLeBytes sig.reverse) then (b.modSession n fun y => { y with confirmed := true }, {})
      else (b.authFail x.op, { status := stAuth, close := true })
    | none => (b.authFail x.op, { status := stAuth, close := true })

/-- CONFIRM (R381, R382). -/
def execConfirm (m : OmpReq) (s : State) : Host.Outcome State Fault Refusal :=
  .next (s.omp m qConfirm (onBlk fun b n => b.confirmReply n m.body))

/-- CLOSE (R382). -/
def execCloseSession (m : OmpReq) (s : State) : Host.Outcome State Fault Refusal :=
  .next (s.omp m qClose (onBlk fun b _ => (b, { close := true })))

/-- SESSION_TIMEOUT: 60 s without a valid message (R382). -/
def execSessionTimeout (session : Nat) (s : State) : Host.Outcome State Fault Refusal :=
  match s.b.sec.sessions.find session with
  | some x => if s.b.past x.lastAt 60000000000 then .next (s.setB (s.b.closeSess session)) else .next s
  | none => .next s

/-! ### Slots (R372) -/

/-- SLOT_WRITE: the first write clears VALID and erases the slot. -/
def Blk.slotWrite (b : Blk) (l : List Nat) : Blk × OmpReply :=
  let n := fieldAt l 0 1
  let running := b.sec.configured && n = b.sec.slot
  if running || b.sec.switchPend = some n then (b, { status := stBusy })
  else
    let x := slotOf b.sec n
    let x : SlotSt := if x.writing then x else { writing := true }
    let x := { x with bytes := flashWriteBytes x.bytes (fieldAt l 4 4) (l.drop 12) }
    (b.modSec fun s => setSlot s n x, {})

/-- SLOT_WRITE (R372). -/
def execSlotWrite (m : OmpReq) (s : State) : Host.Outcome State Fault Refusal :=
  .next (s.omp m qSlotWrite (onBlk fun b _ => b.slotWrite m.body))

/-- SLOT_CHECK: the slot is verified, and VALID is set where it passes (R369, R372). A scheduled or running slot that fails keeps its mark. -/
def Blk.slotCheck (b : Blk) (n pos : Nat) : Blk × OmpReply :=
  let x := slotOf b.sec n
  let b := b.modSec fun s => setSlot s n { x with writing := false }
  match readImage b.store.pkgs b.sec (slotOf b.sec n) pos with
  | .accept _ => (b.modSec fun s => setSlot s n { x with writing := false, valid := true }, { body := [0, 0] ++ leBytes 2 0xFFFF })
  | .refuse r i => (b.imageRefused n r i, { status := stRefused, body := [r, 0] ++ leBytes 2 i })

/-- SLOT_CHECK (R372, R379). -/
def execSlotCheck (m : OmpReq) (pos : Nat) (s : State) : Host.Outcome State Fault Refusal :=
  .next (s.omp m qSlotCheck (onBlk fun b _ => b.slotCheck (fieldAt m.body 0 1) pos))

/-! ### UNLOCK (R384) -/

/-- Is an unlock token good for this module and boot? -/
def Blk.tokenOk (b : Blk) (l : List Nat) : Bool :=
  let level := fieldAt l 4 2
  let msg := l.take 32
  let sig := ofLeBytes (l.drop 32).reverse
  fieldAt l 0 4 = 0x4B4C4E55 && fieldAt l 6 2 = 0 && fieldAt l 20 12 = 0 && fieldAt l 8 8 = b.sec.serial && fieldAt l 16 4 = b.rst.moduleResets &&
    ((decide (level = 1 ∨ level = 2) && sigVerifies b.cfg.rootN msg sig) || (level = 1 && sigVerifies b.cfg.ownerN msg sig))

/-- UNLOCK: the level is recorded and a module reset follows. -/
def Blk.unlockReply (b : Blk) (l : List Nat) : Blk × OmpReply :=
  if b.tokenOk l then (b.modSec fun s => { s with unlockNext := fieldAt l 4 2 }, { reset := some causeUnlock }) else (b, { status := stRefused })

/-- UNLOCK (R384). -/
def execUnlock (m : OmpReq) (s : State) : Host.Outcome State Fault Refusal :=
  .next (s.omp m qUnlock (onBlk fun b _ => b.unlockReply m.body))

end Sys2Proof.Machine
end

