-- ==== Sys2Proof/Machine/Regs.lean ====
section
/-! DEFINITION. The register map: addresses, what each register reads, and what a read clears or captures (R6, R414 to R420). -/
namespace Sys2Proof.Machine
open Sys2Proof

/-! ### Addresses (R414, R415, R419) -/

/-- The blocks, as bits [27:24] of an address number them. -/
inductive RegBlock where
  | id | hub | tide | slu | ctx | num | lnk | mem | mon | tst | mgt | rst | sec
  deriving DecidableEq, Repr

/-- Every block, in the order of their bases. -/
def regBlocks : List RegBlock := [.id, .hub, .tide, .slu, .ctx, .num, .lnk, .mem, .mon, .tst, .mgt, .rst, .sec]

/-- A register: its block, the pan of its instance, its offset. -/
structure RegRef where
  block : RegBlock
  pan : Pan
  off : Nat
  deriving DecidableEq, Repr

/-- Offsets from `a` on, `n` words. -/
def words (a n : Nat) : List Nat := (List.range n).map fun i => a + 4 * i

/-- Is a pan the instance of the gauge sums: an ME kind group, a compute die, the module (R196)? -/
def isGaugeSum (p : Pan) : Bool :=
  p = modulePan || (panDie p < 4 && (panShape p = some .die || (panShape p = some .kind && panKind p = kME)))

/-- Gauge registers: SMP, MIS, SKIP and MAX of the nine classes, the sampling exponent, the thresholds. -/
def gaugeOffs : List Nat := words 0 36 ++ [0x90] ++ words 0xA0 9

/-- The offsets of a block's registers in a pan's instance. -/
def regOffs (blk : RegBlock) (p : Pan) : List Nat :=
  let hub := p = hubPan
  let leaf := panShape p = some .leaf
  match blk with
  | .id => if p = modulePan then words 0 12 else []
  | .hub => if hub then words 0 5 else []
  | .tide => if hub then words 0 9 else if leaf then [0x80] else []
  | .slu => if hub then words 0 13 ++ words 0x40 8 else []
  | .ctx => if hub then words 0 12 ++ words 0x40 4 ++ [0x50, 0x54, 0x58, 0x60, 0x64] else []
  | .num => if hub then words 0 7 ++ words 0x40 9 else if (leaf && panKind p = kME) || isGaugeSum p then gaugeOffs else []
  | .lnk => if hub then words 0 5 ++ words 0x40 32
      else if leaf && panKind p = kLP then words 0 8 ++ words 0x100 9
      else if leaf && panKind p = kCE then words 0 5 else []
  | .mem => if isMc p then words 0 10 else []
  | .mon => if hub then words 0 5 ++ words 0x100 64 ++ words 0x200 16 ++ words 0x280 16 else []
  | .tst => if hub then words 0 17 else []
  | .mgt => if hub then words 0 7 else []
  | .rst => if hub then words 0 7 else []
  | .sec => if hub then words 0 9 else []

/-- What a register address names. -/
inductive RegAddr where
  | badPan | none
  | reg (r : RegRef)
  deriving DecidableEq, Repr

/-- Read a register address (R414 to R416). -/
def regAddr (a : Nat) : RegAddr :=
  let p := bits a 8 16 * 256
  if (panShape p).isNone then .badPan
  else match regBlocks[bits a 24 4]? with
    | some k =>
      let off := bits a 0 8 + bits a 28 4 * 256
      if (regOffs k p).contains off then .reg { block := k, pan := p, off := off } else .none
    | none => .none

/-- `n` registers at consecutive addresses: none where a read would leave the instance or meet no register. -/
def regRun (a n : Nat) : Option (List RegRef) :=
  if 256 < bits a 0 8 + 4 * n then none
  else (List.range n).mapM fun i => match regAddr (a + 4 * i) with
    | .reg r => some r
    | _ => none

/-! ### Values -/

/-- A word from its fields: lowest bit, width, value. -/
def pack (l : List (Nat × Nat × Nat)) : Nat := (l.map fun f => f.2.2 % 2 ^ f.2.1 * 2 ^ f.1).sum

/-- A signed number as `w` bits of two's complement. -/
def signedBits (w : Nat) (x : Int) : Nat := (x % (2 ^ w : Nat)).toNat

/-- The identification registers (R418). -/
def idRegs : List Nat :=
  [0x00511024, 0x000400B0, 0x20102040, 0x10000200, 0x00080000, 0x00080000, 0xF0000100, 0x10000400, 0x80004000, 0x80008040, 0x07084008, 0x025800FA]

def tideCode : TideState → Nat
  | .acquire => 0 | .locked => 1 | .holdover => 2 | .lost => 3

def srcCode : TideSrc → Nat
  | .none => 0 | .ptp => 1 | .tideIn => 2 | .beacon => 3

/-- TIDE registers (R45 to R47). PHASE reads 0 while NUM_SET is 0, where R46 gives the register no such exception: DESIGN CHOICE, it reads its reset value until there is a
tide; events and calls carry the running phase (log 52). -/
def Blk.tideReg (b : Blk) (p : Pan) (off : Nat) : Nat :=
  let t := b.tide
  let phase := if t.numSet then b.phase else 0
  match off with
  | 0x00 => pack [(28, 4, tideCode t.st), (26, 2, srcCode t.src), (25, 1, b2n t.numSet), (24, 1, b2n t.beaconTx), (23, 1, b2n (srcGood t .ptp)),
      (22, 1, b2n (srcGood t .tideIn)), (21, 1, b2n (srcGood t .beacon)), (20, 1, b2n t.stuck), (19, 1, b2n t.stuckSeen), (18, 1, b2n t.srcRej),
      (17, 1, b2n t.beaconDup), (16, 1, b2n ((slewTide t b.now).slewLeft ≠ 0))]
  | 0x04 => t.num % 2 ^ 32
  | 0x08 => t.num / 2 ^ 32 % 2 ^ 16
  | 0x0C => phase % 2 ^ 27
  | 0x10 => t.period % 2 ^ 27
  | 0x14 => signedBits 32 t.offset
  | 0x18 => pack [(16, 16, t.holdLimit), (0, 16, t.holdCnt)]
  | 0x1C => pack [(24, 8, t.tideOvr), (16, 8, t.tinMiss), (8, 8, t.tinOow), (0, 8, t.tinGlitch)]
  | 0x20 => pack [(16, 16, t.refused), (0, 10, 512 - t.sched.length)]
  | _ =>
    let x := b.xingOf p
    pack [(31, 1, b2n x.ovr), (30, 1, b2n x.clkStop), (16, 8, x.flushCnt), (0, 16, x.mergeCnt)]

/-- HUB registers (R362). -/
def Blk.hubReg (b : Blk) (off : Nat) : Nat :=
  let r := b.rst
  match off with
  | 0x00 => pack [(31, 1, activeHc r), (28, 3, r.hc0.code), (25, 3, r.hc1.code), (24, 1, b2n r.handover)]
  | 0x04 => r.fwAct % 2 ^ 32
  | 0x08 => r.fwStby % 2 ^ 32
  | 0x0C => pack [(16, 16, r.missedWin), (0, 16, r.switchovers)]
  | _ => pack [(24, 8, b.cfg.mod.silentTides), (16, 8, r.lastSilent), (0, 16, r.declared)]

/-- SLU registers (R182 to R184). -/
def Blk.sluReg (b : Blk) (off : Nat) : Nat :=
  let s := b.slu
  let q := (off - 0x40) / 4
  match off with
  | 0x00 => pack [(31, 1, b2n s.policyOk), (30, 1, b2n (b.ctxs.any fun e => e.2.returning)), (29, 1, b2n s.deadlineMiss), (28, 1, b2n s.noSpace),
      (27, 1, b2n s.offloadSkip), (0, 9, s.migs.length)]
  | 0x04 => pack [(24, 8, b.cfg.slu.ceilPct), (16, 8, b.cfg.slu.retRate)]
  | 0x08 => s.moves
  | 0x0C => s.stagedCnt
  | 0x10 => s.prefetched
  | 0x14 => s.aborted % 2 ^ 16
  | 0x18 => pack [(16, 12, ((List.range 4).map b.stagedOn).sum), (0, 12, ((List.range 4).map b.freeSram).sum)]
  | 0x1C => b.freeT1 % 2 ^ 18
  | 0x20 => b.freeT2 % 2 ^ 19
  | 0x24 => (s.map.filter fun e => e.2.offloaded).length % 2 ^ 19
  | 0x28 => pack [(16, 16, s.lateCnt), (0, 16, s.skipCnt)]
  | 0x2C => pack [(16, 16, s.opsPeak), (0, 16, s.opsNow)]
  | 0x30 => s.stallUs
  | _ => pack [(16, 16, b.cfg.slu.minOps.getD q 2048), (0, 16, s.opsQ q)]

/-- Programs of a context that run, all of them or those of GENERATE. -/
def Blk.progsOf (b : Blk) (ctx : Nat) (gen : Bool) : Nat :=
  (b.rk.filter fun e => match e.2.prog with
    | some p => p.ctx = ctx && (!gen || p.phase = .generate)
    | none => false).length

/-- Bytes in use of a receive slot, in percent (R340). -/
def Blk.slotPct (b : Blk) (used : Nat) : Nat := min 100 (used * 100 / max 1 b.slotBytes)

/-- Contexts that a fill works on (R336, R340). -/
def Blk.fills (b : Blk) : Nat := if b.spare.adopted.isNone then 0 else (b.ctxs.filter fun e => e.2.st = .restoring).length

/-- CTX registers of a selected context (R231, R252, R340). -/
def Blk.ctxReg (b : Blk) (x : Session) (off : Nat) : Nat :=
  let n := x.ctxSel
  let c := b.ctx n
  let waits := fun (k : Buf) => k.st = .waiting
  match off with
  | 0x00 => n
  | 0x04 => pack [(29, 3, c.st.code), (26, 3, c.qos), (22, 4, c.tdStep)]
  | 0x08 => pack [(24, 8, c.fault.cause), (16, 8, c.fault.more), (0, 1, b2n c.fault.valid)]
  | 0x0C => c.fault.pan % 2 ^ 32
  | 0x10 => c.fault.seq % 2 ^ 32
  | 0x14 => c.fault.addr % 2 ^ 32
  | 0x18 => c.fault.addr / 2 ^ 32 % 2 ^ 32
  | 0x1C => c.sent
  | 0x20 => pack [(16, 16, c.merged), (0, 16, c.dropped)]
  | 0x24 => c.lateDrop
  | 0x28 => c.tdUs
  | 0x2C => pack [(11, 11, (b.ctxs.filter fun e => e.2.st = .active).length), (0, 11, (b.ctxs.filter fun e => e.2.st = .quarantine).length)]
  | 0x40 => pack [(31, 1, b2n (ctxLives c.st && c.rec_.sched.isSome)), (30, 1, b2n (decide (c.phase = .learn))),
      (29, 1, b2n (decide (c.phase = .learn) && decide (0 < b.progsOf n true))), (28, 1, b2n c.barrier), (0, 16, b.progsOf n false)]
  | 0x44 => pack [(30, 2, c.buf0.st.code), (29, 1, b2n c.buf0.drained), (27, 2, c.buf1.st.code), (26, 1, b2n c.buf1.drained),
      (25, 1, b2n ((waits c.buf0 && !c.buf0.drained) || (waits c.buf1 && !c.buf1.drained))),
      (24, 1, b2n ((waits c.buf0 && b.referred n 0) || (waits c.buf1 && b.referred n 1))), (16, 8, c.refused), (0, 16, c.waitTides)]
  | 0x48 => (bufOf c (currentBuf c)).ver % 2 ^ 32
  | 0x4C => (bufOf c (currentBuf c)).ver / 2 ^ 32 % 2 ^ 16
  | 0x50 => pack [(28, 4, if c.st = .restoring then c.hrv.restoreStep else 0), (24, 4, c.hrv.halt), (16, 8, c.hrv.copyBad), (0, 16, c.hrv.cowWait)]
  | 0x54 => c.hrv.safeStep % 2 ^ 32
  | 0x58 => c.hrv.safeStep / 2 ^ 32 % 2 ^ 32
  | 0x60 => pack [(31, 1, b2n b.cfg.hrv.spare), (30, 1, b2n (decide (0 < b.fills))), (29, 1, b2n b.spare.displaced), (16, 8, b.cfg.hrv.sparePos),
      (8, 8, b.spare.adopted.getD 0xFF), (0, 8, b.fills - 1)]
  | _ => pack [(24, 8, b.slotPct b.spare.slot0), (16, 8, b.slotPct b.spare.slot1), (8, 8, b.spare.destFail), (0, 8, b.spare.areaFull)]

/-- The flags of a context as NUM_FLAGS orders them (R200). -/
def flagWord (f : NumFlags) : Nat :=
  pack [(6, 1, b2n f.permRange), (5, 1, b2n f.accInv), (4, 1, b2n f.accNan), (3, 1, b2n f.accOvf), (2, 1, b2n f.valInv), (1, 1, b2n f.valOvf), (0, 1, b2n f.subnFlushed)]

/-- The gauge statistics of a class over the engines of a pan (R196). -/
def Blk.gaugeOf (b : Blk) (p : Pan) (cls : Nat) : GaugeStat :=
  let l := ((leavesOf p).filter fun q => panKind q = kME && panDie q < 4).map fun q => (b.meOf (unitNo q)).stat.get {} cls
  l.foldl (fun a g => { samples := satAdd 32 a.samples g.samples, mismatch := satAdd 32 a.mismatch g.mismatch, skip := satAdd 16 a.skip g.skip,
                        defer := satAdd 16 a.defer g.defer, maxdist := max a.maxdist g.maxdist }) {}

/-- NUM registers (R200, R201). -/
def Blk.numReg (b : Blk) (x : Session) (p : Pan) (off : Nat) : Nat :=
  if p = hubPan then
    let n := x.numSel % 1024
    let c := b.ctx n
    match off with
    | 0x00 => x.numSel
    | 0x04 => flagWord c.flags
    | 0x08 => match if ctxLives c.st then tensorRegion c (x.numSel / 2 ^ 16) else none with
      | some r =>
        let st := c.regions.get {} (x.numSel / 2 ^ 16)
        pack [(31, 1, 1), (24, 4, r.cls), (20, 4, st.recipe), (0, 16, st.zrun)]
      | none => 0
    | 0x0C => c.step % 2 ^ 32
    | 0x10 => c.step / 2 ^ 32 % 2 ^ 32
    | 0x14 => c.pos % 2 ^ 32
    | 0x18 => c.pos / 2 ^ 32 % 2 ^ 16
    | _ => b.cfg.num.zrThr.getD ((off - 0x40) / 4) 0 % 2 ^ 16
  else if off = 0x90 then b.cfg.num.gaugeN % 32
  else if 0xA0 ≤ off then
    let i := (off - 0xA0) / 4
    pack [(16, 4, b.cfg.num.cmpFmt.getD i 0), (0, 16, b.cfg.num.gThr.getD i 0)]
  else
    let g := b.gaugeOf p (off / 16)
    match off % 16 with
    | 0x0 => g.samples
    | 0x4 => g.mismatch
    | 0x8 => pack [(16, 16, g.skip), (0, 16, g.defer)]
    | _ => g.maxdist % 2 ^ 16

/-- The collective that an engine runs. -/
def Blk.runsOn (b : Blk) (e : Nat) : Option Coll := b.colls.find? fun c => c.engine = some e && collOpen c

/-- LNK registers of a port (R282, R294). -/
def Blk.portReg (b : Blk) (port off : Nat) : Nat :=
  let p := b.portOf port
  match off with
  | 0x00 => pack [(28, 4, p.st.code), (26, 2, p.rate), (25, 1, b2n p.macsecUp), (24, 1, b2n p.rateLow), (23, 1, b2n p.loopOk), (20, 3, p.reason),
      (16, 4, p.lanes), (0, 16, p.lastMs)]
  | 0x04 => pack [(0, 1, b2n p.cfg.enable), (1, 1, b2n p.cfg.kr), (2, 2, p.cfg.rateSel), (4, 1, b2n p.cfg.macsec)]
  | 0x08 => 0
  | 0x0C => p.corrCw
  | 0x10 => p.ucw
  | 0x14 => pack [(16, 16, p.downCnt), (0, 16, p.retrainCnt)]
  | 0x18 => pack [(16, 16, p.icvFail), (0, 16, p.unprotDrop)]
  | 0x1C => pack [(16, 16, p.pauseRx), (0, 16, p.otherDrop)]
  | 0x100 => pack [(16, 16, p.crcErr), (0, 16, p.badHdr)]
  | 0x104 => pack [(16, 16, p.unkDrop), (0, 16, p.unknown)]
  | 0x108 => pack [(16, 16, p.badAck), (0, 16, p.dupDrop)]
  | 0x10C => pack [(16, 16, p.nakTx), (0, 16, p.nakRx)]
  | 0x110 => p.retx
  | 0x114 => pack [(16, 16, p.timeouts), (0, 16, p.cancelTx)]
  | 0x118 => p.ceRx
  | 0x11C => pack [(24, 8, b.retxBytes port / 2 ^ 20), (16, 8, p.retxPeak), (0, 16, p.holdDrop)]
  | _ => pack [(17, 15, b.recsOn (portDie port)), (0, 16, p.recExpired)]

/-- LNK registers of a collective engine (R317). -/
def Blk.ceReg (b : Blk) (e off : Nat) : Nat :=
  let x := b.ceOf e
  match off with
  | 0x00 => match b.runsOn e with
    | some c => pack [(28, 4, if c.waitAt.isSome then 2 else 1), (16, 10, c.ctx), (0, 16, c.group)]
    | none => 0
  | 0x04 => x.done
  | 0x08 => pack [(16, 16, x.aborts), (0, 8, x.lastReason)]
  | 0x0C => pack [(16, 16, x.rereq), (0, 16, x.heldBusy)]
  | _ => x.waitUs

/-- Has this member reported for a permutation? -/
def permReported (c : Coll) : Bool :=
  match c.st with
  | .reported => true
  | .waiting => true
  | .running => true
  | _ => false

/-- LNK registers of the hub (R317). -/
def Blk.grpReg (b : Blk) (x : Session) (off : Nat) : Nat :=
  let n := bits x.grpSel 16 10
  let g := x.grpSel % 2 ^ 16
  let c := b.ctx n
  match off with
  | 0x00 => x.grpSel
  | 0x04 => match b.groupOf g with
    | some r => pack [(31, 1, 1), (24, 4, r.axis), (16, 8, r.members.length), (8, 8, b.rankIn r)]
    | none => 0
  | 0x08 => c.epoch % 2 ^ 32
  | 0x0C => c.collSeq.get 0 g % 2 ^ 23
  | 0x10 => pack [(31, 1, b2n (b.permReq n).isSome), (30, 1, b2n ((b.permReq n).any permReported)), (0, 16, b.oldOpen n)]
  | _ =>
    let q := c.queues.get {} ((off - 0x40) / 8)
    if off % 8 = 0 then q.prodStall else q.consStall

/-- MEM registers (R157 to R159). -/
def Blk.memReg (b : Blk) (p : Pan) (off : Nat) : Nat :=
  let m := b.mcOf p
  match off with
  | 0x00 => pack [(28, 4, mcKind p), (26, 2, m.rate), (25, 1, b2n m.keyReady), (24, 1, b2n m.inCalib), (23, 1, b2n m.rakeActive), (22, 1, b2n m.ueHeld)]
  | 0x04 => mcMib p
  | 0x08 => m.ceCnt
  | 0x0C => m.ueCnt % 2 ^ 16
  | 0x10 => m.ueAddr % 2 ^ 32
  | 0x14 => pack [(16, 16, m.ueCtx), (0, 16, m.ueAddr / 2 ^ 32)]
  | 0x18 => pack [(24, 8, mcPct p m), (16, 8, m.lanesUsed), (0, 16, m.rowsUsed)]
  | 0x1C => pack [(16, 16, m.period), (8, 8, m.passPct), (0, 8, m.lateCnt)]
  | 0x20 => 0
  | _ => pack [(16, 16, m.slotsDone), (8, 8, m.failCnt), (0, 8, m.lastUs)]

/-- The hottest junction site sampled since reset, the lowest-numbered of equals (R412). -/
def Blk.hottest (b : Blk) : Option (Nat × Int) :=
  (List.range 56).foldl (fun o i =>
    let s := b.mon.sites.get {} i
    if !s.valid then o else match o with
      | some x => if x.2 < s.tempC then some (i, s.tempC) else o
      | none => some (i, s.tempC)) none

/-- MON registers (R412). -/
def Blk.monReg (b : Blk) (off : Nat) : Nat :=
  let m := b.mon
  if off < 0x100 then match off with
    | 0x00 =>
      let h := b.hottest
      pack [(30, 2, m.op), (28, 2, m.target), (27, 1, b2n m.changing), (26, 1, b2n (h.any fun x => decide (100 ≤ x.2))), (25, 1, b2n m.voltWarn),
        (24, 1, b2n (m.sites.any fun e => e.2.failed)), (16, 8, (h.map (·.1)).getD 0), (8, 8, (h.map fun x => signedBits 8 x.2).getD 0)]
    | 0x04 => pack [(25, 1, b2n m.capRej), (24, 1, b2n m.capSrc), (0, 10, m.capW)]
    | 0x08 => pack [(16, 16, m.peakW), (0, 16, m.powerW)]
    | 0x0C => pack [(16, 16, m.opChanges), (0, 16, m.overTides)]
    | _ => pack [(16, 16, m.trips), (8, 8, m.lastSite), (0, 8, m.lastC)]
  else if off < 0x200 then
    let s := m.sites.get {} ((off - 0x100) / 4)
    pack [(31, 1, b2n s.valid), (30, 1, b2n s.failed), (8, 8, (s.maxC.map (signedBits 8)).getD 0), (0, 8, signedBits 8 s.tempC)]
  else if off < 0x280 then
    let r := m.rails.get {} ((off - 0x200) / 4)
    pack [(31, 1, b2n r.warn), (30, 1, b2n r.fault), (0, 16, r.mv)]
  else
    let d := (off - 0x280) / 4
    pack [(16, 16, m.factory.get 0 d), (0, 16, m.nowCnt.get 0 d)]

/-- TST registers (R413). -/
def Blk.tstReg (b : Blk) (off : Nat) : Nat :=
  let t := b.tst
  match off with
  | 0x00 => pack [(31, 1, b2n t.enable), (30, 1, b2n t.active), (29, 1, b2n t.allCtx)]
  | 0x04 => t.seed
  | 0x28 => t.fabric
  | 0x2C => t.mem
  | 0x30 => t.port
  | 0x34 => t.xing
  | 0x38 => t.drop
  | 0x3C => t.reord
  | 0x40 => t.cnt
  | _ => t.ctxs.get 0 ((off - 8) / 4)

/-- MGT_STATUS.STATE (R400). -/
def Blk.mgtState (b : Blk) : Nat := if !b.mgtOn then 0 else if b.mgt.jammed then 3 else if b.mgtActive then 2 else 1

/-- MGT registers (R400). -/
def Blk.mgtReg (b : Blk) (off : Nat) : Nat :=
  let m := b.mgt
  match off with
  | 0x00 => pack [(28, 4, b.mgtState), (22, 6, m.slotId), (21, 1, b2n m.slotBad), (16, 5, m.nslot), (8, 8, m.hbK), (0, 8, m.heard)]
  | 0x04 => pack [(16, 16, m.txFrames), (0, 16, m.txDiscard)]
  | 0x08 => pack [(16, 16, m.collisions), (8, 8, m.excessive), (0, 8, m.late)]
  | 0x0C => pack [(16, 16, m.rxFrames), (0, 16, m.fcsErr)]
  | 0x10 => pack [(16, 16, m.underrun), (0, 11, m.txThresh)]
  | 0x14 => pack [(16, 16, m.mirDrop), (0, 16, m.badFrame)]
  | _ => pack [(16, 16, m.jamTides), (0, 16, m.posConflict)]

/-- RST registers (R361). -/
def Blk.rstReg (b : Blk) (x : Session) (off : Nat) : Nat :=
  let r := b.rst
  match off with
  | 0x00 => pack [(28, 4, r.lastCause), (0, 16, ((List.range 16).map fun d => if b.ownReset (diePan d) then 2 ^ d else 0).sum)]
  | 0x04 => x.rstPan
  | 0x08 => x.rstDelay % 2 ^ 16
  | 0x0C => pack [(16, 16, r.unitCnt), (0, 16, r.portCnt)]
  | 0x10 => pack [(16, 16, r.dieCnt), (0, 16, r.escalated)]
  | 0x14 => r.moduleResets
  | _ => r.lastPan

/-- SEC registers (R388). -/
def Blk.secReg (b : Blk) (off : Nat) : Nat :=
  let s := b.sec
  match off with
  | 0x00 => pack [(28, 4, b.bootStateNow), (27, 1, s.slot), (26, 1, b2n s.fallback), (24, 2, s.unlock), (23, 1, b2n s.ownerHash.isSome), (8, 4, s.sessions.length), (0, 8, s.minSvn)]
  | 0x04 => s.serial % 2 ^ 32
  | 0x08 => s.serial / 2 ^ 32 % 2 ^ 32
  | 0x0C => s.svn % 2 ^ 8
  | 0x10 => pack [(31, 1, b2n s.slot0.valid), (30, 1, b2n s.slot1.valid), (29, 1, s.select), (28, 1, b2n s.switchPend.isSome)]
  | 0x14 => pack [(16, 16, s.authFail), (0, 16, s.tagFail)]
  | 0x18 => pack [(16, 16, s.glitchVolt), (0, 16, s.glitchClk)]
  | 0x1C => pack [(24, 8, s.reason), (0, 16, s.dirIndex)]
  | _ => s.bootMs

/-- The present value of a register, as a session with its selections reads it. -/
def Blk.regNow (b : Blk) (x : Session) (r : RegRef) : Nat :=
  match r.block with
  | .id => idRegs.getD (r.off / 4) 0
  | .hub => b.hubReg r.off
  | .tide => b.tideReg r.pan r.off
  | .slu => b.sluReg r.off
  | .ctx => b.ctxReg x r.off
  | .num => b.numReg x r.pan r.off
  | .lnk => if r.pan = hubPan then b.grpReg x r.off else if panKind r.pan = kLP then b.portReg (portOfPan r.pan) r.off else b.ceReg (ceOfPan r.pan) r.off
  | .mem => b.memReg r.pan r.off
  | .mon => b.monReg r.off
  | .tst => b.tstReg r.off
  | .mgt => b.mgtReg r.off
  | .rst => b.rstReg x r.off
  | .sec => b.secReg r.off

/-! ### Reading: read-clear fields and captures -/

/-- The refusals that a context has counted in all. -/
def refusedTotal (c : Ctx) : Nat := c.refusedGone + c.refused

/-- The first `n` refusals have been returned by a read; what has been counted since stays in the field (R6). -/
def returnRefused (c : Ctx) (n : Nat) : Ctx :=
  { c with refused := refusedTotal c - max c.refusedGone n, refusedGone := max c.refusedGone n }

/-- The read-clear fields of a register clear (R6). -/
def Blk.regClear (b : Blk) (x : Session) (r : RegRef) : Blk :=
  match r.block, r.off with
  | .hub, 0x0C => b.modRst fun r => { r with missedWin := 0, switchovers := 0 }
  | .hub, 0x10 => b.modRst fun r => { r with declared := 0 }
  | .tide, 0x1C => b.modTide fun t => { t with tideOvr := 0, tinMiss := 0, tinOow := 0, tinGlitch := 0 }
  | .tide, 0x20 => b.modTide fun t => { t with refused := 0 }
  | .tide, 0x80 => b.modXing r.pan fun x => { x with flushCnt := 0, mergeCnt := 0 }
  | .slu, 0x08 => b.modSlu fun s => { s with moves := 0 }
  | .slu, 0x0C => b.modSlu fun s => { s with stagedCnt := 0 }
  | .slu, 0x10 => b.modSlu fun s => { s with prefetched := 0 }
  | .slu, 0x14 => b.modSlu fun s => { s with aborted := 0 }
  | .slu, 0x28 => b.modSlu fun s => { s with lateCnt := 0, skipCnt := 0 }
  | .slu, 0x2C => b.modSlu fun s => { s with opsPeak := s.opsNow }
  | .slu, 0x30 => b.modSlu fun s => { s with stallUs := 0 }
  | .ctx, 0x1C => b.modCtx x.ctxSel fun c => { c with sent := 0 }
  | .ctx, 0x20 => b.modCtx x.ctxSel fun c => { c with merged := 0, dropped := 0 }
  | .ctx, 0x24 => b.modCtx x.ctxSel fun c => { c with lateDrop := 0 }
  | .ctx, 0x44 => b.modCtx x.ctxSel fun c => returnRefused c (refusedTotal c)
  | .ctx, 0x50 => b.modCtx x.ctxSel fun c => { c with hrv := { c.hrv with copyBad := 0, cowWait := 0 } }
  | .ctx, 0x64 => b.modSpare fun s => { s with destFail := 0, areaFull := 0 }
  | .num, off =>
    if r.pan = hubPan || isGaugeSum r.pan || decide (0x90 ≤ off) then b
    else b.modStat (unitNo r.pan) (off / 16) fun g => match off % 16 with
      | 0x0 => { g with samples := 0 }
      | 0x4 => { g with mismatch := 0 }
      | 0x8 => { g with skip := 0, defer := 0 }
      | _ => { g with maxdist := 0 }
  | .lnk, off =>
    if r.pan = hubPan then
      if off < 0x40 then b
      else b.modCtx (bits x.grpSel 16 10) fun c =>
        let i := (off - 0x40) / 8
        if !c.queues.has i then c
        else
          let q := c.queues.get {} i
          { c with queues := c.queues.set i (if off % 8 = 0 then { q with prodStall := 0 } else { q with consStall := 0 }) }
    else if panKind r.pan = kLP then b.modPort (portOfPan r.pan) fun p => match off with
      | 0x0C => { p with corrCw := 0 }
      | 0x10 => { p with ucw := 0 }
      | 0x14 => { p with downCnt := 0, retrainCnt := 0 }
      | 0x18 => { p with icvFail := 0, unprotDrop := 0 }
      | 0x1C => { p with pauseRx := 0, otherDrop := 0 }
      | 0x100 => { p with crcErr := 0, badHdr := 0 }
      | 0x104 => { p with unkDrop := 0, unknown := 0 }
      | 0x108 => { p with badAck := 0, dupDrop := 0 }
      | 0x10C => { p with nakTx := 0, nakRx := 0 }
      | 0x110 => { p with retx := 0 }
      | 0x114 => { p with timeouts := 0, cancelTx := 0 }
      | 0x118 => { p with ceRx := 0 }
      | 0x11C => { p with retxPeak := b.retxBytes (portOfPan r.pan) / 2 ^ 20, holdDrop := 0 }
      | 0x120 => { p with recExpired := 0 }
      | _ => p
    else b.modCe (ceOfPan r.pan) fun e => match off with
      | 0x04 => { e with done := 0 }
      | 0x08 => { e with aborts := 0 }
      | 0x0C => { e with rereq := 0, heldBusy := 0 }
      | 0x10 => { e with waitUs := 0 }
      | _ => e
  | .mem, off => b.modMc r.pan fun m => match off with
    | 0x08 => { m with ceCnt := 0 }
    | 0x0C => { m with ueCnt := 0 }
    | 0x1C => { m with lateCnt := 0 }
    | 0x24 => { m with failCnt := 0 }
    | _ => m
  | .mon, off =>
    if off = 0x08 then b.modMon fun m => { m with peakW := 0 }
    else if off = 0x0C then b.modMon fun m => { m with opChanges := 0, overTides := 0 }
    else if 0x100 ≤ off ∧ off < 0x200 then
      let i := (off - 0x100) / 4
      b.modMon fun m => if m.sites.has i then { m with sites := m.sites.set i { (m.sites.get {} i) with maxC := none } } else m
    else b
  | .tst, 0x40 => { b with tst := { b.tst with cnt := 0 } }
  | .mgt, 0x04 => b.modMgt fun m => { m with txFrames := 0, txDiscard := 0 }
  | .mgt, 0x08 => b.modMgt fun m => { m with collisions := 0, excessive := 0, late := 0 }
  | .mgt, 0x0C => b.modMgt fun m => { m with rxFrames := 0, fcsErr := 0 }
  | .mgt, 0x10 => b.modMgt fun m => { m with underrun := 0 }
  | .mgt, 0x14 => b.modMgt fun m => { m with mirDrop := 0, badFrame := 0 }
  | .mgt, 0x18 => b.modMgt fun m => { m with jamTides := 0, posConflict := 0 }
  | .rst, 0x0C => b.modRst fun r => { r with unitCnt := 0, portCnt := 0 }
  | .rst, 0x10 => b.modRst fun r => { r with dieCnt := 0, escalated := 0 }
  | .sec, 0x14 => b.modSec fun s => { s with authFail := 0, tagFail := 0 }
  | _, _ => b

/-- The registers that a read captures at the same instant (R44, R200, R231, R252, R340). -/
def regCaptures (blk : RegBlock) (off : Nat) : List Nat :=
  match blk, off with
  | .tide, 0x04 => [0x08, 0x0C]
  | .num, 0x0C => [0x10, 0x14, 0x18]
  | .ctx, 0x48 => [0x4C, 0x44]
  | .ctx, 0x08 => [0x0C, 0x10, 0x14, 0x18]
  | .ctx, 0x54 => [0x58]
  | _, _ => []

/-- The key under which a session keeps a captured word. -/
def capKey (blk : RegBlock) (off : Nat) : Nat := regBlocks.findIdx (· = blk) * 0x1000 + off

/-- Read one register on a session: a captured one answers from the capture; what it captures is taken, what it clears is cleared. A captured CTX_PAIR
gives the count it captured up once, in the context that it was captured from (R6, R231). -/
def Blk.regRead1 (b : Blk) (n : Nat) (r : RegRef) : Blk × Nat :=
  let x := b.sec.sessions.get {} n
  let hub := r.pan = hubPan
  let cap := if hub then x.caps.find (capKey r.block r.off) else none
  let v := cap.getD (b.regNow x r)
  let taken : Tbl Nat := if hub then (regCaptures r.block r.off).foldl (fun t o => t.set (capKey r.block o) (b.regNow x { r with off := o })) x.caps else x.caps
  let pair := r.block = .ctx && r.off = 0x44
  let taken := if pair && cap.isSome then taken.set (capKey .ctx 0x44) (v - bits v 16 8 * 2 ^ 16) else taken
  let ver := r.block = .ctx && r.off = 0x48
  let x' := { x with caps := taken, pairCtx := if ver then x.ctxSel else x.pairCtx, pairTotal := if ver then refusedTotal (b.ctx x.ctxSel) else x.pairTotal }
  let b := if pair && cap.isSome then b.modCtx x.pairCtx fun c => returnRefused c x.pairTotal else b.regClear x r
  (b.modSession n fun _ => x', v)

/-- Read registers in order. -/
def Blk.regReads (b : Blk) (n : Nat) : List RegRef → Blk × List Nat
  | [] => (b, [])
  | r :: rs =>
    let x := b.regRead1 n r
    let y := x.1.regReads n rs
    (y.1, x.2 :: y.2)

/-- REG_READ (R416). -/
def Blk.regRead (b : Blk) (n a count : Nat) : Blk × OmpReply :=
  if regAddr a = .badPan then (b, { status := stPanInvalid })
  else match regRun a count with
    | none => (b, { status := stAddrInvalid })
    | some l =>
      let x := b.regReads n l
      (x.1, { body := x.2.flatMap (leBytes 4) })

/-- REG_READ (R379, R416). -/
def execRegRead (m : OmpReq) (s : State) : Host.Outcome State Fault Refusal :=
  .next (s.omp m qRegRead (onBlk fun b n => b.regRead n (fieldAt m.body 0 4) (fieldAt m.body 4 4)))

end Sys2Proof.Machine
end

