-- ==== Sys2Proof/Machine/RegWrite.lean ====
section
/-! DEFINITION. Service writes: the writable fields, the requests they make, and the rows that are writes of one register (R6, R360, R404, R408, R416, R417). -/
namespace Sys2Proof.Machine
open Sys2Proof

/-! ### Fields -/

/-- A mask of `w` bits from `lo` up. -/
def maskAt (lo w : Nat) : Nat := (2 ^ w - 1) * 2 ^ lo

/-- The reserved bits of a register that R417 makes writable; none where it has no writable field. -/
def rsvMask (r : RegRef) : Option Nat :=
  match r.block, r.off with
  | .ctx, 0x00 => some (maskAt 10 22)
  | .num, 0x00 => if r.pan = hubPan then some (maskAt 10 6) else none
  | .num, 0x04 => if r.pan = hubPan then some (maskAt 7 25) else none
  | .lnk, 0x00 => if r.pan = hubPan then some (maskAt 26 6) else if panKind r.pan = kLP then some 0 else none
  | .lnk, 0x08 => if r.pan ≠ hubPan && panKind r.pan = kLP then some (maskAt 1 31) else none
  | .rst, 0x04 => some 0
  | .rst, 0x08 => some (maskAt 16 14)
  | .mon, 0x00 => some (maskAt 0 8)
  | .mon, 0x04 => some (maskAt 26 6 + maskAt 10 14)
  | .mem, 0x00 => some (maskAt 0 22)
  | .mem, 0x20 => some (maskAt 1 31)
  | .tide, 0x00 => some (maskAt 0 16)
  | .tide, 0x80 => some (maskAt 24 6)
  | .slu, 0x00 => some (maskAt 9 18)
  | .sec, 0x00 => some (maskAt 12 11)
  | .tst, off =>
    if off = 0 then some (maskAt 0 29)
    else if off = 0x04 || off = 0x28 || off = 0x38 || off = 0x3C then some 0
    else if off = 0x2C then some (maskAt 16 13)
    else if off = 0x30 then some (maskAt 31 1)
    else if off = 0x34 then some (maskAt 5 27)
    else if off = 0x40 then none
    else some (maskAt 10 21)
  | .mon, off => if 0x200 ≤ off && off < 0x240 then some (maskAt 16 14) else none
  | _, _ => none

/-- Is a value of a TST register within its fields' ranges (R408, R413)? -/
def Blk.tstInRange (b : Blk) (off v : Nat) : Bool :=
  let lo := v % 2 ^ 16
  if off = 0x28 then decide (lo + v / 2 ^ 16 ≤ 10000)
  else if off = 0x2C then decide (lo ≤ 10000)
  else if off = 0x30 then decide (bits v 16 8 ≤ 90 ∧ 1 ≤ lo ∧ lo ≤ 10000)
  else if off = 0x3C then decide (1 ≤ lo ∧ lo ≤ 1000 ∧ lo * 1000 * 2 < b.mpl)
  else true

/-- A TST register takes its RW fields (R413). -/
def tstSet (t : TstSt) (off v : Nat) : TstSt :=
  match off with
  | 0x00 => { t with enable := bitAt v 31, allCtx := bitAt v 29 }
  | 0x04 => { t with seed := v }
  | 0x28 => { t with fabric := v }
  | 0x2C => { t with mem := v }
  | 0x30 => { t with port := v }
  | 0x34 => { t with xing := v }
  | 0x38 => { t with drop := v }
  | 0x3C => { t with reord := v }
  | _ => { t with ctxs := t.ctxs.set ((off - 8) / 4) v }

/-- A write of a TST register (R408). -/
def Blk.tstWrite (b : Blk) (off v : Nat) : Blk × Nat :=
  if b.sec.unlock = 0 || !b.tstInRange off v then (b, stRefused) else ({ b with tst := tstSet b.tst off v }, stOk)

/-- NUM_FLAGS: each 1 clears its flag (R65, R200). -/
def w1cFlags (f : NumFlags) (v : Nat) : NumFlags :=
  { subnFlushed := f.subnFlushed && !bitAt v 0, valOvf := f.valOvf && !bitAt v 1, valInv := f.valInv && !bitAt v 2, accOvf := f.accOvf && !bitAt v 3,
    accNan := f.accNan && !bitAt v 4, accInv := f.accInv && !bitAt v 5, permRange := f.permRange && !bitAt v 6 }

/-- MON_CAP: a cap from 250 to 600 replaces the cap; any other changes nothing and sets CAP_REJ (R404). -/
def Blk.capWrite (b : Blk) (v : Nat) : Blk :=
  let w := v % 1024
  b.modMon fun m => if 250 ≤ w ∧ w ≤ 600 then { m with capW := w, capSrc := true, capRej := m.capRej && !bitAt v 25 } else { m with capRej := true }

/-! ### Service resets and retirement (R357, R360) -/

/-- A request for a scheduled action, and what is answered (R37). -/
def Blk.ask (b : Blk) (delay : Nat) (act : SchedAct) : Blk × Nat :=
  let t := b.tide.num + delay
  (b.schedule t 0 act, if b.schedCheck t 0 = .accepted then stOk else stRefused)

/-- RST_REQ_CTL.RESET: the reset of RST_REQ_PAN is scheduled; nothing on the hub die can be named but through the module pan (R360). -/
def Blk.askReset (b : Blk) (pan delay : Nat) : Blk × Nat :=
  match panRef b.pos pan with
  | .invalid => (b, stPanInvalid)
  | .remote => (b, stPanRemote)
  | .cluster => (b, stRefused)
  | .own p => if p ≠ modulePan && panDie p = dHD then (b, stRefused) else b.ask delay (.reset p)

/-- RST_REQ_CTL: DELAY is the session's; RESET and RETIRE act. -/
def Blk.rstCtl (b : Blk) (n v : Nat) : Blk × Nat :=
  let b := b.modSession n fun x => { x with rstDelay := v % 2 ^ 16 }
  let pan := (b.sec.sessions.get {} n).rstPan
  let r := if bitAt v 31 then b.askReset pan (v % 2 ^ 16) else (b, stOk)
  let q := if bitAt v 30 then r.1.ask (v % 2 ^ 16) .retire else (r.1, stOk)
  (q.1, if r.2 = stOk then q.2 else r.2)

/-! ### Writes -/

/-- A write's effect on a register that has writable fields (R417). -/
def Blk.regSet (b : Blk) (n : Nat) (r : RegRef) (v : Nat) : Blk × Nat :=
  match r.block, r.off with
  | .ctx, _ => (b.modSession n fun x => { x with ctxSel := v % 1024 }, stOk)
  | .num, 0x00 => (b.modSession n fun x => { x with numSel := v }, stOk)
  | .num, _ => (b.modCtx ((b.sec.sessions.get {} n).numSel % 1024) fun c => { c with flags := w1cFlags c.flags v }, stOk)
  | .lnk, 0x00 =>
    if r.pan = hubPan then (b.modSession n fun x => { x with grpSel := v }, stOk)
    else (b.modPort (portOfPan r.pan) fun p => { p with rateLow := p.rateLow && !bitAt v 24 }, stOk)
  | .lnk, _ => (if bitAt v 0 then b.askRetrain (portOfPan r.pan) else b, stOk)
  | .rst, 0x04 => (b.modSession n fun x => { x with rstPan := v }, stOk)
  | .rst, _ => b.rstCtl n v
  | .mon, 0x00 => (b.modMon fun m => { m with voltWarn := m.voltWarn && !bitAt v 25 }, stOk)
  | .mon, 0x04 => (b.capWrite v, stOk)
  | .mon, off =>
    let i := (off - 0x200) / 4
    (b.modMon fun m => if bitAt v 31 && m.rails.has i then { m with rails := m.rails.set i { (m.rails.get {} i) with warn := false } } else m, stOk)
  | .mem, 0x00 => (b.modMc r.pan fun m => { m with ueHeld := m.ueHeld && !bitAt v 22 }, stOk)
  | .mem, _ => (if bitAt v 0 then b.rakeStart r.pan else b, stOk)
  | .tide, 0x00 =>
    (b.modTide fun t => { t with stuckSeen := t.stuckSeen && !bitAt v 19, srcRej := t.srcRej && !bitAt v 18, beaconDup := t.beaconDup && !bitAt v 17 }, stOk)
  | .tide, _ => (b.modXing r.pan fun x => { x with ovr := x.ovr && !bitAt v 31, clkStop := x.clkStop && !bitAt v 30 }, stOk)
  | .slu, _ =>
    (b.modSlu fun s => { s with deadlineMiss := s.deadlineMiss && !bitAt v 29, noSpace := s.noSpace && !bitAt v 28, offloadSkip := s.offloadSkip && !bitAt v 27 }, stOk)
  | .sec, _ => (b.modSec fun s => { s with fallback := s.fallback && !bitAt v 26 }, stOk)
  | .tst, off => b.tstWrite off v
  | _, _ => (b, stReadonly)

/-- REG_WRITE: the pan, the address, what is writable, the unlock, the reserved bits, then the write (R416). -/
def Blk.regWrite (b : Blk) (n a v : Nat) : Blk × OmpReply :=
  match regAddr a with
  | .badPan => (b, { status := stPanInvalid })
  | .none => (b, { status := stAddrInvalid })
  | .reg r => match rsvMask r with
    | none => (b, { status := stReadonly })
    | some k =>
      if r.block = .tst && b.sec.unlock = 0 then (b, { status := stRefused })
      else if v &&& k ≠ 0 then (b, { status := stRsv })
      else
        let x := b.regSet n r v
        (x.1, { status := x.2 })

/-- A row that is a write of one register: a message that writes another is left to its own row. -/
def State.regRow (s : State) (m : OmpReq) (is_ : RegRef → Bool) : State :=
  match regAddr (fieldAt m.body 0 4) with
  | .reg r => if m.req = qRegWrite && is_ r then s.omp m qRegWrite (onBlk fun b n => b.regWrite n (fieldAt m.body 0 4) (fieldAt m.body 4 4)) else s
  | _ => s

/-- The register writes that have rows of their own. -/
def isCapReg (r : RegRef) : Bool := r.block = .mon && r.off = 0x04
def isRakeReg (r : RegRef) : Bool := r.block = .mem && r.off = 0x20
def isLnkCtl (r : RegRef) : Bool := r.block = .lnk && r.off = 0x08 && panKind r.pan = kLP
def isTstCtl (r : RegRef) : Bool := r.block = .tst && r.off = 0x00
def isRstCtl (r : RegRef) : Bool := r.block = .rst && r.off = 0x08

/-- REG_WRITE (R379, R416, R417): any register, those with rows of their own included. -/
def execRegWrite (m : OmpReq) (s : State) : Host.Outcome State Fault Refusal :=
  .next (s.omp m qRegWrite (onBlk fun b n => b.regWrite n (fieldAt m.body 0 4) (fieldAt m.body 4 4)))

/-- CAP_WRITE: a write of MON_CAP (R404). -/
def execCapWrite (m : OmpReq) (s : State) : Host.Outcome State Fault Refusal := .next (s.regRow m isCapReg)

/-- RAKE_START: a write of MEM_RAKE_CTL (R150). -/
def execRakeStart (m : OmpReq) (s : State) : Host.Outcome State Fault Refusal := .next (s.regRow m isRakeReg)

/-- LNK_RETRAIN: a write of LNK_CTL (R290). -/
def execLnkRetrain (m : OmpReq) (s : State) : Host.Outcome State Fault Refusal := .next (s.regRow m isLnkCtl)

/-- TST_ENABLE: a write of TST_CTL (R409). -/
def execTstEnable (m : OmpReq) (s : State) : Host.Outcome State Fault Refusal := .next (s.regRow m isTstCtl)

/-- SERVICE_RESET: a write of RST_REQ_CTL that asks for a reset (R360). -/
def execServiceReset (m : OmpReq) (s : State) : Host.Outcome State Fault Refusal :=
  .next (if bitAt (fieldAt m.body 4 4) 31 then s.regRow m isRstCtl else s)

/-- RETIRE_REQUEST: a write of RST_REQ_CTL that asks for retirement (R357). -/
def execRetireRequest (m : OmpReq) (s : State) : Host.Outcome State Fault Refusal :=
  .next (if bitAt (fieldAt m.body 4 4) 30 then s.regRow m isRstCtl else s)

end Sys2Proof.Machine
end

