-- ==== Sys2Proof/Machine/Switch.lean ====
section
/-! DEFINITION. Image switches and the handover of hub firmware (R236, R249, R290, R355, R356). -/
namespace Sys2Proof.Machine
open Sys2Proof

/-! ### The operating point (R141, R405, R407) -/

/-- The change of operating point is over once nothing is left to retrain or to raise. -/
def Blk.opSettle (b : Blk) : Blk :=
  if b.mon.changing && b.mon.stackQ.isEmpty && b.mon.stackNow.isNone && !b.mon.raising then b.modMon fun m => { m with changing := false, op := m.target } else b

/-- The rate a stack runs at: that of its first controller. -/
def Blk.stackRate (b : Blk) (h : Nat) : Nat := (b.mcOf (leafPan (8 + h) kMC 0)).rate

/-- Selection at a tide edge: another point than the last selection makes this edge the switch tide. -/
def Blk.opSelect (b : Blk) : Blk :=
  let m := b.mon
  let n := opOfCap m.capW
  if n = m.target then b
  else
    let rate := rateOfOp n
    let todo := (List.range 8).filter fun h => match m.stackNow with
      | some (k, r) => if k = h then r ≠ rate else b.stackRate h ≠ rate
      | none => b.stackRate h ≠ rate
    let lower := decide (m.cclk ≤ n)
    let now := lower || (todo.isEmpty && m.stackNow.isNone)
    let b := b.modMon fun m => { m with target := n, changing := true, opChanges := satInc 16 m.opChanges, stackQ := todo, rate := rate,
                                        cclk := if now then n else m.cclk, raising := !now }
    (b.raiseMod 0xC004 (m.target + n * 2 ^ 8 + m.capW % 1024 * 2 ^ 16)).opSettle

/-- Is the pending image switch due at the present edge? Its cap is then the one that the edge selects by (R36, R404, R407); one whose handover is not ready does not
happen (R355). -/
def Blk.switchNow (b : Blk) : Bool := (b.tide.sched.any fun x => decide (x.act = .imageSwitch ∧ x.tide ≤ b.tide.num)) && (!b.rst.handover || b.rst.handoverReady)

/-! ### The request -/

/-- Is an image switch pending? -/
def Blk.switchPending (b : Blk) : Bool := b.sec.switchPend.isSome

/-- Nothing is scheduled any more. -/
def Blk.noSwitch (b : Blk) : Blk :=
  { b with
    sec := { b.sec with switchPend := none, switchCfg := none }
    rst := { b.rst with handover := false, handoverReady := false }
    tide := { b.tide with sched := b.tide.sched.filter fun x => x.act ≠ .imageSwitch } }

/-- SWITCH: the whole image is checked, then the switch is scheduled; new hub firmware is to be handed over (R355, R356, R372). In RECOVERY the module resets into
the slot (R373). -/
def Blk.switchReply (b : Blk) (slot tide pos : Nat) : Blk × OmpReply :=
  if !(slotOf b.sec slot).valid then (b, { status := stRefused })
  else if b.sec.recovery then (b.modSec fun s => { s with select := slot }, { reset := some causeService })
  else if b.switchPending then (b, { status := stRefused })
  else match readImage b.store.pkgs b.sec (slotOf b.sec slot) pos with
    | .refuse r i => (b.imageRefused slot r i, { status := stRefused })
    | .accept c =>
      if b.schedCheck tide 0 ≠ .accepted then (b.schedule tide 0 .imageSwitch, { status := stRefused })
      else
        let b := b.schedule tide 0 .imageSwitch
        let b := b.modSec fun s => { s with switchPend := some slot, switchCfg := some c }
        (b.modRst fun r => { r with handover := decide (c.hubFwSha ≠ b.cfg.hubFwSha), handoverReady := false }, {})

/-- SWITCH (R356, R379). -/
def execSwitch (m : OmpReq) (pos : Nat) (s : State) : Host.Outcome State Fault Refusal :=
  .next (s.omp m qSwitch (onBlk fun b _ => b.switchReply (fieldAt m.body 0 1) (fieldAt m.body 4 6) pos))

/-! ### Handover (R355) -/

/-- The version that a handover would bring. -/
def Blk.newFw (b : Blk) : Nat := ((b.sec.switchCfg).map (·.hubFw)).getD 0

/-- FW_HANDOVER_READY: the standby has loaded and verified the new firmware, and reports it in HUB_FW_STBY. -/
def execFwHandoverReady (s : State) : Host.Outcome State Fault Refusal :=
  let r := s.b.rst
  if r.handover && !r.handoverReady && hcOf r (1 - activeHc r) = .standby then
    .next (s.setB (s.b.modRst fun r => { r with handoverReady := true, fwStby := s.b.newFw }))
  else .next s

/-- The tide of the pending image switch. -/
def Blk.switchTide (b : Blk) : Option Nat := (b.tide.sched.find? fun x => x.act = .imageSwitch).map (·.tide)

/-- A handover that is not ready in time cancels the switch; the running image stays. -/
def Blk.handoverFail (b : Blk) : Blk :=
  let v := b.newFw
  b.noSwitch.raiseMod 0xA008 (1 + v * 2 ^ 32)

/-- HANDOVER_DEADLINE: the edge of the tide before the switch tide. -/
def execHandoverDeadline (s : State) : Host.Outcome State Fault Refusal :=
  match s.b.switchTide with
  | some t => if s.b.rst.handover && !s.b.rst.handoverReady && decide (t ≤ s.b.tide.num + 1) then .next (s.setB s.b.handoverFail) else .next s
  | none => .next s

/-- The standby becomes ACTIVE, and the old active core reloads the new firmware (R355). -/
def Blk.handOver (b : Blk) (v : Nat) : Blk :=
  let old := activeHc b.rst
  let b := (b.modRst fun r => { (setHc r (1 - old) .active) with fwAct := v, handover := false }).reloadHc old
  b.raiseMod 0xA008 (v * 2 ^ 32)

/-! ### What an image switch changes -/

/-- An adoption set laid over a configuration (R333, R334). -/
def overlaid (c : Kartile) (pos : Nat) : Kartile :=
  match c.adopt.find? fun a => a.position = pos with
  | some a =>
    let m := match a.ports with
      | some (p, q, k) => { c.mod with ports := p, portAddr := q, macKeys := k }
      | none => c.mod
    { c with mod := m, torus := a.torus, groups := a.groups, hrv := a.hrv, ctxs := a.ctxs }
  | none => c

/-- The tide unit takes the module record's settings; another PTP domain loses the PTP source. A pulse of TIDE_IN expected at a later edge than the present one is
expected by the new period (R37, R38). -/
def tideSettings (t : TideUnit) (m : ModuleRec) (now : Nat) : TideUnit :=
  let t := if t.ptpDomain = m.ptpDomain then t else ptpLost { t with ptpRx := {} }
  let t := if now + t.period / 2 < t.expect then { t with expect := t.expect - t.period + m.period } else t
  { t with period := m.period, holdLimit := m.holdLimit, maxOffset := m.maxOffset, epoch := m.epoch, order := m.sources, ptpDomain := m.ptpDomain, beaconTx := m.beaconTx }

/-- A port whose entry changes: it retrains, goes OFF, or comes up; one that retrains already begins again with the new entry (R290, R291). -/
def Blk.portSwitch (b : Blk) (i : Nat) (e : PortRec) : Blk :=
  let p := b.portOf i
  if p.cfg = e then b
  else if !e.enable then
    let up := p.st = .up
    let b := b.modPort i fun x => { x with cfg := e, st := .down, rate := 0, lanes := 0, macsecUp := false, retrainAt := none, want := false, service := false, ctl := [] }
    let b := (b.dropRun (portPan i)).setSt (portPan i) .off
    (if up then (b.raise 0x6002 moduleCtx (portPan i) 0).pathsChanged i else b).nextRetrain
  else
    let b := b.modPort i fun x => { x with cfg := e }
    if p.cfg.enable then (if p.retrainAt.isSome then b.retrain i p.service else b.askRetrain i)
    else (b.modPort i fun x => { x with st := .an, retrainAt := some b.now }).setSt (portPan i) .reset

/-- Running collectives of a group whose record changes go on under the old one (R356). -/
def Blk.keepGroups (b : Blk) (new : List GroupRec) : Blk :=
  { b with colls := b.colls.map fun c =>
      if collOpen c && c.grp.isNone && b.groupOf c.group ≠ new.find? (fun g => g.groupId = c.group) then { c with grp := b.groupOf c.group } else c }

/-- The harvest domain's windows and streams, where its record changes (R260, R320). -/
def Blk.hrvSwitch (b : Blk) (old new : PdRec) : Blk :=
  if old = new then b
  else
    let ns := old.streams.map (·.stream)
    let b := b.sealStreams ns.contains
    let b := (old.windows.map (·.winId)).foldl (fun b w => b.modWin w fun x => if x.open_ then { gen := nextGen x.gen, open_ := false } else x) b
    let b := { b with strm := b.strm.filter fun e => !ns.contains e.1, recs := b.recs.filter fun r => !ns.contains r.stream,
                      held := b.held.filter fun h => !ns.contains h.pkt.h.stream }
    (new.windows.map (·.winId)).foldl Blk.newGen b

/-- A context record without the fields that change in place (R236). -/
def fixedPart (r : CtxRec) : CtxRec :=
  { r with qos := 0, sink := 0, sched := r.sched.map fun _ => {}, offload := [], regions := r.regions.map fun g => { g with recipe := 0 } }

/-- Does a change replace the context? -/
def replaces (old new : CtxRec) : Bool := decide (fixedPart old ≠ fixedPart new)

/-- The changes that need no teardown (R197, R227, R236): before the first phase and in a restore all at once. -/
def ctxInPlace (c : Ctx) (r : CtxRec) : Ctx :=
  let regs := r.regions.foldl (fun t g => Tbl.set t g.tensorId { (Tbl.get t {} g.tensorId) with recipe := g.recipe }) c.regions
  let c := { c with qos := r.qos, regions := regs }
  if c.st = .active then
    { c with rec_ := { r with sched := c.rec_.sched, offload := c.rec_.offload }
             schedNext := if r.sched = c.rec_.sched then none else r.sched
             offNext := if r.offload = c.rec_.offload then none else some r.offload }
  else { c with rec_ := r, schedNext := none, offNext := none }

/-- One context at an image switch (R235, R236, R249). -/
def Blk.ctxSwitch (b : Blk) (n : Nat) (new : Option CtxRec) (added : Bool) : Blk :=
  let c := b.ctx n
  match c.st, new with
  | .absent, some r => if added || c.next.isSome then b.setCtx n { c with next := some r } else b
  | .absent, none => if c.next.isSome then b.setCtx n { c with next := none } else b
  | .teardown, none => b.setCtx n { c with tdReason := .removed, next := none }
  | .quarantine, none => b.setCtx n { c with tdReason := .removed, next := none }
  | .teardown, some r => if c.tdReason ≠ .fault then b.setCtx n { c with next := some r }
      else if replaces c.rec_ r then b.setCtx n { c with tdReason := .replaced, next := some r } else b.setCtx n (ctxInPlace c r)
  | .quarantine, some r => if c.tdReason ≠ .fault then b.setCtx n { c with next := some r }
      else if replaces c.rec_ r then b.setCtx n { c with tdReason := .replaced, next := some r } else b.setCtx n (ctxInPlace c r)
  | _, none => b.teardown n .removed
  | _, some r => if replaces c.rec_ r then (b.teardown n .replaced).modCtx n fun c => { c with next := some r } else b.setCtx n (ctxInPlace c r)

/-- Every context number that either image or the module knows. -/
def Blk.ctxNumbers (b : Blk) (l : List CtxRec) : List Nat := (b.ctxs.map (·.1) ++ l.map (·.ctx)).eraseDups.mergeSort (· ≤ ·)

/-- The contexts at an image switch. -/
def Blk.ctxsSwitch (b : Blk) (old new : List CtxRec) : Blk :=
  (b.ctxNumbers new).foldl (fun b n =>
    let r := new.find? fun r => r.ctx = n
    b.ctxSwitch n r (decide (r ≠ old.find? fun r => r.ctx = n))) b

/-! ### The switch -/

/-- A configuration takes the place of the running one; UDP_PORT and MPL keep their values until the next boot (R256, R356). -/
def Blk.applyCfg (b : Blk) (new : Kartile) : Blk :=
  let old := b.cfg
  let new := { new with mod := { new.mod with udpPort := old.mod.udpPort, mplUs := old.mod.mplUs } }
  let b := b.keepGroups new.groups
  let b := { b with cfg := new, tide := tideSettings (slewTide b.tide b.now) new.mod b.now
                    mon := { b.mon with slotFrom := b.tide.num, capW := new.mod.powerCap, capSrc := false }
                    mc := b.mc.mapV fun p m => { m with period := rakeOf new.mod p } }
  let b := b.setIntervals
  let b := (List.range 7).foldl (fun b i => b.portSwitch i (new.mod.ports.getD i {})) b
  let b := b.hrvSwitch old.hrv.pd new.hrv.pd
  let b := if old.operators = new.operators then b else b.modSec fun s => { s with sessions := [] }
  if b.sec.unlock = 2 || !b.sec.ready then b else b.ctxsSwitch old.ctxs new.ctxs

/-- The image switch at its tide: the configuration, SELECT, the hub firmware (R355, R356, R372); the edge then selects by the new cap (R404, R405). -/
def Blk.imageSwitch (b : Blk) (slot : Nat) (c : Kartile) : Blk :=
  let hand := b.rst.handover
  let c := match b.spare.adopted with | some p => overlaid c p | none => c
  let b := b.noSwitch.applyCfg c
  let b := b.modSec fun s => { s with slot := slot, select := slot, svn := c.svn }
  let b := if hand then b.handOver c.hubFw else b
  (b.raiseMod 0xA009 slot).opSelect

/-- IMAGE_SWITCH: the first scheduled action that is due is the switch (R36, R356); one whose handover is not ready is cancelled. -/
def execImageSwitch (s : State) : Host.Outcome State Fault Refusal :=
  let b := s.b
  match b.nextSched, b.sec.switchPend, b.sec.switchCfg with
  | some x, some n, some c =>
    if x.act ≠ .imageSwitch || !b.firstDue x.tide x.phase (rankAct x.act) then .next s
    else if b.rst.handover && !b.rst.handoverReady then .next (s.setB b.handoverFail)
    else .next (s.setB ((b.unschedule x).imageSwitch n c))
  | _, _, _ => .next s

end Sys2Proof.Machine
end

