-- ==== Sys2Proof/Machine/Spares.lean ====
section
/-! DEFINITION. The watch over other positions, and how a spare takes one (17, 18, 20: R334, R335, R337, R352, R353, R392, R393, R398). -/
namespace Sys2Proof.Machine
open Sys2Proof

/-! ### Declarations (R352, R353) -/

def Blk.peer (b : Blk) (pos : Nat) : PeerSt := b.mgt.peers.get {} pos
def Blk.modPeer (b : Blk) (pos : Nat) (f : PeerSt → PeerSt) : Blk := b.modMgt fun m => { m with peers := m.peers.set pos (f (m.peers.get {} pos)) }

/-- An active position other than the module's own. -/
def Blk.watched (b : Blk) (pos : Nat) : Bool := decide (pos < 64 ∧ pos ≠ b.pos)

/-- A position is declared silent, or failed for a FAULT frame: EV_RST_SILENT, and every collective with that member aborts (R312, R353). -/
def Blk.declare (b : Blk) (pos : Nat) (fault : Bool) : Blk :=
  let b := b.modPeer pos fun x => { x with declared := true, declaredTide := b.tide.num, missing := 0 }
  let b := b.modRst fun r => { r with declared := satInc 16 r.declared, lastSilent := pos }
  (b.raiseMod 0xA007 (pos + b2n fault * 2 ^ 8)).sourceGone pos

/-- POSITION_SILENT: its heartbeat has been missing or has not advanced for SILENT_TIDES in a row. -/
def execPositionSilent (pos : Nat) (s : State) : Host.Outcome State Fault Refusal :=
  let x := s.b.peer pos
  if s.b.running && tideRuns s.b.tide && s.b.watched pos && x.heard && !x.declared && decide (s.b.cfg.mod.silentTides ≤ x.missing) then
    .next (s.setB (s.b.declare pos false))
  else .next s

/-! ### Heartbeat frames (R335, R392, R398) -/

/-- Tides in a row without an advance, after a frame: a bus-failure tide counts neither way (R392, R397). -/
def Blk.missAfter (b : Blk) (x : PeerSt) (serial hb : Nat) : Nat :=
  let rise := (hb + 65536 - x.hb) % 65536
  if b.mgt.jamNow.isSome || (x.inInterval && x.serial = serial) then x.missing
  else if !x.heard || x.serial ≠ serial || b.mgt.hbK ≤ rise then 0
  else if rise = 0 then x.missing + b.mgt.hbK
  else b.mgt.hbK - rise

/-- The module is displaced (R335). -/
def Blk.displace (b : Blk) (pos : Nat) : Blk :=
  if b.spare.displaced then b else (b.modSpare fun s => { s with displaced := true }).raiseMod 0x9104 pos

/-- Two serials send for one position (R398). -/
def Blk.posConflict (b : Blk) (pos : Nat) : Blk := (b.modMgt fun m => { m with posConflict := satInc 16 m.posConflict }).raiseMod 0xD004 pos

/-- A heartbeat for the module's own position from another sender: one that is not yet in service stays out; one in service sees a conflict (R335, R398). -/
def Blk.ownHeard (b : Blk) (pos serial : Nat) : Blk :=
  if serial = b.sec.serial || !b.sec.configured || b.spare.displaced then b
  else if !b.sec.ready then b.displace pos
  else b.posConflict pos

/-- A heartbeat of another position. -/
def Blk.peerHeard (b : Blk) (pos serial hb status : Nat) : Blk :=
  let x := b.peer pos
  if x.inInterval && x.serial ≠ serial then b.posConflict pos
  else
    let fault := bits status 28 4 = PState.fault.code
    let back := x.declared && !fault && x.hb ≠ hb && !b.spare.claims.any (fun c => c.1 = pos) && !b.spare.claim.any (fun c => c.1 = pos)
    let y := { x with serial := serial, hb := hb, status := status, heard := true, inInterval := true, missing := b.missAfter x serial hb
                      spare := decide (64 ≤ pos), declared := x.declared && !back }
    let b := b.modPeer pos fun _ => y
    let cause := bits status 16 8
    let b := if cause ≠ 0 && cause ≠ bits x.status 16 8 then b.modPan clusterPan fun p => { p with cause := cause } else b
    if fault && b.watched pos && !y.declared && b.running then b.declare pos true else b

/-- HEARTBEAT: a frame of another serial inside the module's slot is a clash. -/
def Blk.heartbeatRx (b : Blk) (pos serial hb status : Nat) : Blk :=
  let b := b.goodFrame
  let clash := b.mgtActive && !b.hbFree && tideRuns b.tide && decide (serial ≠ b.sec.serial ∧ b.slotStart ≤ b.intPhase ∧ b.intPhase < b.slotStart + 75000)
  let b := if clash then b.raiseMod 0xD001 (b.mgt.slotId % 16 + 2 ^ 8) else b
  if pos = b.pos then b.ownHeard pos serial else b.peerHeard pos serial hb status

/-- HEARTBEAT (R392). -/
def execHeartbeat (l : List Nat) (s : State) : Host.Outcome State Fault Refusal :=
  .next (s.setB (s.b.busRow l fun b x => match x with
    | .frame (.heartbeat pos _ serial _ hb status) => some (b.heartbeatRx pos serial hb status)
    | _ => none))

/-- BEACON: the sender's edge is rebuilt from the frame, whose SFD was `age` ns ago (R28, R30). -/
def execBeacon (l : List Nat) (age : Nat) (s : State) : Host.Outcome State Fault Refusal :=
  .next (s.setB (s.b.busRow l fun b x => match x with
    | .frame (.beacon pos _ _ num delay) => some (if b.running then b.goodFrame.beaconRx pos num delay age else b.goodFrame)
    | _ => none))

/-- CAPACITY: the summary of a position, for the cluster pan's view (R393). -/
def execCapacity (l : List Nat) (s : State) : Host.Outcome State Fault Refusal :=
  .next (s.setB (s.b.busRow l fun b x => match x with
    | .frame (.capacity pos _ _ _ words) => some (b.goodFrame.modPeer pos fun y => { y with capacity := words })
    | _ => none))

/-! ### Claims and takeovers (R334, R335) -/

/-- Is a queued frame a claim? -/
def isClaim : MgtFrame → Bool
  | .claim .. => true
  | _ => false

/-- The module withdraws its claim. -/
def Blk.withdraw (b : Blk) : Blk :=
  (b.modSpare fun s => { s with claim := none }).modMgt fun m => { m with queue := m.queue.filter fun q => !isClaim q.f, backoff := m.backoff.filter fun x => !isClaim x.1.f }

/-- A claim not yet on the bus. -/
def Blk.claimWaits (b : Blk) : Bool :=
  (b.mgt.queue.any fun q => isClaim q.f) || (b.mgt.backoff.any fun x => isClaim x.1.f) || (b.mgt.sending.any fun q => isClaim q.f)

/-- CLAIM: heard from a spare; of two that claim one position the lower SPARE_POS keeps it. -/
def Blk.claimRx (b : Blk) (pos target : Nat) : Blk :=
  let b := b.goodFrame.raiseMod 0x9101 (target + pos * 2 ^ 8)
  let b := b.modSpare fun s => { s with claims := (s.claims.filter fun c => c ≠ (target, pos)) ++ [(target, pos)] }
  if (b.spare.claim.any fun c => c.1 = target) && decide (pos < b.pos) then b.withdraw else b

/-- CLAIM (R334). -/
def execClaim (l : List Nat) (s : State) : Host.Outcome State Fault Refusal :=
  .next (s.setB (s.b.busRow l fun b x => match x with
    | .frame (.claim pos _ _ _ target _) => some (b.claimRx pos target)
    | _ => none))

/-- A position has a new holder: it is watched afresh, and what was claimed of it is done with. -/
def Blk.taken (b : Blk) (pos serial : Nat) : Blk :=
  let b := b.modMgt fun m => { m with peers := Tbl.set (m.peers.filter fun e => e.2.serial ≠ serial || !e.2.spare) pos { serial := serial } }
  b.modSpare fun s => { s with claims := s.claims.filter fun c => c.1 ≠ pos, none_ := s.none_.filter (· ≠ pos) }

/-- TAKEOVER: the module that held the position is displaced from this frame on (R335). -/
def Blk.takeoverRx (b : Blk) (serial target : Nat) : Blk :=
  let b := b.goodFrame
  if target = b.pos then (if serial = b.sec.serial || !b.sec.configured then b else b.displace target)
  else
    let b := if b.spare.claim.any fun c => c.1 = target then b.withdraw else b
    b.taken target serial

/-- TAKEOVER (R335). -/
def execTakeover (l : List Nat) (s : State) : Host.Outcome State Fault Refusal :=
  .next (s.setB (s.b.busRow l fun b x => match x with
    | .frame (.takeover _ _ serial _ target) => some (b.takeoverRx serial target)
    | _ => none))

/-- May this spare claim a position: it stands by, its sets include the position, the position has been declared at an earlier tide, and no lower spare claims it? -/
def Blk.mayClaim (b : Blk) (pos : Nat) : Bool :=
  let x := b.peer pos
  b.moduleState = .spare && tideRuns b.tide && b.spare.claim.isNone && x.declared && decide (x.declaredTide < b.tide.num) &&
    (b.cfg.adopt.any fun a => a.position = pos) && !b.spare.claims.any fun c => c.1 = pos && decide (c.2 < b.pos)

/-- SPARE_CLAIM: at D + 1 for a takeover at D + 3; later for two tides after the claim goes out (R334, R337, R395). -/
def Blk.spareClaim (b : Blk) (pos : Nat) : Blk :=
  if !b.mayClaim pos then b
  else
    let d := (b.peer pos).declaredTide
    let inTime := decide (b.tide.num = d + 1)
    let t := if inTime then d + 3 else b.tide.num + 2
    let b := (b.modSpare fun s => { s with claim := some (pos, t) }).mgtQueue (.claim 0 0 0 0 pos t) (if inTime then some (d + 2) else none) pClaim
    b.raiseMod 0x9101 (pos + b.pos * 2 ^ 8)

/-- SPARE_CLAIM (R334). -/
def execSpareClaim (pos : Nat) (s : State) : Host.Outcome State Fault Refusal := .next (s.setB (s.b.spareClaim pos))

/-- A context of the adoption set enters CREATING and is faulted at once with GRP_ABORT; its restore follows its quarantine. -/
def Blk.adoptCtx (b : Blk) (r : CtxRec) : Blk :=
  (b.setCtx r.ctx { (freshCtx (b.ctx r.ctx) r .creating) with loads := [] }).ctxFault r.ctx cGrpAbort hubPan noSeq false 0 0

/-- The addresses of the position are announced, unsolicited and with the override flag, on every enabled port (R288) that may send (R285). -/
def Blk.announce (b : Blk) : Blk :=
  ((List.range 7).filter fun i => (b.portOf i).cfg.enable).foldl (fun b i => b.cfg.mod.portAddr.foldl (fun b a => b.frameOut i (.neighborAdvert i a false true)) b) b

/-- The spare takes the position: frame, addresses, the set's records, its contexts (R334). -/
def Blk.adopt (b : Blk) (pos : Nat) : Blk :=
  let own := b.pos
  let mon := b.mon
  let b := b.modSpare fun s => { s with adopted := some pos, claim := none, groupsLeft := false, displaced := false, claims := s.claims.filter (fun c => c.1 ≠ pos), none_ := s.none_.filter (· ≠ pos) }
  let b := b.modMgt fun m => { m with peers := m.peers.erase pos }
  let b := b.mgtQueue (.takeover 0 0 0 0 pos) (some (b.tide.num + 1)) pClaim
  let b := { b.applyCfg (overlaid b.cfg pos) with mon := mon }
  let b := b.announce
  let b := b.raiseMod 0x9102 (pos + own * 2 ^ 8)
  b.cfg.ctxs.foldl Blk.adoptCtx b

/-- SPARE_TAKEOVER: phase 0 of the takeover tide, with the claim on the bus (R334). -/
def execSpareTakeover (s : State) : Host.Outcome State Fault Refusal :=
  match s.b.spare.claim with
  | some (pos, t) => if s.b.moduleState = .spare && tideRuns s.b.tide && s.b.due t 0 && !s.b.claimWaits then .next (s.setB (s.b.adopt pos)) else .next s
  | none => .next s

end Sys2Proof.Machine
end

