-- ==== Sys2Proof/Machine/Monitors.lean ====
section
/-! DEFINITION. Monitors, the operating point, calibration slots and stack retraining (08, 21: R141, R151, R401 to R407, R385). -/
namespace Sys2Proof.Machine
open Sys2Proof

/-! ### Temperatures (R401, R402) -/

/-- Is a site one of the junction sites? -/
def isJunction (i : Nat) : Bool := decide (i < 56)

/-- The die whose calibration covers a site; board sites go with the hub die (R401, R403). -/
def siteDie (i : Nat) : Nat := if i < 28 then i / 7 else if i < 36 then 4 + (i - 28) / 4 else if i < 38 then dHD else if i < 40 then dFD else if i < 56 then 8 + (i - 40) / 2 else dHD

/-- The hub die pan goes to FAULT, and with it the module (R402). -/
def Blk.hubDieFault (b : Blk) : Blk := b.modRst fun r => { r with hubFault := true }

/-- A site fails: a junction site takes the module out of service, a board site is reported (R402). -/
def Blk.siteFails (b : Blk) (i : Nat) : Blk :=
  if (b.mon.sites.get {} i).failed then b
  else
    let sev := if isJunction i then b.faultSev else 2
    let b := b.modMon fun m => { m with sites := m.sites.set i { (m.sites.get {} i) with failed := true } }
    (if isJunction i then b.hubDieFault else b).raiseSev sev 0xC007 moduleCtx hubPan i

/-- Is a reading one to report, and is it low enough to report again: 100 and 95 °C at a junction, 70 °C on the board, over 35 °C of inlet air? -/
def siteHot (i : Nat) (r : Int) : Bool := if isJunction i then decide (100 ≤ r) else if i = 56 then decide (35 < r) else decide (70 ≤ r)
def siteCool (i : Nat) (r : Int) : Bool := if isJunction i then decide (r < 95) else !siteHot i r

/-- A site after a sample; its reading is held within the eight bits that report it (R412). -/
def siteSample (x : Site) (i : Nat) (r : Int) : Site :=
  let c := max (-128) (min 127 r)
  { x with valid := true, tempC := c, maxC := some (match x.maxC with | some m => max m c | none => c)
           high := if siteHot i r then true else if siteCool i r then false else x.high
           trip := if isJunction i && decide (105 ≤ r) then x.trip + 1 else 0 }

/-- One site's sample: warning and sensor fault. -/
def Blk.tempSite (b : Blk) (i : Nat) (r : Int) : Blk :=
  let x := b.mon.sites.get {} i
  let b := b.modMon fun m => { m with sites := m.sites.set i (siteSample x i r) }
  let b := if siteHot i r && !x.high then b.raiseMod 0xC001 (i + (siteSample x i r).tempC.toNat % 256 * 2 ^ 8) else b
  if r < -40 ∨ 150 < r then b.siteFails i else b

/-- The first junction site at 105 °C or more on two samples running. -/
def Blk.tripSite (b : Blk) : Option Nat := (List.range 56).find? fun i => decide (2 ≤ (b.mon.sites.get {} i).trip)

/-- TEMP_SAMPLE: every site is sampled; a thermal trip resets the module with cause 5 (R402). -/
def State.tempSample (s : State) (readings : List Int) : State :=
  if !s.b.pwr.rails then s
  else
    let b := (List.range 64).foldl (fun b i => match readings[i]? with
      | some r => b.tempSite i r
      | none => b) s.b
    match b.tripSite with
    | some i =>
      if !b.pwr.rstN then s.setB b
      else (s.setB (b.modMon fun m => { m with trips := satInc 16 m.trips, lastSite := i, lastC := (m.sites.get {} i).tempC.toNat % 256 })).moduleReset causeThermal
    | none => s.setB b

/-- TEMP_SAMPLE (R402). -/
def execTempSample (readings : List Int) (s : State) : Host.Outcome State Fault Refusal := .next (s.tempSample readings)

/-! ### Voltages (R401, R402) -/

/-- Nominal mV of a rail. -/
def railNom (i : Nat) : Nat := if i = 1 then 3300 else if i ≤ 7 then 750 else if i ≤ 9 then 800 else if i = 10 then 700 else Config.railNominal i

/-- Is a reading outside a band of `pct` percent, or, of the P54V input in units of 10 mV, outside its range? -/
def railOut (i mv lo hi pct : Nat) : Bool :=
  if i = 0 then decide (mv < lo ∨ hi < mv) else decide (mv * 100 < railNom i * (100 - pct) ∨ railNom i * (100 + pct) < mv * 100)

def outWarn (i mv : Nat) : Bool := railOut i mv 4600 5600 3
def outFault (i mv : Nat) : Bool := railOut i mv 4400 5800 5

/-- One rail's sample. -/
def Blk.voltRail (b : Blk) (i mv : Nat) : Blk :=
  let x := b.mon.rails.get {} i
  let bad := outFault i mv
  let warn := outWarn i mv
  let tell := warn && x.raised ≠ b.tide.num + 1
  let run := if bad then min 10 (x.run + 1) else 0
  let fails := run = 10 && !x.fault
  let y := { x with mv := mv % 2 ^ 16, run := run, warn := x.warn || warn, fault := x.fault || fails, raised := if tell then b.tide.num + 1 else x.raised }
  let sev := b.faultSev
  let b := b.modMon fun m => { m with rails := m.rails.set i y, voltWarn := m.voltWarn || warn }
  let b := if tell then b.raiseMod 0xC002 (i + mv % 2 ^ 16 * 2 ^ 16) else b
  if fails then b.hubDieFault.raiseSev sev 0xC003 moduleCtx hubPan (i + mv % 2 ^ 16 * 2 ^ 16) else b

/-- VOLT_SAMPLE: PG_OUT is high exactly while every on-module rail is within its fault band (R402, R428). -/
def Blk.voltSample (b : Blk) (readings : List Nat) : Blk :=
  if !b.pwr.rails then b
  else
    let b := (List.range 16).foldl (fun b i => match readings[i]? with
      | some v => b.voltRail i v
      | none => b) b
    let good := (List.range 16).all fun i => decide (i < 2) || !(readings[i]?).any (outFault i)
    { b with pwr := { b.pwr with pgOut := good } }

/-- VOLT_SAMPLE (R402). -/
def execVoltSample (readings : List Nat) (s : State) : Host.Outcome State Fault Refusal := .next (s.setB (s.b.voltSample readings))

/-! ### Power and glitches (R385, R406) -/

/-- The power class that the tide's average is measured against (R406). -/
def Blk.powerClass (b : Blk) : Nat := if b.mon.changing then max (classOfOp b.mon.op) (classOfOp b.mon.target) else classOfOp b.mon.op

/-- The power of the tide just ended (R406). -/
def Blk.powerTide (b : Blk) (watts : Nat) : Blk :=
  let above := decide (b.powerClass < watts)
  b.modMon fun m => { m with
    powerW := watts % 2 ^ 16, peakW := max m.peakW (watts % 2 ^ 16), overTides := if above then satInc 16 m.overTides else m.overTides
    overRun := if above then m.overRun + 1 else 0 }

/-- POWER_OVER: sixteen tides in a row over the class, and each further sixteen (R406). -/
def execPowerOver (s : State) : Host.Outcome State Fault Refusal :=
  if 16 ≤ s.b.mon.overRun then .next (s.setB ((s.b.modMon fun m => { m with overRun := m.overRun - 16 }).raiseMod 0xC005 s.b.mon.powerW)) else .next s

/-- GLITCH_DETECT: the module resets with cause 6; the state area counts it and the next boot reports it (R385). -/
def execGlitchDetect (volt : Bool) (s : State) : Host.Outcome State Fault Refusal :=
  if !s.b.pwr.rails || !s.b.pwr.rstN then .next s
  else
    let b := s.b.modSec fun x => { x with
      glitchVolt := if volt then satInc 16 x.glitchVolt else x.glitchVolt, glitchClk := if volt then x.glitchClk else satInc 16 x.glitchClk, glitchPend := some volt }
    .next ((s.setB b).moduleReset causeGlitch)

/-! ### The retraining of the stacks (R141, R405) -/

/-- The controllers of an HBM4 stack. -/
def stackMcs (h : Nat) : List Pan := (List.range 16).map fun i => leafPan (8 + h) kMC i

/-- STACK_RETRAIN: the next stack goes into CALIB, one a tide from the switch tide (R141); a calibration slot that runs on it is abandoned (R154). -/
def Blk.stackStart (b : Blk) : Blk :=
  match b.mon.stackQ, b.mon.stackNow with
  | h :: hs, none =>
    if !tideRuns b.tide || decide (b.tide.num < b.mon.stackTide) then b
    else
      let b := b.modMon fun m => { m with stackQ := hs, stackNow := some (h, m.rate), stackTide := b.tide.num + 1 }
      (stackMcs h).foldl (fun b p => if b.works p then (b.modMc p fun m => { m with inCalib := true, calibAt := b.now }).setSt p .calib else b) b
  | _, _ => b

/-- STACK_RETRAIN (R141). -/
def execStackRetrain (s : State) : Host.Outcome State Fault Refusal := .next (s.setB s.b.stackStart)

/-- STACK_RETRAIN_DONE: the stack reports its new rate, and what waited goes on (R141). -/
def Blk.stackDone (b : Blk) : Blk :=
  match b.mon.stackNow with
  | some (h, r) =>
    let b := b.modMon fun m => { m with stackNow := none }
    let b := (stackMcs h).foldl (fun b p =>
      let b := b.modMc p fun m => { m with rate := r, inCalib := false }
      if (b.panSt p).st = .calib then b.setSt p .ready else b) b
    (b.raise 0x300A moduleCtx (diePan (8 + h)) 0).opSettle
  | none => b

/-- STACK_RETRAIN_DONE (R141). -/
def execStackRetrainDone (s : State) : Host.Outcome State Fault Refusal := .next (s.setB s.b.stackDone)

/-- CCLK_RAISE: at the tide after the last stack has retrained CCLK rises (R405). -/
def execCclkRaise (s : State) : Host.Outcome State Fault Refusal :=
  let m := s.b.mon
  if m.raising && m.stackQ.isEmpty && m.stackNow.isNone && decide (m.stackTide ≤ s.b.tide.num) then
    .next (s.setB (s.b.modMon fun m => { m with cclk := m.target, raising := false }).opSettle)
  else .next s

/-! ### Calibration slots (R151, R403) -/

/-- The controllers of slot n. -/
def slotMcs (n : Nat) : List Pan := leafPan dFD kMC (n % 16) :: (List.range 8).map fun h => leafPan (8 + h) kMC (n % 16)

/-- The monitors of a die are calibrated: a site that fails twice running has failed; the ring oscillator is counted (R402, R403). -/
def Blk.calibMonitors (b : Blk) (die : Nat) (siteFail : List Nat) (ring : Nat) : Blk :=
  let b := ((List.range 64).filter fun i => siteDie i = die).foldl (fun b i =>
    let x := b.mon.sites.get {} i
    let n := if siteFail.contains i then x.calFails + 1 else 0
    let b := if n = x.calFails then b else b.modMon fun m => { m with sites := m.sites.set i { x with calFails := n } }
    if 2 ≤ n then b.siteFails i else b) b
  let b := b.modMon fun m => { m with nowCnt := m.nowCnt.set die (ring % 2 ^ 16) }
  if ring % 2 ^ 16 * 100 < b.mon.factory.get 0 die * 95 then b.raiseMod 0xC006 die else b

/-- Staging and link SRAM, which no slot calibrates: their repairs are made in the next slot of all (R149; DESIGN CHOICE, log 56). -/
def sramMcs : List Pan := allMC.filter fun p => decide (mcKind p ≤ 1)

/-- CALIB_SLOT: `margin` lists the lanes that training finds outside margin, by controller; `siteFail` the sites whose calibration fails; `ring` the count. -/
def Blk.calibSlot (b : Blk) (margin : List (Nat × Nat)) (siteFail : List Nat) (ring : Nat) : Blk :=
  match b.slotDue with
  | none => b
  | some t =>
    if !b.firstDue t b.cfg.mod.calPhase rankCalib then b
    else
    let n := t / b.cfg.mod.calEvery
    let b := b.modMon fun m => { m with slotN := n, slotTide := t + 1 }
    let b := (slotMcs n).foldl (fun b p => b.calibStart p ((margin.filter fun x => x.1 = p).map (·.2))) b
    let b := sramMcs.foldl Blk.doRepairs b
    b.calibMonitors (n % 16) siteFail ring

/-- CALIB_SLOT (R151). -/
def execCalibSlot (margin : List (Nat × Nat)) (siteFail : List Nat) (ring : Nat) (s : State) : Host.Outcome State Fault Refusal :=
  .next (s.setB (s.b.calibSlot margin siteFail ring))

end Sys2Proof.Machine
end

