-- ==== Sys2Proof/Machine/Supply.lean ====
section
/-! DEFINITION. Power-up, power-down and the pins that report (23: R427 to R433). -/
namespace Sys2Proof.Machine
open Sys2Proof

/-- ALERT_N is low while the module pan is FAULT, RESET or OFF, or a junction site is at 100 °C or more; it is released while AUX3V3 alone is present (R428). -/
def Blk.alertLow (b : Blk) : Bool :=
  let st := b.moduleState
  b.pwr.p54v && b.pwr.aux && (decide (st = .fault ∨ st = .reset ∨ st = .off) || b.hottest.any fun x => decide (100 ≤ x.2))

/-- The supplies have been good long enough, and the rails are off. -/
def Blk.mayPowerUp (b : Blk) : Bool := b.pwr.aux && b.pwr.p54v && b.pwr.stable && !b.pwr.rails && !b.pwr.ramping

/-- Powering off: PG_OUT falls, every die is put in reset, the tier keys are destroyed, the rails go; a retired module is so no longer (R429, R431). -/
def State.powerOff (s : State) : State :=
  if !s.b.pwr.rails then s.setB { s.b with pwr := { s.b.pwr with ramping := false }, rst := { s.b.rst with retired := false } }
  else
    let s := s.clearAll
    s.setB { s.b with pwr := { s.b.pwr with rails := false, ramping := false, pgOut := false }, rst := { s.b.rst with retired := false } }

/-- PWR_EN_RISE: with the supplies good the rails ramp; an earlier rise is kept until they are (R430). -/
def execPwrEnRise (s : State) : Host.Outcome State Fault Refusal :=
  .next (s.setB { s.b with pwr := { s.b.pwr with pwrEn := true, ramping := s.b.pwr.ramping || s.b.mayPowerUp } })

/-- SUPPLIES_STABLE: P54V and AUX3V3 have been within range for 20 ms; a PWR_EN that is high already takes effect (R430). -/
def execSuppliesStable (s : State) : Host.Outcome State Fault Refusal :=
  if !s.b.pwr.aux then .next s
  else
    let b := { s.b with pwr := { s.b.pwr with p54v := true, stable := true } }
    .next (s.setB { b with pwr := { b.pwr with ramping := b.pwr.ramping || (b.pwr.pwrEn && b.mayPowerUp) } })

/-- POWER_GOOD: every rail is within its band, PG_OUT rises, and the next boot's cause is power-on (R361, R430, R431). -/
def execPowerGood (s : State) : Host.Outcome State Fault Refusal :=
  if !s.b.pwr.ramping then .next s
  else .next (s.setB { s.b with
    pwr := { s.b.pwr with ramping := false, rails := true, pgOut := true, pgAt := s.b.now }
    rst := { s.b.rst with lastCause := causePower, moduleResets := satInc 32 s.b.rst.moduleResets } })

/-- PWR_EN_FALL (R431). -/
def execPwrEnFall (s : State) : Host.Outcome State Fault Refusal :=
  let s := s.powerOff
  .next (s.setB { s.b with pwr := { s.b.pwr with pwrEn := false } })

/-- P54V_LOSS: below 40 V for more than 50 µs, or above 60 V (R429). -/
def execP54vLoss (s : State) : Host.Outcome State Fault Refusal :=
  let s := s.powerOff
  .next (s.setB { s.b with pwr := { s.b.pwr with p54v := false, stable := false } })

/-- AUX3V3_LOSS: below 3.0 V the module powers off and the standby controller stops (R429). -/
def execAux3v3Loss (s : State) : Host.Outcome State Fault Refusal :=
  let s := s.powerOff
  .next (s.setB { s.b with pwr := { s.b.pwr with aux := false, stable := false } })

/-- AUX3V3_APPLY: the standby controller starts; both supplies must hold for 20 ms from here (R430). -/
def execAux3v3Apply (s : State) : Host.Outcome State Fault Refusal :=
  if s.b.pwr.aux then .next s else .next (s.setB { s.b with pwr := { s.b.pwr with aux := true, stable := false } })

end Sys2Proof.Machine
end

