-- ==== Sys2Proof/Machine/Edge.lean ====
section
/-! DEFINITION. The tide edge with all that happens at it, the loss of the tide, and the passing of time (R19, R32 to R39, R243, R392, R397, R405, R406, R409). -/
namespace Sys2Proof.Machine
open Sys2Proof

/-! ### Heartbeats (R19) -/

/-- Did a leaf pass its liveness check in the tide just ended (R19)? `stalled` lists the engines, raker cores and controllers whose command pipe made no progress and
the hub cores with a window that ended late. An engine or core without pending work passes all the same, and a port goes by its training alone; what a controller has
pending is not in the state. -/
def Blk.passes (b : Blk) (stalled : List Nat) (p : Pan) : Bool :=
  if panKind p = kLP then
    let x := b.portOf (portOfPan p)
    decide (x.st = .up ∨ x.st = .held) || x.want || (match x.retrainAt with
      | some t => !b.past t (x.cfg.retrainMax * 1000000)
      | none => false)
  else if panKind p = kMC || panKind p = kHC then !stalled.contains p
  else !(stalled.contains p && b.leafBusy p)

/-- Does a leaf's heartbeat advance? R19 does not say whether a leaf that is not in service does when it holds no pending work: DESIGN CHOICE, only leaves in service
and link ports in RESET or INIT advance (log 41). -/
def Blk.leafAdvances (b : Blk) (stalled : List Nat) (p : Pan) : Bool :=
  let st := b.leafState p
  b.passes stalled p && (inService st || (panKind p = kLP && decide (st = .reset ∨ st = .init)))

/-- May a member hold its group back: OFF, RETIRED and FAULT members do not enter, and one in RESET counts as having advanced. -/
def holdsBack (st : PState) : Bool := inService st

/-- The pans whose heartbeat advances at an edge: the leaves that pass, then each group whose direct members in service all advance. -/
def Blk.advancing (b : Blk) (stalled : List Nat) : List Pan :=
  let ls := allLeaves.filter (b.leafAdvances stalled)
  let kinds := (List.range 16).flatMap fun d => ((List.range 7).filter fun k => decide (0 < unitCount d k)).map (kindPan d)
  let ks := kinds.filter fun p => (b.membersOf p).all fun q => ls.contains q || !holdsBack (b.leafState q)
  let ds := ((List.range 16).map diePan).filter fun p => (b.membersOf p).all fun q => ks.contains q || !holdsBack (b.kindState q)
  let m := (b.membersOf modulePan).all fun q => ds.contains q || !holdsBack (b.dieState q)
  let c := m && b.positions.all fun n => n = b.pos || (match b.mgt.peers.find n with
    | some x => !x.heard || x.declared || x.missing = 0
    | none => true)
  ls ++ ks ++ ds ++ (if m then [modulePan] else []) ++ (if c then [clusterPan] else [])

/-- Every pan that keeps a heartbeat. -/
def everyPan : List Pan :=
  allLeaves ++ ((List.range 16).flatMap fun d => ((List.range 7).filter fun k => decide (0 < unitCount d k)).map (kindPan d)) ++
    (List.range 16).map diePan ++ [modulePan, clusterPan]

/-- The heartbeats of an edge; a unit in service that has not advanced is to be reset (R344). -/
def Blk.beat (b : Blk) (stalled : List Nat) : Blk :=
  let l := b.advancing stalled
  let late := allLeaves.filter fun p => inService (b.leafState p) && !l.contains p
  let b := everyPan.foldl (fun b p => b.modPan p fun x => if l.contains p then { x with hb := (x.hb + 1) % 2 ^ 16, hbLate := false } else { x with hbLate := true }) b
  b.modRst fun r => { r with notLive := r.notLive ++ late.filter fun p => !r.notLive.contains p }

/-! ### The management bus at an edge (R391 to R393, R397) -/

/-- The tide that ended was a bus-failure tide, or the first that was none (R397). -/
def Blk.jamEdge (b : Blk) : Blk :=
  let was := b.mgt.jamNow.isSome
  let clear := !was && b.mgt.jammed
  let b := b.modMgt fun m => { m with jamNow := none, jammed := m.jammed && was, jamIn := if was then m.jamIn + 1 else m.jamIn }
  if clear then b.raiseMod 0xD003 b.mgt.jamTides else b

/-- An interval ends: each active position that was not heard in it is missing for its tides (R392). -/
def Blk.intervalEnd (b : Blk) : Blk :=
  b.modMgt fun m => { m with
    heard := min 255 (m.peers.filter fun e => e.2.inInterval).length
    jamIn := 0
    peers := m.peers.mapV fun _ x => { x with inInterval := false, missing := if x.heard && !x.inInterval && !x.declared then x.missing + (m.hbK - m.jamIn) else x.missing } }

/-- An interval begins: the heartbeat is settled, and CAPACITY is due in every 64th (R392, R393). -/
def Blk.intervalStart (b : Blk) : Blk :=
  let b := b.modMgt fun m => { m with hbVal := (b.panSt modulePan).hb, hbStatus := b.statusOf modulePan }
  if b.mgtActive && b.intNo % 64 = b.pos % 64 then b.mgtQueue (.capacity 0 0 0 0 (b.capacityOf modulePan)) none pCapacity else b

/-- The bus at an edge; the designated sender's beacon goes while it is LOCKED to another source (R30). -/
def Blk.mgtEdge (b : Blk) : Blk :=
  let b := b.jamEdge
  let b := if b.tide.num % b.mgt.hbK = 0 then b.intervalEnd.intervalStart else b
  if b.tide.beaconTx && b.tide.st = .locked && b.tide.src ≠ .beacon then b.mgtQueue (.beacon 0 0 0 b.tide.num 0) (some (b.tide.num + 1)) pBeacon else b

/-- A declared position that nobody has claimed once the claim's tide is over: EV_SPR_NONE, once (R337, R338). -/
def Blk.noneCheck (b : Blk) : Blk :=
  b.mgt.peers.foldl (fun b e =>
    let pos := e.1
    if e.2.declared && decide (e.2.declaredTide + 2 ≤ b.tide.num) && !b.spare.none_.contains pos && !(b.spare.claims.any fun c => c.1 = pos) &&
        !(b.spare.claim.any fun c => c.1 = pos) then
      (b.modSpare fun s => { s with none_ := s.none_ ++ [pos] }).raiseMod 0x9103 pos
    else b) b

/-! ### Other per-tide work -/

/-- Each bucket takes its tokens, the module's and then the contexts' (R243). -/
def Blk.refillAll (b : Blk) : Blk :=
  let b := b.sinkFlush.refill moduleCtx
  (b.ctxs.filter fun e => ctxLives e.2.st).foldl (fun b e => b.refill e.1) b

/-- EV_XPT_UNKNOWN of the tide just ended, and the port's tide counts begin anew (R261, R280, R290). -/
def Blk.portTide (b : Blk) (i : Nat) : Blk :=
  let p := b.portOf i
  let b := if p.unkOver = 0 then b else b.raiseMod 0x7003 (p.unkOver % 2 ^ 32 + i * 2 ^ 32)
  if p.unkUsed = 0 && p.unkOver = 0 && p.ucwTide = 0 then b else b.modPort i fun x => { x with unkUsed := 0, unkOver := 0, ucwTide := 0 }

/-- The error rates of R147 are counted tide by tide. -/
def mcTide (m : Mc) : Mc := { m with ceLane := [], ceTide := 0, ceRated := false, ueLines := [] }

/-- Fabric, memory, port and crossing injections only delay, and delays are not modelled: how many were applied in the tide just ended is free (R409, R413; log 50). -/
def Blk.tstDelays (b : Blk) : Blk :=
  let t := b.tst
  if t.active && decide (t.fabric ≠ 0 ∨ t.mem ≠ 0 ∨ bits t.port 24 7 ≠ 0 ∨ t.xing ≠ 0) then
    { b with tst := { t with cnt := satAdd 32 t.cnt (Config.freeNat b.freeCtr) } }.spend
  else b

/-- Injection starts, and stops once nothing is held, at an edge (R409, R410). -/
def Blk.tstEdge (b : Blk) : Blk :=
  let b := b.tstDelays
  let t := b.tst
  if t.enable then
    (if t.active then { b with tst := { t with stopping := false } } else { b with tst := { t with active := true, stopping := false } }.raiseMod 0xE001 t.seed)
  else if !t.active then b
  else if t.held.isEmpty then b.tstOff
  else { b with tst := { t with stopping := true } }

/-- Strobes that came before the last was delivered (R39). -/
def Blk.overruns (b : Blk) (l : List Nat) : Blk := l.foldl (fun b p => b.modXing p fun x => { x with ovr := true }) b

/-! ### The rows -/

/-- TIDE_EDGE: `stalled` lists the leaves whose command pipe made no progress or whose windows ended late in the tide just ended, `overrun` the leaves whose crossing met a second strobe,
`watts` the tide's average power. -/
def Blk.tideEdge (b : Blk) (stalled overrun : List Nat) (watts : Nat) : Blk :=
  if !b.running || !b.edgeDue then b
  else
    let b := b.ptpAge.countEdge.edgeSource
    let b := b.beat stalled
    let b := b.overruns overrun
    let b := b.mgtEdge.noneCheck
    let b := b.powerTide watts
    let b := if b.switchNow then b else b.opSelect
    let b := (List.range 7).foldl Blk.portTide b
    let b := (b.recCheck dLD0).recCheck dLD1
    let b := { b with mc := b.mc.mapV fun _ m => mcTide m }
    let b := (b.ctxs.map (·.1)).foldl Blk.waitTick b
    b.refillAll.tstEdge

/-- TIDE_EDGE (R32). -/
def execTideEdge (stalled : List Nat) (overrun : List Nat) (watts : Nat) (s : State) : Host.Outcome State Fault Refusal :=
  .next (s.setB (s.b.tideEdge stalled overrun watts))

/-- A context's pending phase switch or swap is cancelled with the rest of what was scheduled (R227); the barrier of a swap aborts as the groups are left. -/
def Blk.cancelPhases (b : Blk) : Blk :=
  let l := b.ctxs.filter fun e => (e.2.phase = .generate && e.2.genEnd ≠ 0) || (b.swapTide e.1).isSome
  let b := { b with ctxs := b.ctxs.mapV fun _ c => if c.phase = .generate then { c with genEnd := 0 } else c }
  l.foldl (fun b _ => b.raiseMod 0x1008 0) b

/-- HOLDOVER_LIMIT: the module enters LOST (R35, R313): every scheduled action is cancelled, the groups are left, sources qualify anew. -/
def Blk.tideLost (b : Blk) : Blk :=
  let t := b.tide
  if t.st ≠ .holdover || decide (t.holdCnt < t.holdLimit) || (bestSource t .none).isSome then b
  else
    let n := t.sched.length
    let again := fun (x : SrcSt) => ({ x with ok := false, run := 0, count := 0, rej := false, within := 0 } : SrcSt)
    let b := b.modTide fun t => { (slewTide t b.now) with st := .lost, src := .none, slewLeft := 0, sched := [], train := none, missRun := 0,
                                                          ptp := again t.ptp, tin := again t.tin, bcn := again t.bcn }
    let b := b.raiseMod 0x1003 0
    let b := (List.range n).foldl (fun b _ => b.raiseMod 0x1008 0) b
    (b.noSwitch.cancelPhases).leaveGroups

/-- HOLDOVER_LIMIT (R35). -/
def execHoldoverLimit (s : State) : Host.Outcome State Fault Refusal := .next (s.setB s.b.tideLost)

/-! ### Time (R32) -/

/-- A nanosecond passes: the raker cores run (R126), and at the end of a microsecond the waits for staging SRAM count (R183), and what waits for a neighbour is looked after (R288). -/
def Blk.tick (b : Blk) : Blk :=
  let b := { b with now := b.now + 1 }.rvTick
  if b.now % 1000 = 0 then b.stallTick.ndTick else b

/-- A nanosecond of the tide timebase passes: what an idle block does (log 1). A frame on the management bus may end with it. -/
def State.tick (s : State) : State := s.setB s.b.tick.mgtEnd

end Sys2Proof.Machine
end

