-- ==== Sys2Proof/Machine/SealOps.lean ====
section
/-! DEFINITION. The seal store's commands: SEAL, its commit, ERASE (11, R206, R207, R211; R379). -/
namespace Sys2Proof.Machine
open Sys2Proof

/-- Is a stream one of the harvest domain whose peer is a host (R379)? -/
def Blk.sealStreamOk (b : Blk) (n : Nat) : Bool := b.cfg.hrv.pd.streams.any fun e => e.stream = n && e.peerHost

/-- SEAL: a sealing begins; the module seals one package at a time (R206, R211). -/
def Blk.sealReply (b : Blk) (l : List Nat) : Blk × OmpReply :=
  if b.store.job.isSome then (b, { status := stBusy })
  else if !b.sealStreamOk (fieldAt l 0 2) then (b, { status := stRefused })
  else (b.sealBegin { stream := fieldAt l 0 2, winId := fieldAt l 2 2, winGen := fieldAt l 4 2, bytes := fieldAt l 8 8 }, {})

/-- SEAL (R206). -/
def execSeal (m : OmpReq) (s : State) : Host.Outcome State Fault Refusal :=
  .next (s.omp m qSeal (onBlk fun b _ => b.sealReply m.body))

/-- A change of the directory: the older copy is written, then its sequence number rises above the other's (R207). -/
def dirCommit (s : SealSt) (pkgs : List Package) : SealSt :=
  if s.dir0.seq ≤ s.dir1.seq then { s with dir0 := { seq := s.dir1.seq + 1, pkgs := pkgs } } else { s with dir1 := { seq := s.dir0.seq + 1, pkgs := pkgs } }

/-- A package's chunks are erased, in the older copy of the directory as well (R207). -/
def eraseChunks (s : SealSt) (x : Nat × Nat) : SealSt :=
  let bare := fun (d : SealDir) => { d with pkgs := d.pkgs.map fun p => if (p.id, p.ver) = x then { p with body := [] } else p }
  { s with dir0 := bare s.dir0, dir1 := bare s.dir1 }

/-- SEAL_COMMIT: the whole body has been written; every chunk is read back and fits its digest again, and the package is committed (R206 steps 4, 5). -/
def Blk.sealEnd (b : Blk) (f : SealFound) : Blk :=
  match b.store.job with
  | none => b
  | some j => match j.pkg with
    | none => b
    | some p =>
      if j.done < j.bytes then b
      else if !((List.range p.chunks).all (chunkFits p p.man (flashWrong p.body f.wrong))) then b.sealRefuse 4
      else (b.modStore fun s => dirCommit { s with job := none } (s.pkgs ++ [p])).raiseMod 0xB101 (sealDetail p.id p.ver 0)

/-- SEAL_COMMIT (R206). -/
def execSealCommit (found : SealFound) (s : State) : Host.Outcome State Fault Refusal := .next (s.setB (s.b.sealEnd found))

/-- The packages that a context record names (R131, R208). -/
def ctxSeals (r : CtxRec) : List (Nat × Nat) :=
  (r.regions.filter (·.isSealed)).map (fun g => (g.sealId, g.sealVer)) ++ r.genSeal.toList ++ r.learnSeal.toList

/-- Does the active image name a package: its contexts, and those of its adoption sets? -/
def Blk.imageNames (b : Blk) (x : Nat × Nat) : Bool :=
  (b.cfg.ctxs ++ b.cfg.adopt.flatMap (·.ctxs)).any fun c => (ctxSeals c).contains x

/-- Does a load that is still to run read a package? -/
def Blk.loadReads (b : Blk) (x : Nat × Nat) : Bool :=
  b.ctxs.any fun e => (e.2.st = .creating || e.2.st = .restoring) && !e.2.loads.isEmpty && (ctxSeals e.2.rec_).contains x

/-- ERASE: refused with BUSY while the active image names the package or a load reads it (R207, R211, R380). -/
def Blk.eraseReply (b : Blk) (l : List Nat) : Blk × OmpReply :=
  let x := (fieldAt l 0 8, fieldAt l 8 4)
  if b.loadReads x || b.imageNames x then (b, { status := stBusy })
  else if !(b.store.pkgs.any fun p => (p.id, p.ver) = x) then (b, { status := stRefused })
  else ((b.modStore fun s => eraseChunks (dirCommit s (s.pkgs.filter fun p => (p.id, p.ver) ≠ x)) x).raiseMod 0xB104 (sealDetail x.1 x.2 0), {})

/-- ERASE (R207). -/
def execErase (m : OmpReq) (s : State) : Host.Outcome State Fault Refusal :=
  .next (s.omp m qErase (onBlk fun b _ => b.eraseReply m.body))

end Sys2Proof.Machine
end

