-- ==== Sys2Proof/Machine/Dispatch.lean ====
section
/-! DEFINITION. The dispatch of every command to its meaning. -/
namespace Sys2Proof.Machine

/-- The effect of a command on everything but the queue. -/
def exec (i : Instr) (s : State) : Host.Outcome State Fault Refusal :=
  match i with
  | .tideEdge stalled overrun watts => Sys2Proof.Machine.execTideEdge stalled overrun watts s
  | .ptpSyncRx mac domain seq twoStep t1 corr interval => Sys2Proof.Machine.execPtpSyncRx mac domain seq twoStep t1 corr interval s
  | .ptpFollowUpRx mac domain seq t1 corr => Sys2Proof.Machine.execPtpFollowUpRx mac domain seq t1 corr s
  | .ptpDelayRespRx mac domain seq t4 corr => Sys2Proof.Machine.execPtpDelayRespRx mac domain seq t4 corr s
  | .ptpDelayReqTx => Sys2Proof.Machine.execPtpDelayReqTx s
  | .ptpSyncTimeout => Sys2Proof.Machine.execPtpSyncTimeout s
  | .tideInPulse high => Sys2Proof.Machine.execTideInPulse high s
  | .tideInWindowClose => Sys2Proof.Machine.execTideInWindowClose s
  | .tideStuck => Sys2Proof.Machine.execTideStuck s
  | .tideStuckClear => Sys2Proof.Machine.execTideStuckClear s
  | .beacon l age => Sys2Proof.Machine.execBeacon l age s
  | .beaconLost => Sys2Proof.Machine.execBeaconLost s
  | .sourcePromote => Sys2Proof.Machine.execSourcePromote s
  | .slewDone => Sys2Proof.Machine.execSlewDone s
  | .holdoverLimit => Sys2Proof.Machine.execHoldoverLimit s
  | .xingRecordDeliver leaf arrived => Sys2Proof.Machine.execXingRecordDeliver leaf arrived s
  | .xingClkstop leaf flushed => Sys2Proof.Machine.execXingClkstop leaf flushed s
  | .qcmd core rd rs1 pc => Sys2Proof.Machine.execQcmd core rd rs1 pc s
  | .init me => Sys2Proof.Machine.execInit me s
  | .initDone me => Sys2Proof.Machine.execInitDone me s
  | .mma me => Sys2Proof.Machine.execMma me s
  | .mmaDone me => Sys2Proof.Machine.execMmaDone me s
  | .close me => Sys2Proof.Machine.execClose me s
  | .closeDone me lane => Sys2Proof.Machine.execCloseDone me lane s
  | .gaugeRecompute me => Sys2Proof.Machine.execGaugeRecompute me s
  | .qlaunch core rd rs1 pc => Sys2Proof.Machine.execQlaunch core rd rs1 pc s
  | .streamStart ve => Sys2Proof.Machine.execStreamStart ve s
  | .setvl ve => Sys2Proof.Machine.execSetvl ve s
  | .loop ve => Sys2Proof.Machine.execLoop ve s
  | .endS ve => Sys2Proof.Machine.execEnd ve s
  | .add ve => Sys2Proof.Machine.execAdd ve s
  | .mul ve => Sys2Proof.Machine.execMul ve s
  | .fma ve => Sys2Proof.Machine.execFma ve s
  | .min ve => Sys2Proof.Machine.execMin ve s
  | .max ve => Sys2Proof.Machine.execMax ve s
  | .cmp ve => Sys2Proof.Machine.execCmp ve s
  | .sel ve => Sys2Proof.Machine.execSel ve s
  | .cvt ve => Sys2Proof.Machine.execCvt ve s
  | .perm ve => Sys2Proof.Machine.execPerm ve s
  | .bcast ve => Sys2Proof.Machine.execBcast ve s
  | .ld ve => Sys2Proof.Machine.execLd ve s
  | .st ve => Sys2Proof.Machine.execSt ve s
  | .upd ve => Sys2Proof.Machine.execUpd ve s
  | .rsum ve => Sys2Proof.Machine.execRsum ve s
  | .rsumsq ve => Sys2Proof.Machine.execRsumsq ve s
  | .rmax ve => Sys2Proof.Machine.execRmax ve s
  | .rmin ve => Sys2Proof.Machine.execRmin ve s
  | .streamComplete ve => Sys2Proof.Machine.execStreamComplete ve s
  | .qwait core rd num pc => Sys2Proof.Machine.execQwait core rd num pc s
  | .qtest core rd num pc => Sys2Proof.Machine.execQtest core rd num pc s
  | .qfence core pc => Sys2Proof.Machine.execQfence core pc s
  | .rkContextAccess core pc addr acc => Sys2Proof.Machine.execRkContextAccess core pc addr acc s
  | .fence core pc => Sys2Proof.Machine.execFence core pc s
  | .rkIllegalInstr core pc trap => Sys2Proof.Machine.execRkIllegalInstr core pc trap s
  | .programStart core ctx => Sys2Proof.Machine.execProgramStart core ctx s
  | .exit core pc code => Sys2Proof.Machine.execExit core pc code s
  | .eventCall core pc a0 a1 => Sys2Proof.Machine.execEventCall core pc a0 a1 s
  | .tideCall core pc => Sys2Proof.Machine.execTideCall core pc s
  | .waitTide core pc a0 a1 => Sys2Proof.Machine.execWaitTide core pc a0 a1 s
  | .waitTideWake core => Sys2Proof.Machine.execWaitTideWake core s
  | .skeyrWrite core pc a0 => Sys2Proof.Machine.execSkeyrWrite core pc a0 s
  | .skeyrRead core pc a0 => Sys2Proof.Machine.execSkeyrRead core pc a0 s
  | .skeyrFlush core pc a0 => Sys2Proof.Machine.execSkeyrFlush core pc a0 s
  | .skeyrWait core pc a0 => Sys2Proof.Machine.execSkeyrWait core pc a0 s
  | .allReduce core pc a0 => Sys2Proof.Machine.execAllReduce core pc a0 s
  | .reduceScatter core pc a0 => Sys2Proof.Machine.execReduceScatter core pc a0 s
  | .allGather core pc a0 => Sys2Proof.Machine.execAllGather core pc a0 s
  | .allToAll core pc a0 => Sys2Proof.Machine.execAllToAll core pc a0 s
  | .broadcast core pc a0 => Sys2Proof.Machine.execBroadcast core pc a0 s
  | .permute core pc a0 => Sys2Proof.Machine.execPermute core pc a0 s
  | .barrier core pc a0 => Sys2Proof.Machine.execBarrier core pc a0 s
  | .qsend core pc a0 => Sys2Proof.Machine.execQsend core pc a0 s
  | .qrecv core pc a0 => Sys2Proof.Machine.execQrecv core pc a0 s
  | .collWait core pc a0 => Sys2Proof.Machine.execCollWait core pc a0 s
  | .memLineRead mc line wrong owner seq => Sys2Proof.Machine.execMemLineRead mc line wrong owner seq s
  | .memLineWrite mc line whole wrong owner seq => Sys2Proof.Machine.execMemLineWrite mc line whole wrong owner seq s
  | .rakeRead mc line wrong owner margin => Sys2Proof.Machine.execRakeRead mc line wrong owner margin s
  | .rakePeriodEnd mc => Sys2Proof.Machine.execRakePeriodEnd mc s
  | .rakeStart m => Sys2Proof.Machine.execRakeStart m s
  | .calibSlot margin siteFail ring => Sys2Proof.Machine.execCalibSlot margin siteFail ring s
  | .calibDone mc ok us => Sys2Proof.Machine.execCalibDone mc ok us s
  | .stackRetrain => Sys2Proof.Machine.execStackRetrain s
  | .cclkRaise => Sys2Proof.Machine.execCclkRaise s
  | .stageStart ctx gran die prefetch => Sys2Proof.Machine.execStageStart ctx gran die prefetch s
  | .stageDone ctx gran die => Sys2Proof.Machine.execStageDone ctx gran die s
  | .moveStart ctx gran dst => Sys2Proof.Machine.execMoveStart ctx gran dst s
  | .moveSwitch ctx gran => Sys2Proof.Machine.execMoveSwitch ctx gran s
  | .oldCopyFree ctx gran place => Sys2Proof.Machine.execOldCopyFree ctx gran place s
  | .sluRequestResume n => Sys2Proof.Machine.execSluRequestResume n s
  | .sluStallTimeout n => Sys2Proof.Machine.execSluStallTimeout n s
  | .offloadOut ctx tensor => Sys2Proof.Machine.execOffloadOut ctx tensor s
  | .offloadGranule ctx gran => Sys2Proof.Machine.execOffloadGranule ctx gran s
  | .returnStart ctx => Sys2Proof.Machine.execReturnStart ctx s
  | .returnDeadline ctx tensor => Sys2Proof.Machine.execReturnDeadline ctx tensor s
  | .collPeerWait ctx group seq => Sys2Proof.Machine.execCollPeerWait ctx group seq s
  | .arbiterGrant arb transfers => Sys2Proof.Machine.execArbiterGrant arb transfers s
  | .ctxCreate ctx => Sys2Proof.Machine.execCtxCreate ctx s
  | .sealLoadRegion ctx found => Sys2Proof.Machine.execSealLoadRegion ctx found s
  | .ctxCreated ctx => Sys2Proof.Machine.execCtxCreated ctx s
  | .firstLearnStart ctx => Sys2Proof.Machine.execFirstLearnStart ctx s
  | .phaseSwitchLearn ctx => Sys2Proof.Machine.execPhaseSwitchLearn ctx s
  | .learnDone ctx => Sys2Proof.Machine.execLearnDone ctx s
  | .swap ctx => Sys2Proof.Machine.execSwap ctx s
  | .pairBuilding ctx => Sys2Proof.Machine.execPairBuilding ctx s
  | .pairWaitTimeout ctx => Sys2Proof.Machine.execPairWaitTimeout ctx s
  | .phaseOverrun ctx => Sys2Proof.Machine.execPhaseOverrun ctx s
  | .learnLate ctx => Sys2Proof.Machine.execLearnLate ctx s
  | .teardownOpsEnded ctx => Sys2Proof.Machine.execTeardownOpsEnded ctx s
  | .teardownZeroised ctx bad => Sys2Proof.Machine.execTeardownZeroised ctx bad s
  | .quarantineEnd ctx index => Sys2Proof.Machine.execQuarantineEnd ctx index s
  | .write arr p => Sys2Proof.Machine.execWrite arr p s
  | .read arr p => Sys2Proof.Machine.execRead arr p s
  | .readResp arr p => Sys2Proof.Machine.execReadResp arr p s
  | .flush arr p => Sys2Proof.Machine.execFlush arr p s
  | .flushAck arr p => Sys2Proof.Machine.execFlushAck arr p s
  | .ack arr p => Sys2Proof.Machine.execAck arr p s
  | .sack arr p => Sys2Proof.Machine.execSack arr p s
  | .nak arr p => Sys2Proof.Machine.execNak arr p s
  | .cancel arr p => Sys2Proof.Machine.execCancel arr p s
  | .event arr p => Sys2Proof.Machine.execEvent arr p s
  | .reduce arr p => Sys2Proof.Machine.execReduce arr p s
  | .permuteSeg arr p => Sys2Proof.Machine.execPermuteSeg arr p s
  | .skyPacketTx stream => Sys2Proof.Machine.execSkyPacketTx stream s
  | .ackTimer stream => Sys2Proof.Machine.execAckTimer stream s
  | .rtoExpiry stream psn => Sys2Proof.Machine.execRtoExpiry stream psn s
  | .giveUp stream psn => Sys2Proof.Machine.execGiveUp stream psn s
  | .readReissue stream msgId => Sys2Proof.Machine.execReadReissue stream msgId s
  | .flushResend stream msgId => Sys2Proof.Machine.execFlushResend stream msgId s
  | .recordExpiry stream msgId => Sys2Proof.Machine.execRecordExpiry stream msgId s
  | .resyncWaitEnd stream => Sys2Proof.Machine.execResyncWaitEnd stream s
  | .holdBufferPlace die => Sys2Proof.Machine.execHoldBufferPlace die s
  | .entry arr p => Sys2Proof.Machine.execEntry arr p s
  | .report arr p => Sys2Proof.Machine.execReport arr p s
  | .abort arr p => Sys2Proof.Machine.execAbort arr p s
  | .credit arr p => Sys2Proof.Machine.execCredit arr p s
  | .rereq arr p => Sys2Proof.Machine.execRereq arr p s
  | .restore arr p => Sys2Proof.Machine.execRestore arr p s
  | .ready arr p => Sys2Proof.Machine.execReady arr p s
  | .collectiveStart engine => Sys2Proof.Machine.execCollectiveStart engine s
  | .collectiveDone ctx group seq => Sys2Proof.Machine.execCollectiveDone ctx group seq s
  | .barrierRelease ctx group seq => Sys2Proof.Machine.execBarrierRelease ctx group seq s
  | .permuteStart ctx group seq => Sys2Proof.Machine.execPermuteStart ctx group seq s
  | .epochAdvance ctx group seq => Sys2Proof.Machine.execEpochAdvance ctx group seq s
  | .shardWaitTimeout ctx group seq => Sys2Proof.Machine.execShardWaitTimeout ctx group seq s
  | .shardAbortTimeout ctx group seq => Sys2Proof.Machine.execShardAbortTimeout ctx group seq s
  | .shardRelease ctx group seq => Sys2Proof.Machine.execShardRelease ctx group seq s
  | .captureTimer ctx => Sys2Proof.Machine.execCaptureTimer ctx s
  | .harvestComplete ctx => Sys2Proof.Machine.execHarvestComplete ctx s
  | .destFailTimeout ctx dest => Sys2Proof.Machine.execDestFailTimeout ctx dest s
  | .restoreFetchDone ctx copies => Sys2Proof.Machine.execRestoreFetchDone ctx copies s
  | .restoreResume ctx => Sys2Proof.Machine.execRestoreResume ctx s
  | .positionSilent pos => Sys2Proof.Machine.execPositionSilent pos s
  | .spareClaim pos => Sys2Proof.Machine.execSpareClaim pos s
  | .spareTakeover => Sys2Proof.Machine.execSpareTakeover s
  | .heartbeat l => Sys2Proof.Machine.execHeartbeat l s
  | .claim l => Sys2Proof.Machine.execClaim l s
  | .takeover l => Sys2Proof.Machine.execTakeover l s
  | .capacity l => Sys2Proof.Machine.execCapacity l s
  | .heartbeatSlot => Sys2Proof.Machine.execHeartbeatSlot s
  | .mgtFrameTx => Sys2Proof.Machine.execMgtFrameTx s
  | .mgtCollision late slots => Sys2Proof.Machine.execMgtCollision late slots s
  | .mgtBackoffExpiry => Sys2Proof.Machine.execMgtBackoffExpiry s
  | .txUnderrun => Sys2Proof.Machine.execTxUnderrun s
  | .frameDeadline => Sys2Proof.Machine.execFrameDeadline s
  | .busJammed => Sys2Proof.Machine.execBusJammed s
  | .ompFragment l => Sys2Proof.Machine.execOmpFragment l s
  | .fragmentTimeout src msgId => Sys2Proof.Machine.execFragmentTimeout src msgId s
  | .portAnDone port abil => Sys2Proof.Machine.execPortAnDone port abil s
  | .portTrainingDone port => Sys2Proof.Machine.execPortTrainingDone port s
  | .mkaLive port => Sys2Proof.Machine.execMkaLive port s
  | .sakRekey port => Sys2Proof.Machine.execSakRekey port s
  | .portLinkDown port => Sys2Proof.Machine.execPortLinkDown port s
  | .ucwLimit port corrected uncorrectable => Sys2Proof.Machine.execUcwLimit port corrected uncorrectable s
  | .portRetrainTimeout port loopOk => Sys2Proof.Machine.execPortRetrainTimeout port loopOk s
  | .lnkRetrain m => Sys2Proof.Machine.execLnkRetrain m s
  | .neighborSolicitation mac port m => Sys2Proof.Machine.execNeighborSolicitation mac port m s
  | .pauseFrame port => Sys2Proof.Machine.execPauseFrame port s
  | .otherFrameRx arr => Sys2Proof.Machine.execOtherFrameRx arr s
  | .unitReset pan reason => Sys2Proof.Machine.execUnitReset pan reason s
  | .unitResetDone pan => Sys2Proof.Machine.execUnitResetDone pan s
  | .unitResetTimeout pan => Sys2Proof.Machine.execUnitResetTimeout pan s
  | .portReset port reason => Sys2Proof.Machine.execPortReset port reason s
  | .dieReset pan reason => Sys2Proof.Machine.execDieReset pan reason s
  | .dieResetDone pan failed => Sys2Proof.Machine.execDieResetDone pan failed s
  | .dieResetTimeout pan => Sys2Proof.Machine.execDieResetTimeout pan s
  | .moduleReset cause => Sys2Proof.Machine.execModuleReset cause s
  | .rstNAssert => Sys2Proof.Machine.execRstNAssert s
  | .rstNRelease => Sys2Proof.Machine.execRstNRelease s
  | .hubCoreSilent core => Sys2Proof.Machine.execHubCoreSilent core s
  | .hubCoreStandby core => Sys2Proof.Machine.execHubCoreStandby core s
  | .hubReloadTimeout core => Sys2Proof.Machine.execHubReloadTimeout core s
  | .fwHandoverReady => Sys2Proof.Machine.execFwHandoverReady s
  | .handoverDeadline => Sys2Proof.Machine.execHandoverDeadline s
  | .imageSwitch => Sys2Proof.Machine.execImageSwitch s
  | .serviceReset m => Sys2Proof.Machine.execServiceReset m s
  | .serviceResetDue => Sys2Proof.Machine.execServiceResetDue s
  | .retireRequest m => Sys2Proof.Machine.execRetireRequest m s
  | .retire => Sys2Proof.Machine.execRetire s
  | .bootRom pos untrained margin => Sys2Proof.Machine.execBootRom pos untrained margin s
  | .bootReady salt => Sys2Proof.Machine.execBootReady salt s
  | .bootLate => Sys2Proof.Machine.execBootLate s
  | .identity m => Sys2Proof.Machine.execIdentity m s
  | .attest m salt => Sys2Proof.Machine.execAttest m salt s
  | .panRead m => Sys2Proof.Machine.execPanRead m s
  | .openS m d => Sys2Proof.Machine.execOpen m d s
  | .confirm m => Sys2Proof.Machine.execConfirm m s
  | .closeSession m => Sys2Proof.Machine.execCloseSession m s
  | .sessionTimeout session => Sys2Proof.Machine.execSessionTimeout session s
  | .regRead m => Sys2Proof.Machine.execRegRead m s
  | .regWrite m => Sys2Proof.Machine.execRegWrite m s
  | .capWrite m => Sys2Proof.Machine.execCapWrite m s
  | .tstEnable m => Sys2Proof.Machine.execTstEnable m s
  | .reorderRelease => Sys2Proof.Machine.execReorderRelease s
  | .slotWrite m => Sys2Proof.Machine.execSlotWrite m s
  | .slotCheck m pos => Sys2Proof.Machine.execSlotCheck m pos s
  | .switch m pos => Sys2Proof.Machine.execSwitch m pos s
  | .seal m => Sys2Proof.Machine.execSeal m s
  | .sealCommit found => Sys2Proof.Machine.execSealCommit found s
  | .erase m => Sys2Proof.Machine.execErase m s
  | .unlock m => Sys2Proof.Machine.execUnlock m s
  | .tempSample readings => Sys2Proof.Machine.execTempSample readings s
  | .voltSample readings => Sys2Proof.Machine.execVoltSample readings s
  | .powerOver => Sys2Proof.Machine.execPowerOver s
  | .glitchDetect volt => Sys2Proof.Machine.execGlitchDetect volt s
  | .pwrEnRise => Sys2Proof.Machine.execPwrEnRise s
  | .powerGood => Sys2Proof.Machine.execPowerGood s
  | .pwrEnFall => Sys2Proof.Machine.execPwrEnFall s
  | .p54vLoss => Sys2Proof.Machine.execP54vLoss s
  | .aux3v3Loss => Sys2Proof.Machine.execAux3v3Loss s
  | .stackRetrainDone => Sys2Proof.Machine.execStackRetrainDone s
  | .portResetTimeout port => Sys2Proof.Machine.execPortResetTimeout port s
  | .ptpAnnounceRx mac domain key source seq => Sys2Proof.Machine.execPtpAnnounceRx mac domain key source seq s
  | .ecall core pc a7 => Sys2Proof.Machine.execEcall core pc a7 s
  | .aux3v3Apply => Sys2Proof.Machine.execAux3v3Apply s
  | .suppliesStable => Sys2Proof.Machine.execSuppliesStable s

end Sys2Proof.Machine
end

