-- ==== Sys2Proof/Safety.lean ====
section
/-! DEFINITION. What the claims call a safe run, and the words in which they say what a command leaves unchanged. -/
namespace Sys2Proof.Machine
open Sys2Proof

/-- The invariant of the block: context memory is in its canonical form, keys rising and no byte 0 listed (R160). -/
def State.Inv (s : State) : Prop := memWf s.mem = true

/-- A command completes: it ends in a next state, not in a fault or a refusal. -/
def Completes (c : Instr) (s : State) : Prop := ∃ t, exec c s = .next t

/-- A state reached by steps that all end in a next state. -/
inductive Reaches : State → State → Prop where
  | refl (s : State) : Reaches s s
  | step (s t u : State) (h : Reaches s t) (k : step t = .next u) : Reaches s u

/-- A run from `s` is safe: no state it reaches steps to a fault or a refusal, and each keeps the invariant. -/
def SafeFrom (s : State) : Prop := ∀ t, Reaches s t → t.Inv ∧ ∃ u, Machine.step t = .next u

/-- `b` is `a` but for event records on their way out (R241 to R243, R364): the records held in buckets and for the boot, those in the event path,
the mirrored ones, and the counts of records sent, merged and dropped. -/
structure EventsOnly (a b : Blk) : Prop where
  ctx : ∀ n, b.ctx n = { a.ctx n with ev := (b.ctx n).ev, sent := (b.ctx n).sent, merged := (b.ctx n).merged, dropped := (b.ctx n).dropped }
  arb : ∀ x, x ≠ ArbId.eventPath → b.arbOf x = a.arbOf x
  rest : b = { a with
    modEv := b.modEv, arbs := b.arbs, ctxs := b.ctxs
    sec := { a.sec with hold := b.sec.hold, holdGap := b.sec.holdGap, sinkUp := b.sec.sinkUp }
    mgt := { a.mgt with mirror := b.mgt.mirror, mirDrop := b.mgt.mirDrop } }

/-- `t` is `s` with the block `b`, but for event records on their way out: context memory and the queue of commands are those of `s`. -/
structure Becomes (s t : State) (b : Blk) : Prop where
  mem : t.mem = s.mem
  pending : t.pending = s.pending
  blk : EventsOnly b t.b

/-- A port that has sent frames, or has frames waiting, more than before: its counts of those, its SA's packet numbers, its neighbours; everything else is as it was. -/
structure PortAside (p q : Port) : Prop where
  eq : q = { p with cancelTx := q.cancelTx, ctl := q.ctl, sinceCtl := q.sinceCtl, pn := q.pn, saks := q.saks, nbrs := q.nbrs }

/-- What a fault, a teardown and an abort leave alone (R244 to R247, R312): `b` has these parts of `a`, every STATE and every context record of it. What has been sent
stays sent; CANCELs may have left, and what waited behind them (R247, R270). -/
structure Aside (a b : Blk) : Prop where
  out : ∃ l, b.out = l ++ a.out
  freeCtr : b.freeCtr = a.freeCtr
  now : b.now = a.now
  pwr : b.pwr = a.pwr
  tide : b.tide = a.tide
  xing : b.xing = a.xing
  mc : b.mc = a.mc
  repairs : b.repairs = a.repairs
  ports : ∀ i, PortAside (a.portOf i) (b.portOf i)
  rst : b.rst = a.rst
  store : b.store = a.store
  mon : b.mon = a.mon
  tst : b.tst = a.tst
  spare : b.spare = a.spare
  cfg : b.cfg = a.cfg
  evSeq : b.evSeq = a.evSeq
  st : ∀ p, (b.panSt p).st = (a.panSt p).st
  rec_ : ∀ n, (b.ctx n).rec_ = (a.ctx n).rec_

/-- From `a` to `b` a context's teardown begins (R247): its steps 1 to 3 are done, no phase is in force, its fault record is `f`; the other contexts live as before. -/
structure TornDown (a b : Blk) (ctx : Nat) (reason : TdReason) (f : FaultRec) : Prop where
  aside : Aside a b
  st : (b.ctx ctx).st = .teardown
  step : (b.ctx ctx).tdStep = 3
  why : (b.ctx ctx).tdReason = reason
  start : (b.ctx ctx).tdStart = a.now
  phase : (b.ctx ctx).phase = .none
  gen : (b.ctx ctx).gen = none
  learn : (b.ctx ctx).learn = none
  fault : (b.ctx ctx).fault = f
  others : ∀ n, n ≠ ctx → (b.ctx n).st = (a.ctx n).st ∧ (b.ctx n).fault = (a.ctx n).fault ∧ (b.ctx n).tdStep = (a.ctx n).tdStep

/-- From `s` to `t` a context meets its first fault (R244, R247): the record is made and its teardown begins; memory and the queue stay. -/
structure Faults (s t : State) (ctx cause : Nat) (pan : Pan) (seq : Nat) (pcValid : Bool) (addr detail : Nat) : Prop where
  mem : t.mem = s.mem
  pending : t.pending = s.pending
  down : TornDown s.b t.b ctx .fault
    { valid := true, cause := cause, pan := s.b.full pan, seq := seq, pcValid := pcValid, addr := addr % 2 ^ 64, detail := detail % 2 ^ 64 }

/-- The neighbour of an address on a port is known, so that a frame for it leaves at once (R288). -/
def Blk.Near (b : Blk) (port addr : Nat) : Prop := ∃ n, b.nbr port addr = some n ∧ (n.st = .reachable ∨ n.st = .delay ∨ n.st = .probe)

/-- A frame that comes in on a port is taken: the port is UP and the frame passes the MACsec check it asks for (R285, R286). -/
def Blk.takesFrame (b : Blk) (port : Nat) (mac : MacsecIn) : Prop := (b.portOf port).st = .up ∧ ((b.portOf port).cfg.macsec = true → mac = .valid)

/-- No PTP master has been silent for the announce receipt timeout (R29, log 13). -/
def Blk.masterHeard (b : Blk) : Prop := ∀ key source at_, b.tide.ptpRx.master = some (key, source, at_) → b.now < at_ + announceTimeout

/-- A frame has left a port: under MACsec it has taken a packet number (R285). -/
def Blk.left (b : Blk) (port : Nat) (o : Out) : Blk := { b with ports := b.ports.set port (countPn (b.portOf port)), out := o :: b.out }

/-- A request that the OMP server accepts on a session (R378 to R382): it came in a datagram on HP, well formed, its session is confirmed, its TAG and SEQ are right
and its operator has the role it needs. -/
structure OmpReady (s : State) (m : OmpReq) (x : Session) : Prop where
  here : s.b.ompHere m = true
  net : m.bus = false
  form : formOk m = true
  numbered : m.session ≠ 0
  found : s.b.sec.sessions.find m.session = some x
  confirmed : x.confirmed = true
  tag : m.tag = tagFor x.key (reqBytes m tagZero)
  seq : m.seq = x.seq + 1
  near : s.b.Near 0 m.src
  role : ∀ k, roleBit m.req = some k → bitAt (((s.b.cfg.operators[x.op]?).map (·.roles)).getD 0) k = true

/-- The bytes that answer a request of a session (R378, R381): its TAG covers the message with a TAG of zero. -/
def ompAnswer (m : OmpReq) (x : Session) (status : Nat) (body : List Nat) : List Nat :=
  ompBytes 1 m.req m.session status m.seq m.msgId 0 body (tagFor x.key (ompBytes 1 m.req m.session status m.seq m.msgId 0 body tagZero))

/-- A session once a request on it has been accepted and answered: its SEQ moved on, its count of bad messages 0, the answer kept for a repeat (R380, R382). -/
def Session.answered (x : Session) (m : OmpReq) (now status : Nat) (body : List Nat) : Session :=
  { x with seq := m.seq, bad := 0, lastAt := now, last := some (reqBytes m m.tag, status, body) }

/-- The block once a request of a session has been accepted and answered (R380, R381). -/
def Blk.replied (b : Blk) (m : OmpReq) (x : Session) (status : Nat) (body : List Nat) : Blk :=
  { b with
    out := .omp m.src m.srcPort (ompAnswer m x status body) :: b.out
    ports := b.ports.set 0 (countPn (b.portOf 0))
    sec := { b.sec with sessions := b.sec.sessions.set m.session (x.answered m b.now status body) } }

/-- The address of the next instruction of a stream (R107). -/
def Stream.pc (x : Stream) : Nat := (x.addr + x.off) % 2 ^ 64

/-- A vector engine in service fetches a good instruction `i` of its stream `x` (R107 to R110): the fetch passes the checks, the die holds a copy, and no check of R108 before
those on addresses and formats rejects it. -/
structure VeFetches (s : State) (ve : Nat) (x : Stream) (i : VeIns) : Prop where
  run : (s.b.veOf ve).run = some x
  going : x.ended = false
  works : s.b.works (vePan ve) = true
  allowed : access (s.b.ctx x.ctx) x.who false x.pc 8 = .ok
  staged : s.b.staged x.ctx (ve / 4) [(x.pc, 8)] = true
  word : veIns (s.viewNat none x.ctx x.pc 8) = i
  good : veCheck i (s.b.veOf ve).vl = none

/-- From `s` to `t` a vector engine has run an instruction of its stream `x`: its registers are those of `v`, the stream stands at offset `off`, the context's flags have
gathered `fl` (R65); memory and everything else of the block stay, but for the record of what the die last read and the numbers drawn. -/
structure VeRan (s t : State) (ve : Nat) (x : Stream) (v : Ve) (off : Nat) (fl : NumFlags) : Prop where
  mem : t.mem = s.mem
  pending : t.pending = s.pending
  engine : t.b.veOf ve = { v with run := some { x with off := off } }
  engines : ∀ n, n ≠ ve → t.b.veOf n = s.b.veOf n
  flags : (t.b.ctx x.ctx).flags = orFlags (s.b.ctx x.ctx).flags fl
  ctx : t.b.ctx x.ctx = { s.b.ctx x.ctx with
    flags := (t.b.ctx x.ctx).flags, gen := (t.b.ctx x.ctx).gen, genPrev := (t.b.ctx x.ctx).genPrev, learn := (t.b.ctx x.ctx).learn, draws := (t.b.ctx x.ctx).draws }
  ctxOther : ∀ n, n ≠ x.ctx → t.b.ctx n = s.b.ctx n
  rest : t.b = { s.b with
    freeCtr := t.b.freeCtr, ve := t.b.ve, ctxs := t.b.ctxs
    slu := { s.b.slu with map := t.b.slu.map } }

/-- A packet on a stream `x` of this module passes steps 1 to 6 of R261: its port is up, it is protected where it must be, whole, from a known peer, of a known version and TYPE, on a
stream that names its sender and port, and its context takes it; no injection is active (R409). -/
structure Arrives (s : State) (arr : Arrival) (p : Packet) (x : RxStream) : Prop where
  up : (s.b.portOf arr.port).st = .up
  here : s.b.spare.displaced = false
  running : s.b.running = true
  secure : (s.b.portOf arr.port).cfg.macsec = true → arr.macsec = true
  fits : s.b.frameFits arr p = true
  bytes : p.data.length = p.h.length
  peer : s.b.knownPeer arr.src = true
  crc : crcFits arr p = true
  plain : s.b.tst.active = false
  ver : verFits arr = true
  len : lengthOk p.h = true
  stream : s.b.rxStream p.h = some x
  src : x.e.peerAddr = arr.src
  port : bitAt x.pd.ports arr.port = true
  host : arr.port = 0 → x.pd.macsecHp = true → (s.b.portOf 0).cfg.macsec = true
  active : s.b.rxActive x p = true

/-- An answer on a stream can leave at once (R270, R272): a path stands, its neighbour is known, and nothing else waits at a port. -/
structure MayAnswer (b : Blk) (n : Nat) : Prop where
  paths : b.paths n 0x7F ≠ []
  near : ∀ p ∈ b.paths n 0x7F, b.Near p.1 (b.peerAddr n)
  free : ∀ i, b.dataWaits i = false ∧ (b.portOf i).ctl = []
  here : b.spare.displaced = false

/-- One control packet with the header `h` has left on stream `n` (R270). -/
def Answers (s t : State) (n : Nat) (h : SkyHdr) : Prop := ∃ path ∈ s.b.paths n 0x7F, t.b.out = .sky path.1 (s.b.wire n path { h := s.b.peerHdr n h }) :: s.b.out

/-- A packet has been refused with a NAK (R261, R271): nothing is placed, its PSN is not marked, no record is made, and the NAK leaves unless one of its message went within RTO_MIN. -/
structure Refuses (s t : State) (n : Nat) (h : SkyHdr) (reason info : Nat) : Prop where
  mem : t.mem = s.mem
  pending : t.pending = s.pending
  e : (t.b.strmOf n).e = (s.b.strmOf n).e
  map : (t.b.strmOf n).map = (s.b.strmOf n).map
  recs : t.b.recs = s.b.recs
  held : t.b.held = s.b.held
  answer : MayAnswer s.b n → (s.b.strmOf n).nakAt.find h.msgId = none →
    Answers s t n { typ := tNak, psn := h.psn, msgId := h.msgId, reason := reason, info := info, ts := h.ts }

/-- The acknowledgement of what stream `n` has received in `b` (R255, R270). -/
def ackOf (b : Blk) (n ts : Nat) (ece : Bool) : SkyHdr :=
  { typ := if (ackFields (b.strmOf n)).2 = 0 then tAck else tSack, ece := ece, ackPsn := (ackFields (b.strmOf n)).1, sackBits := (ackFields (b.strmOf n)).2, ts := ts }

/-- A packet of a collective `k` that this member has issued passes the checks of R261 and R301 up to its own rule: it is new, well formed, from a member of the group, of rank `rank`, and tagged with the
collective's epoch. -/
structure CollArrives (s : State) (arr : Arrival) (p : Packet) (x : RxStream) (c : Nat) (k : Coll) (g : GroupRec) (rank : Nat) : Prop where
  arrives : Arrives s arr p x
  typ : p.h.typ = tReduce ∨ p.h.typ = tPermute
  owner : x.owner = some c
  fresh : s.b.psnRule (s.b.strmOf p.h.stream) p.h = (.new, false)
  form : s.b.step8 p.h = true
  room : s.b.recFree p.h = true
  found : s.b.findColl c p.h.winId (bits p.h.offset 40 23) = some k
  inGroup : s.b.groupFor c p.h.winId (bits p.h.offset 40 23) = some g
  ranked : (g.members.findIdx fun m => m.addr = arr.src) = rank
  member : rank < g.members.length
  stays : s.b.spare.groupsLeft = false
  number : bits p.h.offset 40 23 ≠ seqRestore
  epoch : epochBelow (s.b.ctx c).epoch p.h.winGen = false
  tag : k.d.epoch % 2 ^ 16 = p.h.winGen

end Sys2Proof.Machine
end

