-- ==== Sys2Proof/Certificates/Slice0/Obligations.lean ====
section
/-! DEFINITION. The statements for the provers. A statement with several parts is their conjunction; the parts stand before it under the name Claims. -/
open Sys2Proof Sys2Proof.Machine

/-- What reset leaves of the registers whose reset values the spec gives (R16, R20, R45 to R47, R157, R158, R182, R184, R252, R294, R317, R340, R361, R362, R400): every leaf reads
RESET, the tide unit acquires with the default period and limit, every port is DOWN, no context lives and none has a fault record, no window is open, no command waits. Other fields
are the model's choice (logs 3 and 4) and are not stated here. -/
def Obligations.ResetState : Prop :=
  State.reset.pending = [] ∧ State.reset.mem = [] ∧ (∀ p, (State.reset.b.panSt p).st = .reset ∧ (State.reset.b.panSt p).cause = 0) ∧
  (State.reset.b.tide.st = .acquire ∧ State.reset.b.tide.num = 0 ∧ State.reset.b.tide.period = 0x000F4240 ∧ State.reset.b.tide.holdLimit = 0x07D0 ∧ State.reset.b.tide.numSet = false ∧ State.reset.b.tide.sched = []) ∧
  (∀ i, (State.reset.b.portOf i).st = .down ∧ (State.reset.b.portOf i).downCnt = 0) ∧
  (∀ n, (State.reset.b.ctx n).st = .absent ∧ (State.reset.b.ctx n).fault.valid = false ∧ (State.reset.b.ctx n).fault.seq = 0xFFFFFFFF) ∧
  (∀ w, (State.reset.b.winOf w).open_ = false) ∧ (∀ p, (State.reset.b.mcOf p).ueCtx = 0xFFFF ∧ (State.reset.b.mcOf p).keyReady = false) ∧
  (∀ e, State.reset.b.ceOf e = {}) ∧ State.reset.b.slu.policyOk = false ∧ State.reset.b.slu.opsPeak = 0 ∧ State.reset.b.rst.hc0 = .active ∧ State.reset.b.rst.hc1 = .standby ∧
  State.reset.b.rst.lastPan = 0xFFFFFFFF ∧ State.reset.b.mgt.txThresh = 0x040 ∧ State.reset.b.spare.adopted = none ∧ State.reset.b.spare.displaced = false

/-- A step of the block: with a command at the front of the queue it is that command's `exec` with the rest of the queue; with none waiting a nanosecond of the tide timebase passes
(the model's choice, log 1). -/
def Obligations.StepIsExec : Prop := ∀ (s : State),
  (∀ c rest, s.pending = c :: rest → Machine.step s = exec c { s with pending := rest }) ∧ (s.pending = [] → Machine.step s = .next s.tick ∧ s.tick.b.now = s.b.now + 1 ∧ s.tick.mem = s.mem)

/-- The invariant holds at reset. -/
def Obligations.ResetInv : Prop := State.reset.Inv

/-- Every step keeps the invariant: context memory stays in its one canonical form, whichever command runs on whichever state. -/
def Obligations.StepKeepsInv : Prop := ∀ (s t : State), s.Inv → Machine.step s = .next t → t.Inv

/-- Every run is safe: from a state that meets the invariant, no state ever reached stops, and each meets the invariant. -/
def Obligations.RunsAreSafe : Prop := ∀ (s : State), s.Inv → SafeFrom s

/-- Every command ends in a next state, whatever the state and its operands: a guard that is not met leaves the state unchanged (the model's choice, log 2), and none touches the queue
of waiting commands. -/
def Obligations.ExecCompletes : Prop := ∀ (c : Instr) (s : State), ∃ t, exec c s = .next t ∧ t.pending = s.pending

/-- Context memory read back (R160, R163): bytes placed at a key are read there, every other byte reads as before, and zeroing a range leaves the rest. -/
def Obligations.MemoryBytes : Prop := ∀ (s : State) (k j lo hi : Nat) (bs : List Nat), s.Inv →
  (∀ i, i < bs.length → memRead (memWriteBytes s.mem k bs) (k + i) = bs.getD i 0 % 256) ∧ (j < k ∨ k + bs.length ≤ j → memRead (memWriteBytes s.mem k bs) j = memRead s.mem j) ∧
  (memRead (memZero s.mem lo hi) j = if lo ≤ j ∧ j < hi then 0 else memRead s.mem j) ∧ (∀ t : State, t.Inv → (∀ a, memRead t.mem a = memRead s.mem a) → t.mem = s.mem)

/-- TIDE_IN_PULSE (R28, R38): a pulse too short is filtered; the first pulse starts a train; one too soon is merged; one outside the window is counted and, where TIDE_IN is not
qualified, starts a new train, while for a qualified TIDE_IN the window counts as missing; one in the window extends the run, and the eighth in a row qualifies TIDE_IN where the
tide's number is known. Nothing else of the block changes but, with the eighth, event records. -/
def Claims.TideInPulse : Prop := ∀ (s : State) (high : Nat),
  (high < 100 → exec (.tideInPulse high) s = .next (s.setB { s.b with tide := { s.b.tide with tinGlitch := satInc 8 s.b.tide.tinGlitch } })) ∧
  (100 ≤ high → s.b.tide.train = none →
    exec (.tideInPulse high) s = .next (s.setB { s.b with tide := { s.b.tide with
      train := some s.b.now, expect := s.b.now + s.b.tide.period, missRun := 0, tin := { s.b.tide.tin with count := 1 } } })) ∧
  (∀ last, 100 ≤ high → s.b.tide.train = some last → 2 * (s.b.now - last) < s.b.tide.period →
    exec (.tideInPulse high) s = .next (s.setB { s.b with tide := { s.b.tide with tideOvr := satInc 8 s.b.tide.tideOvr } })) ∧
  (∀ last, 100 ≤ high → s.b.tide.train = some last → s.b.tide.period ≤ 2 * (s.b.now - last) → (s.b.now + 500 < s.b.tide.expect ∨ s.b.tide.expect + 500 < s.b.now) →
    s.b.tide.tin.ok = false →
    exec (.tideInPulse high) s = .next (s.setB { s.b with tide := { s.b.tide with
      tinOow := satInc 8 s.b.tide.tinOow, train := some s.b.now, expect := s.b.now + s.b.tide.period, missRun := 0, tin := { s.b.tide.tin with count := 1 } } })) ∧
  (∀ last, 100 ≤ high → s.b.tide.train = some last → s.b.tide.period ≤ 2 * (s.b.now - last) → (s.b.now + 500 < s.b.tide.expect ∨ s.b.tide.expect + 500 < s.b.now) →
    s.b.tide.tin.ok = true → s.b.tide.missRun < 3 →
    exec (.tideInPulse high) s = .next (s.setB { s.b with tide := { s.b.tide with
      tinOow := satInc 8 s.b.tide.tinOow, tinMiss := satInc 8 s.b.tide.tinMiss, missRun := s.b.tide.missRun + 1
      expect := s.b.tide.expect + s.b.tide.period, tin := { s.b.tide.tin with count := 0 } } })) ∧
  (∀ last, 100 ≤ high → s.b.tide.train = some last → s.b.tide.period ≤ 2 * (s.b.now - last) → s.b.tide.expect ≤ s.b.now + 500 → s.b.now ≤ s.b.tide.expect + 500 →
    s.b.tide.tin.ok = false → s.b.tide.tin.count < 7 →
    exec (.tideInPulse high) s = .next (s.setB { s.b with tide := { s.b.tide with
      train := some s.b.now, expect := s.b.now + s.b.tide.period, missRun := 0
      tin := { s.b.tide.tin with count := s.b.tide.tin.count + 1, edge := some s.b.now, num := s.b.numberNow } } })) ∧
  (∀ last, 100 ≤ high → s.b.tide.train = some last → s.b.tide.period ≤ 2 * (s.b.now - last) → s.b.tide.expect ≤ s.b.now + 500 → s.b.now ≤ s.b.tide.expect + 500 →
    s.b.tide.tin.count = 7 → s.b.numberNow ≠ none →
    ∃ t, exec (.tideInPulse high) s = .next t ∧ Becomes s t { s.b with tide := t.b.tide } ∧
      t.b.tide.train = some s.b.now ∧ t.b.tide.tin.count = 8 ∧ t.b.tide.tin.ok = true ∧ t.b.tide.tin.num = s.b.numberNow)

/-- TIDE_IN_WINDOW_CLOSE, TIDE_STUCK and TIDE_STUCK_CLEAR (R38): a window that closes with no pulse counts as missing, and the fourth in a row drops the train and declares TIDE_IN
lost; an input high for more than two periods declares it lost at once, with TIDE_STUCK, STUCK_SEEN and EV_TIDE_STUCK; a stuck input that goes low qualifies afresh. Nothing else
changes. -/
def Claims.TideInLost : Prop := ∀ (s : State),
  (s.b.tide.train ≠ none → s.b.tide.expect + 500 < s.b.now → s.b.tide.missRun < 3 →
    exec .tideInWindowClose s = .next (s.setB { s.b with tide := { s.b.tide with
      tinMiss := satInc 8 s.b.tide.tinMiss, missRun := s.b.tide.missRun + 1, expect := s.b.tide.expect + s.b.tide.period, tin := { s.b.tide.tin with count := 0 } } })) ∧
  (s.b.tide.train ≠ none → s.b.tide.expect + 500 < s.b.now → 3 ≤ s.b.tide.missRun →
    exec .tideInWindowClose s = .next (s.setB { s.b with tide := { s.b.tide with
      tinMiss := satInc 8 s.b.tide.tinMiss, missRun := 0, expect := s.b.tide.expect + s.b.tide.period, train := none
      tin := { s.b.tide.tin with ok := false, count := 0, run := 0 } } })) ∧
  (s.b.tide.stuck = false →
    exec .tideStuck s = .next (s.setB ({ s.b with tide := { s.b.tide with
      stuck := true, stuckSeen := true, train := none, missRun := 0, tin := { s.b.tide.tin with ok := false, count := 0, run := 0 } } }.raiseMod 0x1004 0))) ∧
  (s.b.tide.stuck = true →
    exec .tideStuckClear s = .next (s.setB { s.b with tide := { s.b.tide with
      stuck := false, train := none, missRun := 0, tin := { s.b.tide.tin with ok := false, count := 0, run := 0 } } }))

/-- The tide input: the claims above it, together. -/
def Obligations.TideIn : Prop := Claims.TideInPulse ∧ Claims.TideInLost

/-- The tide sources lost and taken (R28, R31): a PTP source without a Sync for the longer of 4 tides and 3 Sync intervals is lost; a beacon sender is lost once the edge after the
eighth missing beacon has passed; a LOCKED unit switches, at the edge that ends its 64th tide qualified, to a source of higher priority, with EV_TIDE_SRC_CHANGE, and slews its
offset out; an offset of n ns is out after 10,000 n ns; while it is slewed out the edges move by at most 1 ns for each 10,000 ns that pass, rounded up, and never away. Nothing
else changes. -/
def Claims.TideSources : Prop := ∀ (s : State),
  (∀ t0, s.b.masterHeard → s.b.tide.ptpRx.lastSync = some t0 → t0 + max (4 * s.b.tide.period) (3 * s.b.tide.ptpRx.interval) ≤ s.b.now →
    exec .ptpSyncTimeout s = .next (s.setB { s.b with tide := { s.b.tide with
      ptpRx := { s.b.tide.ptpRx with lastSync := none, twoStep := none }, ptp := { s.b.tide.ptp with ok := false, count := 0, run := 0 } } })) ∧
  (∀ e, s.b.tide.bcn.edge = some e → e + 9 * s.b.tide.period ≤ s.b.now →
    exec .beaconLost s = .next (s.setB { s.b with tide := { s.b.tide with
      bcnFrom := none, bcn := { s.b.tide.bcn with ok := false, count := 0, run := 0, edge := none, num := none } } })) ∧
  (s.b.tide.st = .locked → s.b.tide.src = .beacon → s.b.tide.order = [.tideIn, .beacon] → s.b.tide.tin.ok = true → s.b.tide.tin.rej = false → s.b.tide.tin.run = 64 → s.b.now = s.b.tide.countedAt →
    exec .sourcePromote s = .next (s.setB ({ s.b with tide := { slewTide s.b.tide s.b.now with
      src := .tideIn, offset := sat32 s.b.tide.tin.off, slewLeft := s.b.tide.tin.off, slewAt := s.b.now } }.raiseMod 0x1001 0))) ∧
  (s.b.tide.slewLeft ≠ 0 → s.b.tide.slewAt + s.b.tide.slewLeft.natAbs * 10000 ≤ s.b.now →
    exec .slewDone s = .next (s.setB { s.b with tide := { s.b.tide with
      edgeAt := ((s.b.tide.edgeAt : Int) + s.b.tide.slewLeft).toNat, slewLeft := 0 } })) ∧
  (∀ b : Blk, b.tide = s.b.tide → s.b.now ≤ b.now → s.b.tide.slewAt ≤ s.b.now →
    (((b.lastEdge : Int) - s.b.lastEdge).natAbs) * 10000 ≤ b.now - s.b.now + 9999 ∧ (slewTide s.b.tide b.now).slewLeft.natAbs ≤ s.b.tide.slewLeft.natAbs)

/-- The PTP messages (R28, R29, R285): a Sync of the image's domain while the port is SLAVE is noted with its interval, and a two-step one waits, with its own correction, for its
Follow_Up, which completes it; a complete Sync leaves PTP minus timebase, the sending time with its corrections plus the path delay less the reception, and while edges occur
counts where its offset is under 1 µs; a Delay_Req leaves on HP, the only PTP message the module sends, and its Delay_Resp gives the mean path delay; the first Announce names the
master, the second of the same clock makes the port SLAVE, and a better clock takes its place; a master that has been silent for the timeout (log 13) is one no more, and the
source is lost with it. -/
def Claims.PtpMessages : Prop := ∀ (s : State) (mac : MacsecIn) (seq t1 corr iv key source : Nat),
  s.b.takesFrame 0 mac → s.b.masterHeard →
  (s.b.tide.ptpRx.slave = true →
    exec (.ptpSyncRx mac s.b.tide.ptpDomain seq true t1 corr iv) s = .next (s.setB { s.b with tide := { s.b.tide with
      ptpRx := { s.b.tide.ptpRx with lastSync := some s.b.now, interval := iv, twoStep := some (seq, s.b.now, corr) } } })) ∧
  (s.b.tide.ptpRx.slave = true →
    ∃ t, exec (.ptpSyncRx mac s.b.tide.ptpDomain seq false t1 corr iv) s = .next t ∧ Becomes s t { s.b with tide := t.b.tide } ∧
      t.b.tide.ptpRx = { s.b.tide.ptpRx with
        lastSync := some s.b.now, interval := iv, delta := some (((t1 + corr : Nat) : Int) + s.b.tide.ptpRx.delay - (s.b.now : Int)), twoStep := none
        t1 := t1 + corr, t2 := s.b.now } ∧
      (tideRuns s.b.tide = true → ∀ edge : Int, edge = (s.b.now : Int) - (((t1 + corr : Nat) : Int) + s.b.tide.ptpRx.delay - s.b.tide.epoch) % s.b.tide.period →
        t.b.tide.ptp.count = if (edgeOffset (slewTide s.b.tide s.b.now) edge).natAbs < 1000 then min 16 (s.b.tide.ptp.count + 1) else 0)) ∧
  (∀ t2 c, s.b.tide.ptpRx.twoStep = some (seq, t2, c) →
    ∃ t, exec (.ptpFollowUpRx mac s.b.tide.ptpDomain seq t1 corr) s = .next t ∧ Becomes s t { s.b with tide := t.b.tide } ∧
      t.b.tide.ptpRx = { s.b.tide.ptpRx with
        delta := some (((t1 + c + corr : Nat) : Int) + s.b.tide.ptpRx.delay - (t2 : Int)), twoStep := none, t1 := t1 + c + corr, t2 := t2 }) ∧
  (s.b.tide.ptpRx.slave = true → s.b.tide.ptpRx.delta ≠ none → s.b.spare.displaced = false →
    exec .ptpDelayReqTx s = .next (s.setB ({ s.b with
      tide := { s.b.tide with ptpRx := { s.b.tide.ptpRx with req := some (s.b.tide.ptpRx.seq, s.b.now), seq := (s.b.tide.ptpRx.seq + 1) % 2 ^ 16 } } }.left 0
      (.delayReq s.b.tide.ptpRx.seq)))) ∧
  (∀ t3 t4 : Nat, s.b.tide.ptpRx.req = some (seq, t3) →
    exec (.ptpDelayRespRx mac s.b.tide.ptpDomain seq t4 corr) s = .next (s.setB { s.b with tide := { s.b.tide with
      ptpRx := { s.b.tide.ptpRx with delay := (((s.b.tide.ptpRx.t2 : Int) - s.b.tide.ptpRx.t1) + ((t4 : Int) - corr - t3)) / 2, req := none } } })) ∧
  ((s.b.tide.ptpRx.master = none ∨ ∃ k other at_, s.b.tide.ptpRx.master = some (k, other, at_) ∧ other ≠ source ∧ key < k) →
    exec (.ptpAnnounceRx mac s.b.tide.ptpDomain key source seq) s = .next (s.setB { s.b with tide := { s.b.tide with
      ptpRx := { s.b.tide.ptpRx with master := some (key, source, s.b.now), slave := false, lastSync := none, twoStep := none }
      ptp := { s.b.tide.ptp with ok := false, count := 0, run := 0 } } })) ∧
  (∀ k at_, s.b.tide.ptpRx.master = some (k, source, at_) →
    exec (.ptpAnnounceRx mac s.b.tide.ptpDomain key source seq) s = .next (s.setB { s.b with tide := { s.b.tide with
      ptpRx := { s.b.tide.ptpRx with master := some (key, source, s.b.now), slave := true } } }))

/-- A silent PTP master (R28, R29; the timeout is log 13's): once no Announce of it has come for the timeout it is the master no more, the port is not SLAVE and the source is lost. -/
def Claims.PtpSilence : Prop := ∀ (s : State) (k source at_ : Nat),
  s.b.tide.ptpRx.master = some (k, source, at_) → at_ + announceTimeout ≤ s.b.now →
  exec .ptpSyncTimeout s = .next (s.setB { s.b with tide := { s.b.tide with
    ptpRx := { s.b.tide.ptpRx with master := none, slave := false, lastSync := none, twoStep := none }
    ptp := { s.b.tide.ptp with ok := false, count := 0, run := 0 } } })

/-- Tide sources and PTP: the claims above it, together. -/
def Obligations.TideTime : Prop := Claims.TideSources ∧ Claims.PtpMessages ∧ Claims.PtpSilence

/-- TIDE_EDGE (R31, R32, R406): an edge that is due raises the tide number by one, up to its largest value, follows the last edge by one period and what has been slewed, and notes the
tide's power and its peak; each source's tides of being qualified are counted. A LOCKED unit whose source stays qualified stays on it; one that has no qualified source left is in
HOLDOVER, and one in HOLDOVER without a source counts the edge (R35). Context memory and the queue stay. -/
def Claims.TideEdge : Prop := ∀ (s : State) (stalled overrun : List Nat) (watts : Nat), s.b.running = true → s.b.edgeDue = true →
  ∃ t, exec (.tideEdge stalled overrun watts) s = .next t ∧ t.mem = s.mem ∧ t.pending = s.pending ∧ t.b.now = s.b.now ∧
    t.b.tide.num = min (s.b.tide.num + 1) (2 ^ 48 - 1) ∧ t.b.tide.edgeAt = s.b.lastEdge + s.b.tide.period ∧ t.b.tide.countedAt = s.b.now ∧
    t.b.tide.tin = srcTide s.b.tide.maxOffset s.b.tide.tin ∧ t.b.tide.bcn = srcTide s.b.tide.maxOffset s.b.tide.bcn ∧
    t.b.mon.powerW = watts % 2 ^ 16 ∧ t.b.mon.peakW = max s.b.mon.peakW (watts % 2 ^ 16) ∧
    (s.b.tide.st = .locked → s.b.tide.src = .tideIn → srcGood s.b.tide .tideIn = true → t.b.tide.st = .locked ∧ t.b.tide.src = .tideIn) ∧
    (s.b.tide.ptp.ok = false → s.b.tide.tin.ok = false → s.b.tide.bcn.ok = false →
      t.b.tide.st = .holdover ∧ (s.b.tide.st = .locked → t.b.tide.src = .none ∧ t.b.tide.holdCnt = 0 ∧ t.b.tide.slewLeft = 0) ∧
      (s.b.tide.st = .holdover → t.b.tide.holdCnt = satInc 16 s.b.tide.holdCnt))

/-- HOLDOVER_LIMIT (R35, R313): a unit in HOLDOVER that has reached its limit with no source enters LOST: the schedule is cancelled, an image switch that waited with it, the TIDE_IN
train is dropped, every source qualifies anew, and the collective groups are left. Context memory and the queue stay. -/
def Claims.TideEnds : Prop := ∀ (s : State),
  s.b.tide.st = .holdover → s.b.tide.holdLimit ≤ s.b.tide.holdCnt → (∀ k, srcGood s.b.tide k = false) →
  ∃ t, exec .holdoverLimit s = .next t ∧ t.mem = s.mem ∧ t.pending = s.pending ∧ t.b.now = s.b.now ∧ t.b.tide.st = .lost ∧ t.b.tide.src = .none ∧ t.b.tide.sched = [] ∧
    t.b.tide.train = none ∧ t.b.tide.num = s.b.tide.num ∧ (∀ k, (srcSt t.b.tide k).ok = false ∧ (srcSt t.b.tide k).count = 0) ∧
    t.b.spare.groupsLeft = true ∧ t.b.sec.switchPend = none

/-- BEACON (R28, R30, R43): the first beacon of a sender gives an edge DELAY before the frame and its number, and a run of 1; one that agrees with the beacon before it, while no edges
occur, extends the run and the eighth qualifies the source; one of a higher position than the sender followed only reports the duplicate. -/
def Claims.Beacons : Prop := ∀ (s : State) (l : List Nat) (pos flags serial num delay age : Nat), s.b.mgtOn = true → s.b.sec.configured = true →
  s.b.busIn l = .frame (.beacon pos flags serial num delay) →
  (s.b.tide.bcnFrom = none → s.b.tide.bcn.ok = false → s.b.tide.bcn.num = none → tideRuns s.b.tide = false →
    exec (.beacon l age) s = .next (s.setB { s.b with
      mgt := { s.b.mgt with rxFrames := satInc 16 s.b.mgt.rxFrames }
      tide := { s.b.tide with bcnFrom := some pos, bcn := { s.b.tide.bcn with count := 1, edge := some (s.b.now - age - delay), num := some num } } })) ∧
  (∀ n e, s.b.tide.bcnFrom = some pos → s.b.tide.bcn.num = some n → s.b.tide.bcn.edge = some e →
    num = n + (s.b.now - age - delay - e + s.b.tide.period / 2) / s.b.tide.period →
    ∃ t, exec (.beacon l age) s = .next t ∧
      Becomes s t { s.b with mgt := { s.b.mgt with rxFrames := satInc 16 s.b.mgt.rxFrames }, tide := t.b.tide } ∧
      t.b.tide.bcn.count = min 8 (s.b.tide.bcn.count + 1) ∧ (7 ≤ s.b.tide.bcn.count → t.b.tide.bcn.ok = true) ∧
      t.b.tide.bcn.edge = some (s.b.now - age - delay) ∧ t.b.tide.bcn.num = some num) ∧
  (∀ q, s.b.tide.bcnFrom = some q → q < pos → s.b.tide.beaconDup = false →
    exec (.beacon l age) s = .next (s.setB ({ s.b with
      mgt := { s.b.mgt with rxFrames := satInc 16 s.b.mgt.rxFrames }, tide := { s.b.tide with beaconDup := true } }.raiseMod 0x1009 0)))

/-- Tide edges: the claims above it, together. -/
def Obligations.TideEdges : Prop := Claims.TideEdge ∧ Claims.TideEnds ∧ Claims.Beacons

/-- XING_RECORD_DELIVER and XING_CLKSTOP (R39 to R42): a record that finds room goes behind those queued and the oldest is delivered; one that finds a full queue with an equal record
is merged and counted, and one without an equal waits behind those that wait, so that nothing is dropped; a sender whose clock has stopped loses all that is in flight, counted, and
its leaf is reported and wanted for a reset. -/
def Obligations.Crossings : Prop := ∀ (s : State) (leaf : Nat) (r : Nat × Nat) (k : Nat),
  ((s.b.xingOf leaf).queue.length < 8 → (s.b.xingOf leaf).waiting = [] →
    exec (.xingRecordDeliver leaf [r]) s =
      .next (s.setB { s.b with xing := s.b.xing.set leaf { s.b.xingOf leaf with queue := ((s.b.xingOf leaf).queue ++ [r]).drop 1 } })) ∧
  ((s.b.xingOf leaf).queue.length = 8 → (s.b.xingOf leaf).queue.contains r = true → (s.b.xingOf leaf).waiting = [] →
    exec (.xingRecordDeliver leaf [r]) s =
      .next (s.setB { s.b with xing := s.b.xing.set leaf { s.b.xingOf leaf with queue := (s.b.xingOf leaf).queue.drop 1, mergeCnt := satInc 16 (s.b.xingOf leaf).mergeCnt } })) ∧
  (8 ≤ (s.b.xingOf leaf).queue.length → (s.b.xingOf leaf).queue.contains r = false →
    ∃ x, exec (.xingRecordDeliver leaf [r]) s = .next (s.setB { s.b with xing := s.b.xing.set leaf x }) ∧ x.mergeCnt = (s.b.xingOf leaf).mergeCnt ∧
      x.queue ++ x.waiting = ((s.b.xingOf leaf).queue ++ (s.b.xingOf leaf).waiting ++ [r]).drop 1 ∧ x.ovr = (s.b.xingOf leaf).ovr ∧ x.flushCnt = (s.b.xingOf leaf).flushCnt) ∧
  ((s.b.panSt leaf).st ≠ .reset → (s.b.panSt leaf).st ≠ .off →
    s.b.rst.stopped.contains leaf = false →
    exec (.xingClkstop leaf k) s = .next (s.setB (({ s.b with xing := s.b.xing.set leaf { s.b.xingOf leaf with
        clkStop := true, queue := [], waiting := []
        flushCnt := satAdd 8 (s.b.xingOf leaf).flushCnt ((s.b.xingOf leaf).queue.length + (s.b.xingOf leaf).waiting.length + k) } }.raise 0xA001 moduleCtx hubPan (s.b.full leaf)).modRst
      fun r => { r with stopped := s.b.rst.stopped ++ [leaf] })))

/-- The supplies (R361, R427 to R431): PWR_EN with good supplies starts the ramp; 20 ms of good supplies start it where PWR_EN is already high; POWER_GOOD raises PG_OUT, notes the
instant and gives the boot the power-on cause; PWR_EN falling, P54V lost and AUX3V3 lost end main power, and context memory with it; AUX3V3 applied starts the standby controller. -/
def Claims.Supplies : Prop := ∀ (s : State),
  (s.b.pwr.aux = true → s.b.pwr.p54v = true → s.b.pwr.stable = true → s.b.pwr.rails = false →
    exec .pwrEnRise s = .next (s.setB { s.b with pwr := { s.b.pwr with pwrEn := true, ramping := true } })) ∧
  (s.b.pwr.aux = true → s.b.pwr.pwrEn = true → s.b.pwr.rails = false →
    exec .suppliesStable s = .next (s.setB { s.b with pwr := { s.b.pwr with p54v := true, stable := true, ramping := true } })) ∧
  (s.b.pwr.ramping = true →
    exec .powerGood s = .next (s.setB { s.b with
      pwr := { s.b.pwr with ramping := false, rails := true, pgOut := true, pgAt := s.b.now }
      rst := { s.b.rst with lastCause := 0, moduleResets := satInc 32 s.b.rst.moduleResets } })) ∧
  (s.b.pwr.aux = false →
    exec .aux3v3Apply s = .next (s.setB { s.b with pwr := { s.b.pwr with aux := true, stable := false } })) ∧
  (s.b.pwr.rails = true →
    ∃ t, exec .pwrEnFall s = .next t ∧ t.mem = [] ∧ t.pending = s.pending ∧ t.b.ctxs = [] ∧ t.b.sec.tierKeys = false ∧
      t.b.pwr = { s.b.pwr with rails := false, ramping := false, pgOut := false, pwrEn := false }) ∧
  (s.b.pwr.rails = true →
    ∃ t, exec .p54vLoss s = .next t ∧ t.mem = [] ∧ t.pending = s.pending ∧ t.b.ctxs = [] ∧ t.b.sec.tierKeys = false ∧
      t.b.pwr = { s.b.pwr with rails := false, ramping := false, pgOut := false, p54v := false, stable := false }) ∧
  (s.b.pwr.rails = true →
    ∃ t, exec .aux3v3Loss s = .next t ∧ t.mem = [] ∧ t.pending = s.pending ∧ t.b.ctxs = [] ∧ t.b.sec.tierKeys = false ∧
      t.b.pwr = { s.b.pwr with rails := false, ramping := false, pgOut := false, aux := false, stable := false })

/-- The monitors (R402, R406, R385): sixteen tides over the power class are reported and taken off the run; a glitch counts, is kept for the next boot, and resets the module with cause
6; a junction sample at 100 °C or more warns and is kept with its maximum; and one rail outside its warning band but within its fault band is reported, PG_OUT staying high. -/
def Claims.Monitors : Prop := ∀ (s : State),
  (16 ≤ s.b.mon.overRun →
    exec .powerOver s = .next (s.setB ({ s.b with mon := { s.b.mon with overRun := s.b.mon.overRun - 16 } }.raiseMod 0xC005 s.b.mon.powerW))) ∧
  (s.b.pwr.rails = true → s.b.pwr.rstN = true →
    exec (.glitchDetect true) s = .next ((s.setB { s.b with sec := { s.b.sec with glitchVolt := satInc 16 s.b.sec.glitchVolt, glitchPend := some true } }).moduleReset 6)) ∧
  (s.b.pwr.rails = true → s.b.pwr.rstN = true →
    exec (.glitchDetect false) s = .next ((s.setB { s.b with sec := { s.b.sec with glitchClk := satInc 16 s.b.sec.glitchClk, glitchPend := some false } }).moduleReset 6)) ∧
  (∀ r : Int, s.b.pwr.rails = true → 100 ≤ r → r < 105 → (s.b.mon.sites.get {} 0).high = false → (s.b.mon.sites.get {} 0).maxC = none → (∀ i, (s.b.mon.sites.get {} i).trip < 2) →
    exec (.tempSample [r]) s = .next (s.setB ({ s.b with mon := { s.b.mon with sites := s.b.mon.sites.set 0 { s.b.mon.sites.get {} 0 with
      valid := true, tempC := r, maxC := some r, high := true, trip := 0 } } }.raiseMod 0xC001 (r.toNat % 256 * 2 ^ 8)))) ∧
  (∀ mv, s.b.pwr.rails = true → 4400 ≤ mv → mv < 4600 → (s.b.mon.rails.get {} 0).raised ≠ s.b.tide.num + 1 →
    ∃ t, exec (.voltSample [mv]) s = .next t ∧ t.mem = s.mem ∧ t.pending = s.pending ∧ t.b.pwr = { s.b.pwr with pgOut := true } ∧ t.b.mon.voltWarn = true ∧
      t.b.mon.rails = s.b.mon.rails.set 0 { s.b.mon.rails.get {} 0 with mv := mv, run := 0, warn := true, raised := s.b.tide.num + 1 } ∧
      t.b.rst = s.b.rst)

/-- Supplies and monitors: the claims above it, together. -/
def Obligations.Power : Prop := Claims.Supplies ∧ Claims.Monitors

/-- The operating point (R141, R405): from the switch tide on, the next stack that must change its rate goes into CALIB, one a tide; a stack that has retrained is reported; and at the
tide after the last of them CCLK rises, which ends the change. Of the block only the monitors' state and the controllers and pans of the stack change. -/
def Obligations.OperatingPoint : Prop := ∀ (s : State) (h : Nat) (hs : List Nat) (rate : Nat),
  (s.b.mon.stackQ = h :: hs → s.b.mon.stackNow = none → tideRuns s.b.tide = true → s.b.mon.stackTide ≤ s.b.tide.num →
    ∃ t, exec .stackRetrain s = .next t ∧ t = s.setB { s.b with mon := t.b.mon, mc := t.b.mc, pan := t.b.pan } ∧
      t.b.mon = { s.b.mon with stackQ := hs, stackNow := some (h, s.b.mon.rate), stackTide := s.b.tide.num + 1 }) ∧
  (s.b.mon.stackNow = some (h, rate) → s.b.mon.raising = true →
    ∃ t, exec .stackRetrainDone s = .next t ∧ t.b.mon = { s.b.mon with stackNow := none } ∧ Becomes s t { s.b with mon := t.b.mon, mc := t.b.mc, pan := t.b.pan }) ∧
  (s.b.mon.raising = true → s.b.mon.changing = true → s.b.mon.stackQ = [] → s.b.mon.stackNow = none → s.b.mon.stackTide ≤ s.b.tide.num →
    exec .cclkRaise s = .next (s.setB { s.b with mon := { s.b.mon with cclk := s.b.mon.target, op := s.b.mon.target, raising := false, changing := false } }))

/-- The hub cores (R350, R351): a silent ACTIVE core with a STANDBY beside it hands over, is reset and loads anew, with eight missed windows counted; with none beside it the module
resets with cause 3; a core that has loaded within 50 ms is STANDBY with the firmware in force; one that has not is FAULT. -/
def Obligations.HubCores : Prop := ∀ (s : State),
  (s.b.running = true → s.b.rst.hc0 = .active → s.b.rst.hc1 = .standby →
    exec (.hubCoreSilent 0) s = .next (s.setB ({ s.b with
      rst := { s.b.rst with hc0 := .loading, hc1 := .active, fwAct := s.b.rst.fwStby, fwStby := 0, handoverReady := false, missedWin := satAdd 16 s.b.rst.missedWin 8
                            loadAt := s.b.rst.loadAt.set 0 s.b.now, missed := s.b.rst.missed.set 0 0, switchovers := satInc 16 s.b.rst.switchovers }
      pan := s.b.pan.set (hcPan 0) { s.b.panSt (hcPan 0) with st := .reset } }.raiseMod 0xA005 1))) ∧
  (s.b.running = true → s.b.rst.hc0 = .active → s.b.rst.hc1 ≠ .standby →
    exec (.hubCoreSilent 0) s = .next ((s.setB { s.b with rst := { s.b.rst with missedWin := satAdd 16 s.b.rst.missedWin 8 } }).moduleReset 3)) ∧
  (∀ t0, s.b.rst.loadAt.find 1 = some t0 → s.b.rst.hc1 = .loading → s.b.now < t0 + 50000000 →
    exec (.hubCoreStandby 1) s = .next (s.setB { s.b with
      rst := { s.b.rst with hc1 := .standby, loadAt := s.b.rst.loadAt.erase 1, fwStby := s.b.rst.fwAct }
      pan := s.b.pan.set (hcPan 1) { s.b.panSt (hcPan 1) with st := .ready } })) ∧
  (∀ t0, s.b.rst.loadAt.find 1 = some t0 → s.b.rst.hc1 = .loading → t0 + 50000000 ≤ s.b.now →
    exec (.hubReloadTimeout 1) s = .next (s.setB ({ s.b with
      rst := { s.b.rst with hc1 := .fault, loadAt := s.b.rst.loadAt.erase 1 }
      pan := s.b.pan.set (hcPan 1) { s.b.panSt (hcPan 1) with st := .fault } }.raiseSev s.b.faultSev 0xA006 moduleCtx hubPan 1)))

/-- A module reset (R341, R348, R361): MODULE_RESET for the hub die, RST_N_ASSERT and the faults that end in it clear every die and context memory; the cause is kept and the resets are
counted; the fuses, the slots, the sealed packages and the supplies stand. RST_N_RELEASE starts the boot. -/
def Obligations.ModuleReset : Prop := ∀ (s : State),
  (s.b.pwr.rails = true → s.b.pwr.rstN = true →
    ∃ t, exec (.moduleReset 8) s = .next t ∧ t.mem = [] ∧ t.pending = s.pending ∧ t.b.ctxs = [] ∧ t.b.rk = [] ∧ t.b.me = [] ∧ t.b.ve = [] ∧ t.b.strm = [] ∧ t.b.colls = [] ∧
      t.b.tide = {} ∧ t.b.sec.tierKeys = false ∧ t.b.rst.lastCause = 8 ∧ t.b.rst.moduleResets = satInc 32 s.b.rst.moduleResets ∧
      t.b.sec.rootHash = s.b.sec.rootHash ∧ t.b.sec.minSvn = s.b.sec.minSvn ∧ t.b.store.pkgs = s.b.store.pkgs ∧ t.b.sec.slot0.bytes = s.b.sec.slot0.bytes ∧
      t.b.pwr = { s.b.pwr with pgAt := s.b.now }) ∧
  (s.b.pwr.rails = true → s.b.pwr.rstN = true →
    ∃ t, exec .rstNAssert s = .next t ∧ t.mem = [] ∧ t.pending = s.pending ∧ t.b.ctxs = [] ∧ t.b.tide = {} ∧ t.b.rst.lastCause = 1 ∧
      t.b.rst.moduleResets = satInc 32 s.b.rst.moduleResets ∧ t.b.pwr.rstN = false) ∧
  (s.b.pwr.rstN = false →
    exec .rstNRelease s = .next (s.setB { s.b with pwr := { s.b.pwr with rstN := true, pgAt := s.b.now } }))

/-- Bringing a port up (R284, R285, R290): auto-negotiation takes the highest rate common to RATE_SEL and to the partner's abilities for the port's MEDIA, or notes that none is; a
port that has trained is UP, or HELD under MACsec until a SAK is installed; a SAK is renewed with its packet numbers; codewords are counted. A port that comes UP notes its
retrain's time and whether its rate is low. Where no other port waits to retrain, of the block only that port, its pan, its reset in progress and event records change. -/
def Obligations.Ports : Prop := ∀ (s : State) (i : Nat),
  (∀ abil r, (s.b.portOf i).st = .an →
    (r = 2 ∧ bitAt abil (b2n (s.b.portOf i).cfg.kr) = true ∧ ((s.b.portOf i).cfg.rateSel = 0 ∨ (s.b.portOf i).cfg.rateSel = 2) ∨
      r = 1 ∧ bitAt abil (2 + b2n (s.b.portOf i).cfg.kr) = true ∧ ((s.b.portOf i).cfg.rateSel = 1 ∨ (s.b.portOf i).cfg.rateSel = 2 ∧ bitAt abil (b2n (s.b.portOf i).cfg.kr) = false)) →
    exec (.portAnDone i abil) s = .next (s.setB { s.b with
      rst := { s.b.rst with running := s.b.rst.running.filter fun x => x.pan ≠ portPan i }
      ports := s.b.ports.set i { s.b.portOf i with st := .training, rate := r, noCommon := false } })) ∧
  (∀ abil, (s.b.portOf i).st = .an → (bitAt abil (b2n (s.b.portOf i).cfg.kr) = false ∨ (s.b.portOf i).cfg.rateSel = 1) →
    (bitAt abil (2 + b2n (s.b.portOf i).cfg.kr) = false ∨ (s.b.portOf i).cfg.rateSel = 0) →
    exec (.portAnDone i abil) s = .next (s.setB { s.b with
      rst := { s.b.rst with running := s.b.rst.running.filter fun x => x.pan ≠ portPan i }
      ports := s.b.ports.set i { s.b.portOf i with noCommon := true } })) ∧
  ((s.b.portOf i).st = .training → (s.b.portOf i).cfg.macsec = true →
    exec (.portTrainingDone i) s = .next (s.setB { s.b with ports := s.b.ports.set i { s.b.portOf i with st := .held, lanes := 0xF } })) ∧
  ((s.b.portOf i).st = .training → (s.b.portOf i).cfg.macsec = false → (∀ j, (s.b.portOf j).want = false) →
    ∃ t, exec (.portTrainingDone i) s = .next t ∧ Becomes s t { s.b with
      ports := s.b.ports.set i { s.b.portOf i with
        st := .up, lanes := 0xF, retrainAt := none, service := false, reason := 0
        rateLow := (s.b.portOf i).rateLow || decide ((s.b.portOf i).rate = 1 ∧ (s.b.portOf i).cfg.rateSel = 2)
        lastMs := ((s.b.portOf i).retrainAt.map fun t0 => min 65535 ((s.b.now - t0) / 1000000)).getD (s.b.portOf i).lastMs }
      pan := s.b.pan.set (portPan i) { s.b.panSt (portPan i) with st := .ready } }) ∧
  ((s.b.portOf i).st = .held → (∀ j, (s.b.portOf j).want = false) →
    ∃ t, exec (.mkaLive i) s = .next t ∧ Becomes s t { s.b with
      ports := s.b.ports.set i { s.b.portOf i with
        macsecUp := true, pn := 0, saks := (s.b.portOf i).saks + 1
        st := .up, lanes := 0xF, retrainAt := none, service := false, reason := 0
        rateLow := (s.b.portOf i).rateLow || decide ((s.b.portOf i).rate = 1 ∧ (s.b.portOf i).cfg.rateSel = 2)
        lastMs := ((s.b.portOf i).retrainAt.map fun t0 => min 65535 ((s.b.now - t0) / 1000000)).getD (s.b.portOf i).lastMs }
      pan := s.b.pan.set (portPan i) { s.b.panSt (portPan i) with st := .ready } }) ∧
  ((s.b.portOf i).st = .up → (s.b.portOf i).cfg.macsec = true →
    exec (.sakRekey i) s = .next (s.setB { s.b with ports := s.b.ports.set i { s.b.portOf i with pn := 0, saks := (s.b.portOf i).saks + 1 } })) ∧
  (∀ c u, (s.b.portOf i).st = .up → (s.b.portOf i).ucwTide + u ≤ 16 →
    exec (.ucwLimit i c u) s = .next (s.setB { s.b with ports := s.b.ports.set i { s.b.portOf i with
      corrCw := satAdd 32 (s.b.portOf i).corrCw c, ucw := satAdd 32 (s.b.portOf i).ucw u, ucwTide := (s.b.portOf i).ucwTide + u } }))

/-- A link is lost or a retrain overruns (R272, R290, R291): a port that was UP auto-negotiates anew, counted, with EV_PORT_DOWN; one not UP within RETRAIN_MAX enters FAULT with the
reason and the loopback's outcome. -/
def Claims.PortsDown : Prop := ∀ (s : State) (i : Nat),
  (∀ l, (s.b.portOf i).st = .up → l = ((s.b.portOf i).losses.filter fun t0 => decide (s.b.now < t0 + 60000000000)) ++ [s.b.now] → l.length < 8 →
    ∃ t, exec (.portLinkDown i) s = .next t ∧ Becomes s t { s.b with
      ports := s.b.ports.set i { s.b.portOf i with
        losses := l, downCnt := satInc 16 (s.b.portOf i).downCnt, st := .an, rate := 0, lanes := 0, macsecUp := false, noCommon := false, want := false
        service := false, ctl := [], retrainAt := some s.b.now, retrainCnt := satInc 16 (s.b.portOf i).retrainCnt, ucwTide := 0 }
      pan := s.b.pan.set (portPan i) { s.b.panSt (portPan i) with st := .reset } }) ∧
  (∀ t0 ok, (s.b.portOf i).st = .training → (s.b.portOf i).noCommon = false → (s.b.portOf i).retrainAt = some t0 →
    t0 + (s.b.portOf i).cfg.retrainMax * 1000000 ≤ s.b.now → (∀ j, (s.b.portOf j).want = false) →
    ∃ t, exec (.portRetrainTimeout i ok) s = .next t ∧ Becomes s t { s.b with
      rst := { s.b.rst with running := s.b.rst.running.filter fun x => x.pan ≠ portPan i }
      ports := s.b.ports.set i { s.b.portOf i with
        st := .fault, rate := 0, lanes := 0, macsecUp := false, reason := 1, loopOk := ok, retrainAt := none, service := false, want := false, ctl := [] }
      pan := s.b.pan.set (portPan i) { s.b.panSt (portPan i) with st := .fault } })

/-- Frames that are neither Skeyr's nor Neighbor Discovery's (R286, R291, R294): a PAUSE frame and every other frame are counted; with MACsec an unprotected frame and one that fails
its check are dropped and counted. -/
def Claims.PortFrames : Prop := ∀ (s : State) (i : Nat),
  (s.b.portOf i).st = .up →
  exec (.pauseFrame i) s = .next (s.setB { s.b with ports := s.b.ports.set i { s.b.portOf i with pauseRx := satInc 16 (s.b.portOf i).pauseRx } }) ∧
  (∀ arr : Arrival, arr.port = i → ((s.b.portOf i).cfg.macsec = false ∨ arr.macsec = true) →
    exec (.otherFrameRx arr) s = .next (s.setB { s.b with ports := s.b.ports.set i { s.b.portOf i with otherDrop := satInc 16 (s.b.portOf i).otherDrop } })) ∧
  (∀ arr : Arrival, arr.port = i → (s.b.portOf i).cfg.macsec = true → arr.macsec = false → arr.unprot = true →
    exec (.otherFrameRx arr) s = .next (s.setB { s.b with ports := s.b.ports.set i { s.b.portOf i with unprotDrop := satInc 16 (s.b.portOf i).unprotDrop } })) ∧
  (∀ arr : Arrival, arr.port = i → (s.b.portOf i).cfg.macsec = true → arr.macsec = false → arr.unprot = false →
    exec (.otherFrameRx arr) s = .next (s.setB { s.b with ports := s.b.ports.set i { s.b.portOf i with icvFail := satInc 16 (s.b.portOf i).icvFail } }))

/-- Neighbor Discovery (R286, R288): a solicitation for an address of the module's own is answered, to its sender where it names one whose link-layer address is known, to all nodes
where it names none; a sender not yet known is noted with the address it gives; an advertisement of an address being resolved makes the neighbour reachable and lets what waited for it
leave, in order; and a message that fails the port's MACsec check is dropped and counted. -/
def Claims.Neighbors : Prop := ∀ (s : State) (i : Nat) (mac : MacsecIn),
  (∀ a, s.b.takesFrame i mac → s.b.spare.displaced = false → s.b.cfg.mod.portAddr.contains a = true →
    exec (.neighborSolicitation mac i (.solicit a 0 none)) s = .next (s.setB (s.b.left i (.neighborAdvert i a false true)))) ∧
  (∀ a src, s.b.takesFrame i mac → s.b.spare.displaced = false → s.b.cfg.mod.portAddr.contains a = true → src ≠ 0 → s.b.Near i src →
    exec (.neighborSolicitation mac i (.solicit a src none)) s = .next (s.setB (s.b.left i (.neighborAdvert i a true true)))) ∧
  (∀ a src ll, s.b.takesFrame i mac → s.b.spare.displaced = false → s.b.cfg.mod.portAddr.contains a = true → src ≠ 0 → s.b.nbr i src = none →
    ∃ t, exec (.neighborSolicitation mac i (.solicit a src (some ll))) s = .next t ∧ t = s.setB { s.b with ports := t.b.ports, out := t.b.out } ∧
      t.b.out = .neighborAdvert i a true true :: s.b.out ∧ t.b.nbr i src = some { st := .delay, at_ := s.b.now, mac := ll } ∧
      ∀ j, j ≠ i → t.b.portOf j = s.b.portOf j) ∧
  (∀ a n ll, s.b.takesFrame i mac → s.b.spare.displaced = false → s.b.nbr i a = some n → n.st = .incomplete →
    ∃ t, exec (.neighborSolicitation mac i (.advert a (some ll) true true)) s = .next t ∧ t = s.setB { s.b with ports := t.b.ports, out := t.b.out } ∧
      t.b.out = n.waits.reverse ++ s.b.out ∧ t.b.nbr i a = some { st := .reachable, at_ := s.b.now, mac := ll } ∧ ∀ j, j ≠ i → t.b.portOf j = s.b.portOf j) ∧
  (∀ m, (s.b.portOf i).st = .up → (s.b.portOf i).cfg.macsec = true →
    exec (.neighborSolicitation .forged i m) s = .next (s.setB { s.b with ports := s.b.ports.set i { s.b.portOf i with icvFail := satInc 16 (s.b.portOf i).icvFail } }) ∧
    exec (.neighborSolicitation .unprotected i m) s = .next (s.setB { s.b with ports := s.b.ports.set i { s.b.portOf i with unprotDrop := satInc 16 (s.b.portOf i).unprotDrop } }))

/-- Port losses and frames: the claims above it, together. -/
def Obligations.PortLinks : Prop := Claims.PortsDown ∧ Claims.PortFrames ∧ Claims.Neighbors

/-- Unit resets (R41, R341, R344 to R346): a reset of an idle engine discards its state and what was in flight at its crossing, counted there, notes the reset and counts it; it ends
READY within 10 µs; past that the unit is marked failed and its die is reset. -/
def Claims.UnitResets : Prop := ∀ (s : State) (p : Pan) (reason : RstReason) (t0 : Nat),
  isEngine p = true →
  (s.b.mayReset p reason = true → s.b.inReset p = false → s.b.workOf p = [] →
    ∃ t, exec (.unitReset p reason) s = .next t ∧ Becomes s t { s.b with
      rst := { s.b.rst with
        running := (s.b.rst.running.filter fun x => !panWithin p x.pan) ++ [{ pan := p, reason := reason, at_ := s.b.now }]
        notLive := s.b.rst.notLive.filter fun x => !panWithin p x
        stopped := s.b.rst.stopped.filter fun x => !panWithin p x
        unitCnt := satInc 16 s.b.rst.unitCnt }
      pan := s.b.pan.set p { s.b.panSt p with st := .reset, cause := 0, hbLate := false }
      xing := s.b.xing.set p { flushCnt := satAdd 8 0 ((s.b.xingOf p).queue.length + (s.b.xingOf p).waiting.length) }
      pend := s.b.pend.filter fun x => match x.who with
        | .rk c => panKind p ≠ kRK || c ≠ unitNo p
        | .ve v => panKind p ≠ kVE || v ≠ unitNo p
        | .close m _ => panKind p ≠ kME || m ≠ unitNo p
      me := if panKind p = kME then s.b.me.erase (unitNo p) else s.b.me
      ve := if panKind p = kVE then s.b.ve.erase (unitNo p) else s.b.ve
      rk := if panKind p = kME ∨ panKind p = kVE then s.b.rk else s.b.rk.erase (unitNo p) }) ∧
  (s.b.rst.running = [{ pan := p, reason := reason, at_ := t0 }] → s.b.now < t0 + 10000 →
    exec (.unitResetDone p) s = .next (s.setB { s.b with
      rst := { s.b.rst with running := [] }
      pan := s.b.pan.set p { s.b.panSt p with st := .ready } })) ∧
  (s.b.rst.running = [{ pan := p, reason := reason, at_ := t0 }] → t0 + 10000 ≤ s.b.now →
    ∃ t, exec (.unitResetTimeout p) s = .next t ∧ t.pending = s.pending ∧ t.mem = s.mem ∧
      t.b.rst.running = [{ pan := diePan (panDie p), reason := .escalated, at_ := s.b.now }] ∧
      t.b.rst.escalated = satInc 16 s.b.rst.escalated ∧ t.b.rst.dieCnt = satInc 16 s.b.rst.dieCnt ∧
      t.b.rst.failed = s.b.rst.failed ++ [p] ∧ t.b.rst.lastPan = s.b.full p)

/-- Port resets (R41, R341, R343, R346): the datapath is cleared, with what was in flight at the crossing, and the port auto-negotiates anew, counted; a clear that overruns 10 µs
resets the link die. -/
def Claims.PortResets : Prop := ∀ (s : State) (i t0 : Nat) (reason : RstReason),
  (i < 7 → s.b.mayReset (portPan i) reason = true → s.b.inReset (portPan i) = false → (s.b.portOf i).cfg.enable = true →
    ∃ t, exec (.portReset i reason) s = .next t ∧ Becomes s t { s.b with
      rst := { s.b.rst with
        running := (s.b.rst.running.filter fun x => !panWithin (portPan i) x.pan) ++ [{ pan := portPan i, reason := reason, at_ := s.b.now }]
        notLive := s.b.rst.notLive.filter fun x => !panWithin (portPan i) x
        stopped := s.b.rst.stopped.filter fun x => !panWithin (portPan i) x
        portCnt := satInc 16 s.b.rst.portCnt }
      pan := s.b.pan.set (portPan i) { s.b.panSt (portPan i) with st := .reset, cause := 0, hbLate := false }
      xing := s.b.xing.set (portPan i) { flushCnt := satAdd 8 0 ((s.b.xingOf (portPan i)).queue.length + (s.b.xingOf (portPan i)).waiting.length) }
      ports := s.b.ports.set i { s.b.portOf i with
        ctl := [], saks := 0, pn := 0, st := .an, rate := 0, lanes := 0, macsecUp := false, noCommon := false, want := false, service := false
        retrainAt := some s.b.now, retrainCnt := satInc 16 (s.b.portOf i).retrainCnt, ucwTide := 0 } }) ∧
  (s.b.rst.running = [{ pan := portPan i, reason := reason, at_ := t0 }] → t0 + 10000 ≤ s.b.now →
    ∃ t, exec (.portResetTimeout i) s = .next t ∧ t.pending = s.pending ∧ t.mem = s.mem ∧
      t.b.rst.running = [{ pan := diePan (portDie i), reason := .escalated, at_ := s.b.now }] ∧
      t.b.rst.escalated = satInc 16 s.b.rst.escalated ∧ t.b.rst.dieCnt = satInc 16 s.b.rst.dieCnt ∧ t.b.rst.lastPan = s.b.full (portPan i))

/-- Die resets (R22, R341, R342, R346, R347): the die and its leaves go to RESET, counted, no working copy is left in a compute die's SRAM and no memory operation in flight on the die; within 1 ms the leaves are READY and
its ports auto-negotiate; a leaf found failed is replaced by a spare of its kind, which takes its index, the old unit being RETIRED, or is FAULT where no spare is left; past 1 ms
the module is reset with cause 2. -/
def Claims.DieResets : Prop := ∀ (s : State) (p : Pan) (reason : RstReason) (d t0 : Nat),
  (resetDie p = some d → s.b.mayReset p reason = true → s.b.inReset (diePan d) = false →
    ∃ t, exec (.dieReset p reason) s = .next t ∧ t.pending = s.pending ∧ t.mem = s.mem ∧
      t.b.rst = { s.b.rst with
        running := (s.b.rst.running.filter fun x => !panWithin (diePan d) x.pan) ++ [{ pan := diePan d, reason := reason, at_ := s.b.now }]
        notLive := s.b.rst.notLive.filter fun x => !panWithin (diePan d) x
        stopped := s.b.rst.stopped.filter fun x => !panWithin (diePan d) x
        dieCnt := satInc 16 s.b.rst.dieCnt } ∧
      (t.b.panSt (diePan d)).st = .reset ∧ (∀ q ∈ s.b.liveLeaves d, (t.b.panSt q).st = .reset) ∧
      (d < 4 → ∀ x ∈ t.b.slu.map, x.2.work ≠ some d) ∧ (∀ o ∈ t.b.slu.flight, panDie o.mc ≠ d)) ∧
  (panShape p = some .die → s.b.rst.running = [{ pan := p, reason := reason, at_ := t0 }] → s.b.now < t0 + 1000000 → s.b.rst.failed = [] →
    ∃ t, exec (.dieResetDone p []) s = .next t ∧ t.pending = s.pending ∧ t.mem = s.mem ∧ t.b.rst = { s.b.rst with running := [] } ∧
      (∀ q ∈ dieLeaves (panDie p), (s.b.panSt q).st = .reset → panKind q ≠ kLP → (t.b.panSt q).st = .ready) ∧
      (∀ i < 7, portDie i = panDie p → (s.b.portOf i).cfg.enable = true → (s.b.panSt (portPan i)).st = .reset →
        t.b.portOf i = { s.b.portOf i with st := .an, retrainAt := some s.b.now, retrainCnt := satInc 16 (s.b.portOf i).retrainCnt })) ∧
  (∀ q, panShape p = some .die → s.b.rst.running = [{ pan := p, reason := reason, at_ := t0 }] → s.b.now < t0 + 1000000 → s.b.rst.failed = [] →
    q ∈ dieLeaves (panDie p) → panKind q ≠ kLP → (s.b.panSt q).st = .reset →
    ∃ t, exec (.dieResetDone p [q]) s = .next t ∧ t.pending = s.pending ∧ t.mem = s.mem ∧
      (s.b.sparesUsed q < spareCount q → (t.b.panSt q).st = .ready ∧ t.b.sparesUsed q = s.b.sparesUsed q + 1 ∧
        t.b.rst.replaced = s.b.rst.replaced ++ [(q, { s.b.panSt q with st := .retired })]) ∧
      (spareCount q ≤ s.b.sparesUsed q → (t.b.panSt q).st = .fault ∧ t.b.rst.replaced = s.b.rst.replaced)) ∧
  (panShape p = some .die → s.b.rst.running = [{ pan := p, reason := reason, at_ := t0 }] → t0 + 1000000 ≤ s.b.now →
    ∃ t, exec (.dieResetTimeout p) s = .next t ∧ t.pending = s.pending ∧ t.mem = [] ∧ t.b.ctxs = [] ∧
      t.b.rst.lastCause = 2 ∧ t.b.rst.moduleResets = satInc 32 s.b.rst.moduleResets ∧ t.b.pwr = { s.b.pwr with pgAt := s.b.now })

/-- Unit, port and die resets: the claims above it, together. -/
def Obligations.Resets : Prop := Claims.UnitResets ∧ Claims.PortResets ∧ Claims.DieResets

/-- Scheduled actions and the handover of hub firmware (R36, R355 to R357, R360, R372): the standby reports the new firmware; a handover not ready at its deadline cancels the switch
and the running image stays; a switch at its tide puts its configuration in force, UDP_PORT and MPL apart, and names its slot; a scheduled reset and a retirement begin when due. -/
def Obligations.Scheduled : Prop := ∀ (s : State),
  (s.b.rst.handover = true → s.b.rst.handoverReady = false → hcOf s.b.rst (1 - activeHc s.b.rst) = .standby →
    exec .fwHandoverReady s = .next (s.setB { s.b with rst := { s.b.rst with handoverReady := true, fwStby := s.b.newFw } })) ∧
  (∀ t0, s.b.switchTide = some t0 → s.b.rst.handover = true → s.b.rst.handoverReady = false → t0 ≤ s.b.tide.num + 1 →
    ∃ t, exec .handoverDeadline s = .next t ∧ Becomes s t { s.b with
      sec := { s.b.sec with switchPend := none, switchCfg := none }
      rst := { s.b.rst with handover := false, handoverReady := false }
      tide := { s.b.tide with sched := s.b.tide.sched.filter fun x => x.act ≠ .imageSwitch } }) ∧
  (∀ x n c, s.b.nextSched = some x → x.act = .imageSwitch → s.b.firstDue x.tide x.phase (rankAct x.act) = true → s.b.sec.switchPend = some n → s.b.sec.switchCfg = some c →
    s.b.rst.handover = false → s.b.spare.adopted = none →
    ∃ t, exec .imageSwitch s = .next t ∧ t.mem = s.mem ∧ t.pending = s.pending ∧
      t.b.cfg = { c with mod := { c.mod with udpPort := s.b.cfg.mod.udpPort, mplUs := s.b.cfg.mod.mplUs } } ∧
      t.b.sec.slot = n ∧ t.b.sec.select = n ∧ t.b.sec.svn = c.svn ∧ t.b.sec.switchPend = none ∧ t.b.mon.capW = c.mod.powerCap) ∧
  (∀ x, s.b.nextSched = some x → x.act = .reset modulePan → s.b.firstDue x.tide x.phase (rankAct x.act) = true →
    ∃ t, exec .serviceResetDue s = .next t ∧ t.mem = [] ∧ t.pending = s.pending ∧ t.b.ctxs = [] ∧ t.b.rst.lastCause = 4 ∧
      t.b.rst.moduleResets = satInc 32 s.b.rst.moduleResets) ∧
  (∀ x p, s.b.nextSched = some x → x.act = .reset p → s.b.firstDue x.tide x.phase (rankAct x.act) = true → isEngine p = true → s.b.inReset p = false → s.b.workOf p = [] →
    ∃ t, exec .serviceResetDue s = .next t ∧ t.mem = s.mem ∧ t.pending = s.pending ∧ (t.b.panSt p).st = .reset ∧
      t.b.rst.running = (s.b.rst.running.filter fun x => !panWithin p x.pan) ++ [{ pan := p, reason := .service, at_ := s.b.now }] ∧
      t.b.rst.unitCnt = satInc 16 s.b.rst.unitCnt ∧ t.b.tide = { s.b.tide with sched := s.b.tide.sched.erase x }) ∧
  (∀ x, s.b.nextSched = some x → x.act = .retire → s.b.firstDue x.tide x.phase (rankAct x.act) = true →
    ∃ t, exec .retire s = .next t ∧ Becomes s t { s.b with
      tide := { s.b.tide with sched := s.b.tide.sched.erase x }
      rst := { s.b.rst with retired := true } })

/-- Boot (R363 to R365, R371, R373, R374): steps 1 to 5 with the selected slot, with the other where that is refused, or RECOVERY where both are; ready with the tide LOCKED and its
number set, when the contexts of the image are declared; and the report of a late boot. -/
def Obligations.Boot : Prop := ∀ (s : State),
  (∀ pos, s.b.mayBoot = true → s.b.sec.select = 0 → s.b.sec.glitchPend = none →
    ∃ t, exec (.bootRom pos [] []) s = .next t ∧ t.mem = s.mem ∧ t.pending = s.pending ∧ t.b.sec.booting = true ∧
      match s.b.trySlot 0 pos with
      | .accept c => t.b.cfg = c ∧ t.b.sec.slot = 0 ∧ t.b.sec.configured = true ∧ t.b.sec.bootState = 4 ∧ t.b.sec.tierKeys = true ∧
          ∀ i < 7, (t.b.portOf i).cfg = c.mod.ports.getD i {} ∧ (t.b.portOf i).st = (if (c.mod.ports.getD i {}).enable then PortState.an else PortState.down)
      | .refuse _ _ => match s.b.trySlot 1 pos with
        | .accept c => t.b.cfg = c ∧ t.b.sec.slot = 1 ∧ t.b.sec.select = 1 ∧ t.b.sec.fallback = true ∧ t.b.sec.configured = true ∧ t.b.sec.bootState = 4
        | .refuse r i => t.b.cfg = s.b.cfg ∧ t.b.sec.recovery = true ∧ t.b.sec.bootState = 7 ∧ t.b.sec.reason = r ∧ t.b.sec.dirIndex = i) ∧
  (∀ salt, s.b.bootStateNow = 5 → s.b.tide.st = .locked → s.b.tide.numSet = true → s.b.sec.unlock ≠ 2 →
    ∃ t, exec (.bootReady salt) s = .next t ∧ t.mem = s.mem ∧ t.pending = s.pending ∧ t.b.sec.ready = true ∧ t.b.sec.bootState = 6 ∧
      t.b.sec.report = s.b.reportBytes [] salt ∧ t.b.sec.bootMs = min ((s.b.now - s.b.pwr.pgAt) / 1000000) (2 ^ 32 - 1) ∧
      ∀ r, s.b.cfg.ctxs = [r] → (t.b.ctx r.ctx).next = some r) ∧
  (s.b.pwr.rails = true → s.b.pwr.rstN = true → s.b.sec.ready = false → s.b.sec.bootLate = false → s.b.pwr.pgAt + 150000000000 ≤ s.b.now →
    exec .bootLate s = .next (s.setB (({ s.b with sec := { s.b.sec with bootLate := true } }).raiseMod 0xB003 (if s.b.sec.recovery then 3 else s.b.bootStateNow + 1))))

/-- Requests without a session (R14, R15, R375, R376, R378, R379, R381, R382): each is answered with its STATUS and body and a TAG of zero; OPEN takes session 1 where none is open. -/
def Claims.OmpBare : Prop := ∀ (s : State) (m : OmpReq),
  s.b.ompHere m = true → m.bus = false → s.b.Near 0 m.src → formOk m = true → m.session = 0 →
  (m.req = qIdentity →
    exec (.identity m) s = .next (s.setB (s.b.left 0 (.omp m.src m.srcPort (ompBytes 1 m.req 0 stOk 0 m.msgId 0 (identityReply s.b.sec m.body).body tagZero))))) ∧
  (∀ salt, m.req = qAttest →
    exec (.attest m salt) s = .next (s.setB (s.b.left 0 (.omp m.src m.srcPort (ompBytes 1 m.req 0 stOk 0 m.msgId 0 (s.b.reportBytes m.body salt) tagZero))))) ∧
  (∀ p, m.req = qPanRead → panRef s.b.pos (fieldAt m.body 0 4) = .own p →
    exec (.panRead m) s = .next (s.setB (s.b.left 0 (.omp m.src m.srcPort (ompBytes 1 m.req 0 stOk 0 m.msgId 0 (panBody (s.b.statusOf p) (s.b.panSt p).hb (s.b.capacityOf p)) tagZero))))) ∧
  (m.req = qPanRead → panRef s.b.pos (fieldAt m.body 0 4) = .remote →
    exec (.panRead m) s = .next (s.setB (s.b.left 0 (.omp m.src m.srcPort (ompBytes 1 m.req 0 stPanRemote 0 m.msgId 0 [] tagZero))))) ∧
  (∀ d o signed body, m.req = qOpen → s.b.sec.recovery = false → s.b.sec.sessions = [] → s.b.cfg.operators[fieldAt m.body 0 1]? = some o → signed = openSigned m 1 d o.modulus →
    body = leBytes 32 d.nonce ++ oaepSeal o.modulus (leBytes 32 d.key) (leBytes 32 d.seed) ++ sigMake s.b.sec.identKey signed (leBytes 32 d.salt) →
    exec (.openS m d) s = .next (s.setB { s.b.left 0 (.omp m.src m.srcPort (ompBytes 1 m.req 1 stOk 0 m.msgId 0 body tagZero)) with
      sec := { s.b.sec with sessions := [(1, ({ op := fieldAt m.body 0 1, key := leBytes 32 d.key, lastAt := s.b.now, signed := signed } : Session))] } }))

/-- Sessions (R381, R382): CONFIRM confirms a session whose operator's signature verifies and closes one whose does not, counted; CLOSE closes; 60 s without a valid message closes. -/
def Claims.OmpSessions : Prop := ∀ (s : State) (m : OmpReq) (x : Session),
  (∀ o, s.b.ompHere m = true → m.bus = false → s.b.Near 0 m.src → formOk m = true → m.session ≠ 0 → s.b.sec.sessions.find m.session = some x → x.confirmed = false →
    m.tag = tagFor x.key (reqBytes m tagZero) → m.seq = x.seq + 1 → m.req = qConfirm → s.b.cfg.operators[x.op]? = some o →
    ∃ t, exec (.confirm m) s = .next t ∧
      if sigVerifies o.modulus x.signed (ofLeBytes m.body.reverse) then t = s.setB (s.b.replied m { x with confirmed := true } stOk [])
      else Becomes s t { s.b.left 0 (.omp m.src m.srcPort (ompAnswer m x stAuth [])) with
        sec := { s.b.sec with sessions := (s.b.sec.sessions.set m.session { x with seq := m.seq, bad := 0, lastAt := s.b.now }).erase m.session, authFail := satInc 16 s.b.sec.authFail } }) ∧
  (OmpReady s m x → m.req = qClose →
    exec (.closeSession m) s = .next (s.setB { s.b.left 0 (.omp m.src m.srcPort (ompAnswer m x stOk [])) with
      sec := { s.b.sec with sessions := (s.b.sec.sessions.set m.session { x with seq := m.seq, bad := 0, lastAt := s.b.now }).erase m.session } })) ∧
  (∀ n, s.b.sec.sessions.find n = some x → x.lastAt + 60000000000 ≤ s.b.now →
    exec (.sessionTimeout n) s = .next (s.setB { s.b with sec := { s.b.sec with sessions := s.b.sec.sessions.erase n } }))

/-- OMP without and with a session: the claims above it, together. -/
def Obligations.OmpMessages : Prop := Claims.OmpBare ∧ Claims.OmpSessions

/-- Register reads and writes on a session (R6, R404, R408, R415 to R418): ID_PART reads its value; a write of CTX_SEL chooses the context; a read-only register refuses the write; the
power cap takes a value in range and refuses another by CAP_REJ alone; TST_CTL under an unlock. Of the block only the register and the session change, and the answer goes out. -/
def Claims.Registers : Prop := ∀ (s : State) (m : OmpReq) (x : Session) (v : Nat),
  OmpReady s m x →
  (m.req = qRegRead → fieldAt m.body 0 4 = 0x00FFFF00 → fieldAt m.body 4 4 = 1 →
    ∃ t, exec (.regRead m) s = .next t ∧ Becomes s t (s.b.replied m x stOk (leBytes 4 0x00511024))) ∧
  (m.req = qRegWrite → fieldAt m.body 0 4 = 0x046FFF00 → fieldAt m.body 4 4 = v → v < 1024 →
    exec (.regWrite m) s = .next (s.setB (s.b.replied m { x with ctxSel := v } stOk []))) ∧
  (m.req = qRegWrite → fieldAt m.body 0 4 = 0x00FFFF00 →
    exec (.regWrite m) s = .next (s.setB (s.b.replied m x stReadonly []))) ∧
  (m.req = qRegWrite → fieldAt m.body 0 4 = 0x086FFF04 → fieldAt m.body 4 4 = v → v < 1024 → 250 ≤ v → v ≤ 600 →
    exec (.capWrite m) s = .next (s.setB (Blk.replied { s.b with mon := { s.b.mon with capW := v, capSrc := true } } m x stOk []))) ∧
  (m.req = qRegWrite → fieldAt m.body 0 4 = 0x086FFF04 → fieldAt m.body 4 4 = v → v < 1024 → (v < 250 ∨ 600 < v) →
    exec (.capWrite m) s = .next (s.setB (Blk.replied { s.b with mon := { s.b.mon with capRej := true } } m x stOk []))) ∧
  (m.req = qRegWrite → fieldAt m.body 0 4 = 0x096FFF00 → fieldAt m.body 4 4 = 0x80000000 → s.b.sec.unlock ≠ 0 →
    exec (.tstEnable m) s = .next (s.setB (Blk.replied { s.b with tst := { s.b.tst with enable := true, allCtx := false } } m x stOk []))) ∧
  (m.req = qRegWrite → fieldAt m.body 0 4 = 0x096FFF00 → fieldAt m.body 4 4 = v → s.b.sec.unlock = 0 →
    exec (.tstEnable m) s = .next (s.setB (s.b.replied m x stRefused [])))

/-- Requests that begin work of their own (R37, R150, R290, R357, R360): a rake pass begins; a port retrains on request; a reset and a retirement are scheduled in the tide table. -/
def Claims.ServiceActions : Prop := ∀ (s : State) (m : OmpReq) (x : Session) (v : Nat),
  OmpReady s m x → m.req = qRegWrite →
  (∀ p, regAddr (fieldAt m.body 0 4) = .reg { block := .mem, pan := p, off := 0x20 } → fieldAt m.body 4 4 = 1 → mcKind p ≠ 5 →
    exec (.rakeStart m) s = .next (s.setB (Blk.replied { s.b with mc := s.b.mc.set p { s.b.mcOf p with
      rakeActive := true, passAt := s.b.now, passLines := 0, passPct := 0, passLate := false, cePrev := (s.b.mcOf p).ceThis, ceThis := [] } } m x stOk []))) ∧
  (∀ i, i < 7 → regAddr (fieldAt m.body 0 4) = .reg { block := .lnk, pan := portPan i, off := 8 } → fieldAt m.body 4 4 = 1 →
    (s.b.portOf i).cfg.enable = true → (s.b.portOf i).retrainAt = none → (∀ e ∈ s.b.ports, e.2.service = false ∧ e.2.want = false) →
    ∃ t, exec (.lnkRetrain m) s = .next t ∧ Becomes s t (Blk.replied { s.b with
      ports := s.b.ports.set i { s.b.portOf i with
        st := .an, rate := 0, lanes := 0, macsecUp := false, noCommon := false, want := false, service := true, ctl := []
        retrainAt := some s.b.now, retrainCnt := satInc 16 (s.b.portOf i).retrainCnt, ucwTide := 0 }
      pan := s.b.pan.set (portPan i) { s.b.panSt (portPan i) with st := .reset } } m x stOk [])) ∧
  (∀ p, fieldAt m.body 0 4 = 0x0B6FFF08 → fieldAt m.body 4 4 = 0x80000000 + v → v < 2 ^ 16 →
    panRef s.b.pos x.rstPan = .own p → (p = modulePan ∨ panDie p ≠ dHD) → s.b.schedCheck (s.b.tide.num + v) 0 = .accepted →
    exec (.serviceReset m) s = .next (s.setB (Blk.replied { s.b with tide := { s.b.tide with
      sched := s.b.tide.sched ++ [{ tide := s.b.tide.num + v, phase := 0, act := .reset p }] } } m { x with rstDelay := v } stOk []))) ∧
  (fieldAt m.body 0 4 = 0x0B6FFF08 → fieldAt m.body 4 4 = 0x40000000 + v → v < 2 ^ 16 → s.b.schedCheck (s.b.tide.num + v) 0 = .accepted →
    exec (.retireRequest m) s = .next (s.setB (Blk.replied { s.b with tide := { s.b.tide with
      sched := s.b.tide.sched ++ [{ tide := s.b.tide.num + v, phase := 0, act := .retire }] } } m { x with rstDelay := v } stOk [])))

/-- Registers over OMP: the claims above it, together. -/
def Obligations.OmpRegisters : Prop := Claims.Registers ∧ Claims.ServiceActions

/-- TST registers (R408, R413): on an accepted session a write that keeps the reserved bits 0 sets the register while the module runs at an unlock level and the value is in range; a
value out of range, and any write at no unlock level, is REFUSED and changes nothing; a module reset, which ends an unlock level, leaves every TST register at its reset value. -/
def Obligations.TestRegisters : Prop := ∀ (s : State) (m : OmpReq) (x : Session) (v off k : Nat), OmpReady s m x →
  (m.req = qRegWrite → regAddr (fieldAt m.body 0 4) = .reg { block := .tst, pan := hubPan, off := off } → rsvMask { block := .tst, pan := hubPan, off := off } = some k → v = fieldAt m.body 4 4 →
    (s.b.sec.unlock = 0 → exec (.regWrite m) s = .next (s.setB (s.b.replied m x stRefused []))) ∧
    (s.b.sec.unlock ≠ 0 → v &&& k = 0 →
      (off = 0x28 → 10000 < v % 2 ^ 16 + v / 2 ^ 16 → exec (.regWrite m) s = .next (s.setB (s.b.replied m x stRefused []))) ∧
      (off = 0x2C → 10000 < v % 2 ^ 16 → exec (.regWrite m) s = .next (s.setB (s.b.replied m x stRefused []))) ∧
      (off = 0x30 → 90 < bits v 16 8 ∨ v % 2 ^ 16 = 0 ∨ 10000 < v % 2 ^ 16 → exec (.regWrite m) s = .next (s.setB (s.b.replied m x stRefused []))) ∧
      (off = 0x3C → v % 2 ^ 16 = 0 ∨ 1000 < v % 2 ^ 16 ∨ s.b.mpl ≤ v % 2 ^ 16 * 1000 * 2 → exec (.regWrite m) s = .next (s.setB (s.b.replied m x stRefused []))) ∧
      (s.b.tstInRange off v = true → exec (.regWrite m) s = .next (s.setB (Blk.replied { s.b with tst := tstSet s.b.tst off v } m x stOk []))))) ∧
  (s.b.pwr.rails = true → s.b.pwr.rstN = true → ∃ t, exec (.moduleReset 8) s = .next t ∧ t.b.tst = {})

/-- Image slots and unlocking (R355, R356, R371, R372, R384): a write to a slot that is neither running nor scheduled, the first after a check erasing it; a check sets VALID where the
image passes; a switch is scheduled where it passes and is refused where not; an unlock token that is good is recorded and resets the module with cause 7. -/
def Claims.Slots : Prop := ∀ (s : State) (m : OmpReq) (x : Session) (n : Nat),
  OmpReady s m x → n < 2 →
  (m.req = qSlotWrite → fieldAt m.body 0 1 = n → (s.b.sec.configured = false ∨ n ≠ s.b.sec.slot) → s.b.sec.switchPend ≠ some n →
    exec (.slotWrite m) s = .next (s.setB (Blk.replied { s.b with sec := setSlot s.b.sec n (if (slotOf s.b.sec n).writing then { slotOf s.b.sec n with bytes := flashWriteBytes (slotOf s.b.sec n).bytes (fieldAt m.body 4 4) (m.body.drop 12) } else { valid := false, writing := true, bytes := flashWriteBytes [] (fieldAt m.body 4 4) (m.body.drop 12) }) } m x stOk []))) ∧
  (m.req = qSlotWrite → fieldAt m.body 0 1 = n → s.b.sec.configured = true → n = s.b.sec.slot →
    exec (.slotWrite m) s = .next (s.setB (s.b.replied m x stBusy []))) ∧
  (∀ pos, m.req = qSlotCheck → fieldAt m.body 0 1 = n →
    ∃ t, exec (.slotCheck m pos) s = .next t ∧
      match readImage s.b.store.pkgs s.b.sec (slotOf s.b.sec n) pos with
      | .accept _ => t = s.setB (Blk.replied { s.b with sec := setSlot s.b.sec n { slotOf s.b.sec n with writing := false, valid := true } } m x stOk [0, 0, 0xFF, 0xFF])
      | .refuse r i => Becomes s t (Blk.replied { s.b with sec := { setSlot s.b.sec n { slotOf s.b.sec n with writing := false } with reason := r, dirIndex := i } } m x stRefused
          ([r, 0] ++ leBytes 2 i))) ∧
  (∀ pos, m.req = qSwitch → fieldAt m.body 0 1 = n → (slotOf s.b.sec n).valid = true → s.b.sec.recovery = false → s.b.sec.switchPend = none →
    s.b.schedCheck (fieldAt m.body 4 6) 0 = .accepted →
    ∃ t, exec (.switch m pos) s = .next t ∧
      match readImage s.b.store.pkgs s.b.sec (slotOf s.b.sec n) pos with
      | .accept c => t = s.setB (Blk.replied { s.b with
          tide := { s.b.tide with sched := s.b.tide.sched ++ [{ tide := fieldAt m.body 4 6, phase := 0, act := .imageSwitch }] }
          sec := { s.b.sec with switchPend := some n, switchCfg := some c }
          rst := { s.b.rst with handover := decide (c.hubFwSha ≠ s.b.cfg.hubFwSha), handoverReady := false } } m x stOk [])
      | .refuse r i => Becomes s t (Blk.replied { s.b with sec := { s.b.sec with reason := r, dirIndex := i } } m x stRefused [])) ∧
  (m.req = qUnlock →
    ∃ t, exec (.unlock m) s = .next t ∧
      if s.b.tokenOk m.body then t.mem = [] ∧ t.pending = s.pending ∧ t.b.ctxs = [] ∧ t.b.sec.sessions = [] ∧ t.b.out = .omp m.src m.srcPort (ompAnswer m x stOk []) :: s.b.out ∧
        t.b.sec.unlock = fieldAt m.body 4 2 ∧ t.b.rst.lastCause = 7 ∧ t.b.rst.moduleResets = satInc 32 s.b.rst.moduleResets
      else t = s.setB (s.b.replied m x stRefused []))

/-- The seal store (R206, R207, R210 to R212, R379, R380): SEAL begins a sealing with a READ of the manifest, and is BUSY while one runs; the commit of one whose body is whole reads
every chunk back, adds the package under a new directory sequence number where each fits its digest, and is refused where one does not; ERASE takes a package out that nothing
names, with its chunks, and is BUSY where the active image names it or a load reads it. -/
def Claims.SealStore : Prop := ∀ (s : State) (m : OmpReq) (x : Session),
  (OmpReady s m x → m.req = qSeal → s.b.store.job = none → s.b.sealStreamOk (fieldAt m.body 0 2) = true → 64 ≤ fieldAt m.body 8 8 →
    exec (.seal m) s = .next (s.setB (Blk.replied (Blk.issue { s.b with store := { s.b.store with job := some { stream := fieldAt m.body 0 2, winId := fieldAt m.body 2 2, winGen := fieldAt m.body 4 2, bytes := fieldAt m.body 8 8 } } } (fieldAt m.body 0 2)
      { typ := tRead, ctx := 0, msgId := 0, psn := 0, count := 0, winId := fieldAt m.body 2 2, winGen := fieldAt m.body 4 2
        len := min manifestMax (fieldAt m.body 8 8), off := 0, use_ := .seal_ }) m x stOk []))) ∧
  (OmpReady s m x → m.req = qSeal → s.b.store.job ≠ none → exec (.seal m) s = .next (s.setB (s.b.replied m x stBusy []))) ∧
  (∀ j p f, s.b.store.job = some j → j.pkg = some p → j.bytes ≤ j.done → (∀ k < p.chunks, chunkFits p p.man (flashWrong p.body f.wrong) k = true) →
    ∃ t, exec (.sealCommit f) s = .next t ∧ Becomes s t { s.b with store := dirCommit { s.b.store with job := none } (s.b.store.pkgs ++ [p]) } ∧
      t.b.store.pkgs = s.b.store.pkgs ++ [p]) ∧
  (∀ j p f k, s.b.store.job = some j → j.pkg = some p → j.bytes ≤ j.done → k < p.chunks → chunkFits p p.man (flashWrong p.body f.wrong) k = false →
    ∃ t, exec (.sealCommit f) s = .next t ∧ Becomes s t { s.b with store := { s.b.store with job := none } }) ∧
  (∀ q, OmpReady s m x → m.req = qErase → q ∈ s.b.store.pkgs → q.id = fieldAt m.body 0 8 → q.ver = fieldAt m.body 8 4 →
    s.b.loadReads (q.id, q.ver) = false → s.b.imageNames (q.id, q.ver) = false →
    ∃ t, exec (.erase m) s = .next t ∧ Becomes s t (Blk.replied { s.b with
      store := eraseChunks (dirCommit s.b.store (s.b.store.pkgs.filter fun p => (p.id, p.ver) ≠ (q.id, q.ver))) (q.id, q.ver) } m x stOk [])) ∧
  (OmpReady s m x → m.req = qErase → (s.b.loadReads (fieldAt m.body 0 8, fieldAt m.body 8 4) = true ∨ s.b.imageNames (fieldAt m.body 0 8, fieldAt m.body 8 4) = true) →
    exec (.erase m) s = .next (s.setB (s.b.replied m x stBusy [])))

/-- Image slots and the seal store: the claims above it, together. -/
def Obligations.OmpStore : Prop := Claims.Slots ∧ Claims.SealStore

/-- The management MAC (R389 to R391, R394 to R398, R400): the frame of the highest priority that may begin goes, stamped, after the interframe gap, and is on the bus as its bytes once
it has ended; the heartbeat is queued at its slot; a collision backs off, and the sixteenth discards; a back-off that has run out retries; an underrun raises the threshold and
requeues; what is past its deadline is discarded and counted; a jammed bus makes a bus-failure tide; a frame with a bad FCS, and one that is too short or of another EtherType, is counted;
a whole message in one fragment is kept to its length. But for the idle step that ends a frame, of the block only the MAC's own
state and event records change. -/
def Claims.ManagementMac : Prop := ∀ (s : State) (q : MgtQ),
  (s.b.mgtOn = true → s.b.mgt.sending = none → s.b.mgt.backoff = none → s.b.mgt.txEnd + 9600 ≤ s.b.now → s.b.mgtNext = some q → isClaim q.f = false →
    exec .mgtFrameTx s = .next (s.setB { s.b with mgt := { mgtTake s.b.mgt q with
      sending := some { q with f := s.b.stamp false q.f }, txEnd := s.b.now + mgtWire (s.b.stamp false q.f) } })) ∧
  (s.pending = [] → s.b.mgt.sending = some q → s.b.mgt.txEnd ≤ s.b.now + 1 →
    ∃ t l, Machine.step s = .next t ∧ t.b.mgt.sending = none ∧ t.b.mgt.txFrames = satInc 16 s.b.mgt.txFrames ∧ t.b.out = .mgt (s.b.busBytes q.f) :: l) ∧
  (s.b.mgtActive = true → tideRuns s.b.tide = true → (if s.b.hbFree then s.b.freeStart else s.b.slotStart) ≤ s.b.intPhase → s.b.mgt.hbTide ≠ s.b.intNo + 1 →
    exec .heartbeatSlot s = .next (s.setB { s.b with mgt := { s.b.mgt with
      queue := s.b.mgt.queue ++ [{ f := .heartbeat 0 0 0 0 s.b.mgt.hbVal s.b.mgt.hbStatus, deadline := some ((s.b.intNo + 1) * s.b.mgt.hbK), prio := pHeartbeat }]
      hbTide := s.b.intNo + 1 } })) ∧
  (∀ late n, s.b.mgt.sending = some q → q.attempts < 15 →
    exec (.mgtCollision late n) s = .next (s.setB { s.b with mgt := { s.b.mgt with
      sending := none, txEnd := s.b.now, collisions := satInc 16 s.b.mgt.collisions, late := if late then satInc 8 s.b.mgt.late else s.b.mgt.late
      backoff := some ({ q with attempts := q.attempts + 1 }, s.b.now + n % 2 ^ min (q.attempts + 1) 10 * 51200) } })) ∧
  (∀ n, s.b.mgt.sending = some q → q.attempts = 15 → isHeartbeat q.f = false →
    exec (.mgtCollision false n) s = .next (s.setB { s.b with mgt := { s.b.mgt with
      sending := none, txEnd := s.b.now, collisions := satInc 16 s.b.mgt.collisions, excessive := satInc 8 s.b.mgt.excessive, txDiscard := satInc 16 s.b.mgt.txDiscard } })) ∧
  (∀ t0, s.b.mgt.backoff = some (q, t0) → t0 ≤ s.b.now → s.b.mayBegin q.f = true → s.b.expired q = false → isClaim q.f = false →
    exec .mgtBackoffExpiry s = .next (s.setB { s.b with mgt := { s.b.mgt with
      backoff := none, sending := some { q with f := s.b.stamp false q.f }, txEnd := s.b.now + mgtWire (s.b.stamp false q.f) } })) ∧
  (s.b.mgt.sending = some q → s.b.expired q = false → (∀ x ∈ s.b.mgt.queue, s.b.expired x = false) → s.b.mgt.backoff = none →
    exec .txUnderrun s = .next (s.setB { s.b with mgt := { s.b.mgt with
      sending := none, txEnd := s.b.now, underrun := satInc 16 s.b.mgt.underrun, txThresh := min 1518 (s.b.mgt.txThresh + 64), queue := q :: s.b.mgt.queue } })) ∧
  (s.b.mgt.queue = [q] → s.b.mgt.backoff = none → s.b.expired q = true → q.prio ≠ pClaim →
    exec .frameDeadline s = .next (s.setB { s.b with mgt := { s.b.mgt with queue := [], txDiscard := satAdd 16 s.b.mgt.txDiscard 1 } })) ∧
  (s.b.mgtOn = true → s.b.mgt.jamNow = none →
    ∃ t, exec .busJammed s = .next t ∧ Becomes s t { s.b with mgt := { s.b.mgt with jamNow := some 0, jammed := true, jamTides := satInc 16 s.b.mgt.jamTides } }) ∧
  (∀ l src msgId bytes, s.b.mgtOn = true → s.b.busIn l = .omp src false msgId 0 true bytes → ompLen bytes ≤ bytes.length →
    exec (.ompFragment l) s = .next (s.setB { s.b with mgt := { s.b.mgt with
      rxFrames := satInc 16 s.b.mgt.rxFrames
      parts := (s.b.mgt.parts.filter fun x => !isPartial src msgId x) ++
        [{ src := src, msgId := msgId, next := 1, bytes := bytes.take (ompLen bytes), lastAt := s.b.now, done := true }] } })) ∧
  (∀ l, s.b.mgtOn = true → (l.drop (l.length - 4) ≠ fcsOf (l.take (l.length - 4)) →
      exec (.ompFragment l) s = .next (s.setB { s.b with mgt := { s.b.mgt with fcsErr := satInc 16 s.b.mgt.fcsErr } })) ∧
    (l.drop (l.length - 4) = fcsOf (l.take (l.length - 4)) → l.length < 64 ∨ beField l 12 2 ≠ 0x88B5 ∧ beField l 12 2 ≠ 0x88B6 →
      exec (.ompFragment l) s = .next (s.setB { s.b with mgt := { s.b.mgt with badFrame := satInc 16 s.b.mgt.badFrame } }))) ∧
  (∀ p, s.b.mgt.parts = [p] → p.done = false → p.lastAt + 2000000000 ≤ s.b.now →
    exec (.fragmentTimeout p.src p.msgId) s = .next (s.setB { s.b with mgt := { s.b.mgt with parts := [] } }))

/-- The watch over positions and their holders (R334, R335, R352, R353, R392, R393): what a heartbeat, a claim, a takeover and a capacity frame note; a position silent for SILENT_TIDES
is declared; a spare claims it at the next tide for the third after; the claim's tide makes the spare its holder; and a holder that hears a takeover is displaced. -/
def Claims.Watch : Prop := ∀ (s : State) (l : List Nat) (pos flags serial tide target : Nat),
  (∀ hb status, s.b.mgtOn = true → s.b.busIn l = .frame (.heartbeat pos flags serial tide hb status) → pos ≠ s.b.pos → (s.b.intPhase < s.b.slotStart ∨ s.b.slotStart + 75000 ≤ s.b.intPhase) →
    bits status 28 4 ≠ PState.fault.code → bits status 16 8 = 0 → (s.b.peer pos).inInterval = false → (s.b.peer pos).declared = false →
    exec (.heartbeat l) s = .next (s.setB { s.b with mgt := { s.b.mgt with
      rxFrames := satInc 16 s.b.mgt.rxFrames
      peers := s.b.mgt.peers.set pos { s.b.peer pos with
        serial := serial, hb := hb, status := status, heard := true, inInterval := true, missing := s.b.missAfter (s.b.peer pos) serial hb, spare := decide (64 ≤ pos) } } })) ∧
  (∀ k, s.b.mgtOn = true → s.b.busIn l = .frame (.claim pos flags serial tide target k) → s.b.spare.claim = none →
    ∃ t, exec (.claim l) s = .next t ∧ Becomes s t { s.b with
      mgt := { s.b.mgt with rxFrames := satInc 16 s.b.mgt.rxFrames }
      spare := { s.b.spare with claims := (s.b.spare.claims.filter fun c => c ≠ (target, pos)) ++ [(target, pos)] } }) ∧
  (s.b.mgtOn = true → s.b.busIn l = .frame (.takeover pos flags serial tide target) → target ≠ s.b.pos → s.b.spare.claim = none →
    exec (.takeover l) s = .next (s.setB { s.b with
      mgt := { s.b.mgt with
        rxFrames := satInc 16 s.b.mgt.rxFrames
        peers := Tbl.set (s.b.mgt.peers.filter fun e => e.2.serial ≠ serial || !e.2.spare) target { serial := serial } }
      spare := { s.b.spare with claims := s.b.spare.claims.filter fun c => c.1 ≠ target, none_ := s.b.spare.none_.filter (· ≠ target) } })) ∧
  (s.b.mgtOn = true → s.b.busIn l = .frame (.takeover pos flags serial tide target) → target = s.b.pos → serial ≠ s.b.sec.serial → s.b.sec.configured = true → s.b.spare.displaced = false →
    ∃ t, exec (.takeover l) s = .next t ∧ Becomes s t { s.b with
      mgt := { s.b.mgt with rxFrames := satInc 16 s.b.mgt.rxFrames }, spare := { s.b.spare with displaced := true } }) ∧
  (∀ words, s.b.mgtOn = true → s.b.busIn l = .frame (.capacity pos flags serial tide words) →
    exec (.capacity l) s = .next (s.setB { s.b with mgt := { s.b.mgt with
      rxFrames := satInc 16 s.b.mgt.rxFrames, peers := s.b.mgt.peers.set pos { s.b.peer pos with capacity := words } } })) ∧
  (s.b.running = true → tideRuns s.b.tide = true → s.b.watched pos = true → (s.b.peer pos).heard = true → (s.b.peer pos).declared = false →
    s.b.cfg.mod.silentTides ≤ (s.b.peer pos).missing →
    ∃ t, exec (.positionSilent pos) s = .next t ∧ t.mem = s.mem ∧ t.pending = s.pending ∧
      t.b.peer pos = { s.b.peer pos with declared := true, declaredTide := s.b.tide.num, missing := 0 } ∧
      t.b.rst = { s.b.rst with declared := satInc 16 s.b.rst.declared, lastSilent := pos }) ∧
  (s.b.mayClaim pos = true → s.b.tide.num = (s.b.peer pos).declaredTide + 1 →
    ∃ t, exec (.spareClaim pos) s = .next t ∧ Becomes s t { s.b with
      spare := { s.b.spare with claim := some (pos, (s.b.peer pos).declaredTide + 3) }
      mgt := { s.b.mgt with queue := s.b.mgt.queue ++
        [{ f := .claim 0 0 0 0 pos ((s.b.peer pos).declaredTide + 3), deadline := some ((s.b.peer pos).declaredTide + 2), prio := pClaim }] } }) ∧
  (∀ t0, s.b.spare.claim = some (pos, t0) → s.b.moduleState = .spare → tideRuns s.b.tide = true → s.b.due t0 0 = true → s.b.claimWaits = false →
    ∃ t, exec .spareTakeover s = .next t ∧ t.mem = s.mem ∧ t.pending = s.pending ∧ t.b.pos = pos ∧ t.b.spare.claim = none ∧ t.b.mon = s.b.mon ∧
      t.b.cfg.torus = (overlaid s.b.cfg pos).torus ∧ t.b.cfg.groups = (overlaid s.b.cfg pos).groups ∧ t.b.cfg.ctxs = (overlaid s.b.cfg pos).ctxs ∧
      ∃ q ∈ t.b.mgt.queue, q.f = .takeover 0 0 0 0 pos)

/-- The management bus and the watch: the claims above it, together. -/
def Obligations.Management : Prop := Claims.ManagementMac ∧ Claims.Watch

/-- QCMD (R88, R94, R95, R132, R244): the record at rs1 in local memory, well-formed and with room at its engine, takes the next sequence number, which rd receives, and is open from
then on; one that a decode check rejects takes its number too and faults its context with the cause of that check; one without room waits. -/
def Claims.Qcmd : Prop := ∀ (s : State) (core rd rs1 pc n : Nat) (p : Prog),
  s.b.mayIssue core = some p → recordAddrOk rs1 = true → n = s.b.rkNat core rs1 128 → (s.b.ctx p.ctx).handles = [] →
  ((s.b.ctx p.ctx).open_.length < 4096 → (∀ m, cmdMe (s.b.ctx p.ctx) (tileRec n) = some m → s.b.meLoad m < 32) → s.b.pend = [] →
    tileCheck (s.b.ctx p.ctx) n 0 = none → s.b.agCheck p.ctx (tileRec n) = none →
    ∃ t, exec (.qcmd core rd rs1 pc) s = .next t ∧ t.mem = s.mem ∧ t.pending = s.pending ∧ t.b.strm = s.b.strm ∧
      t.b.rkOf core = setX { atPc (s.b.rkOf core) pc with issued := (s.b.rkOf core).issued ++ [(s.b.ctx p.ctx).seq] } rd (s.b.ctx p.ctx).seq ∧
      (t.b.ctx p.ctx).seq = ((s.b.ctx p.ctx).seq + 1) % 2 ^ 32 ∧ (t.b.ctx p.ctx).st = .active ∧
      (t.b.ctx p.ctx).open_ = (s.b.ctx p.ctx).open_ ++ [((s.b.ctx p.ctx).seq, progIssuer core p)]) ∧
  (∀ cause a, (s.b.ctx p.ctx).open_.length < 4096 → (∀ m, cmdMe (s.b.ctx p.ctx) (tileRec n) = some m → s.b.meLoad m < 32) → s.b.pend = [] →
    tileCheck (s.b.ctx p.ctx) n 0 = some (cause, a) →
    ∃ t, exec (.qcmd core rd rs1 pc) s = .next t ∧ Faults s t p.ctx cause hubPan (s.b.ctx p.ctx).seq false a 0) ∧
  ((4096 ≤ (s.b.ctx p.ctx).open_.length ∨ ∃ m, cmdMe (s.b.ctx p.ctx) (tileRec n) = some m ∧ 32 ≤ s.b.meLoad m) → exec (.qcmd core rd rs1 pc) s = .next s)

/-- Matrix commands (R67, R82, R83, R87, R95 to R101): with one eligible command on an engine in service, INIT opens its group in its mode, EMPTY or with its tile; MMA enters the
array with the operands it finds, and a SUM group's is counted by the gauge or sampled; once it is done the group holds what the terms of its operands make of it, each line as it
was or as it is; CLOSE drains its group and holds the converted rows until it is done; and a command that is done has left the engine and is open no more, a CLOSE's group CLOSED
and its bytes in memory where no other write was held. -/
def Claims.Matrix : Prop := ∀ (s : State) (me lane : Nat) (c : TileCmd),
  (s.b.works (mePan me) = true → (s.b.meOf me).q = [c] → c.r.op = opInit → c.running = false → c.r.a0 = 0 →
    exec (.init me) s = .next (s.setB { s.b with me := s.b.me.set me { s.b.meOf me with
      q := [{ c with running := true, grans := [], lane := 0, old := [] }]
      ag := (s.b.meOf me).ag.set c.ag { (s.b.meOf me).agOf c.ag with st := .open_, mode := c.r.mode, tot := [], mv := [], flushed := false } } })) ∧
  (s.b.works (mePan me) = true → (s.b.meOf me).q = [c] → c.r.op = opInit → c.running = false → c.r.a0 ≠ 0 →
    s.b.staged c.ctx (me / 8) (tileRanges c.r c.r.mode) = true → accessAll (s.b.ctx c.ctx) c.who false (tileRanges c.r c.r.mode) = .ok →
    ∃ t, exec (.init me) s = .next t ∧ t.mem = s.mem ∧ t.pending = s.pending ∧
      (t.b.meOf me).q = [{ c with running := true, grans := rangeGrans (tileRanges c.r c.r.mode), lane := 0, old := [] }] ∧
      (t.b.meOf me).agOf c.ag = { (s.b.meOf me).agOf c.ag with st := .open_, mode := c.r.mode, tot := loadTile c.r (s.reader c.ctx), mv := [], flushed := false }) ∧
  (∀ md, s.b.works (mePan me) = true → (s.b.meOf me).q = [c] → c.r.op = opMma → c.running = false → ((s.b.meOf me).agOf c.ag).mode = md →
    s.b.staged c.ctx (me / 8) (tileRanges c.r md) = true → accessAll (s.b.ctx c.ctx) c.who false (tileRanges c.r md) = .ok →
    ∃ t, exec (.mma me) s = .next t ∧ t.mem = s.mem ∧ t.pending = s.pending ∧ (t.b.meOf me).ag = (s.b.meOf me).ag ∧ (t.b.ctx c.ctx).flags = (s.b.ctx c.ctx).flags ∧
      (t.b.meOf me).q = [{ c with running := true, grans := rangeGrans (tileRanges c.r md), lane := 0, old := copyRanges (s.reader c.ctx) (tileRanges c.r md) }] ∧
      (md ≠ 0 → (t.b.meOf me).gaugeCnt = (s.b.meOf me).gaugeCnt) ∧
      (md = 0 → (s.b.meOf me).gaugeDue = false →
        (t.b.meOf me).gaugeCnt = (s.b.meOf me).gaugeCnt + 1 ∧ (t.b.meOf me).gaugeDue = decide (2 ^ s.b.cfg.num.gaugeN ≤ (s.b.meOf me).gaugeCnt + 1)) ∧
      (md = 0 → (s.b.meOf me).gaugeDue = true → (s.b.meOf me).sample = none →
        (t.b.meOf me).gaugeCnt = 0 ∧ (t.b.meOf me).gaugeDue = false ∧ (t.b.meOf me).sample = some { cmd := c, kp := gaugeK c.r, mem := copyRanges (s.reader c.ctx) (tileRanges { c.r with k := gaugeK c.r } 0) })) ∧
  (∀ md, s.b.works (mePan me) = true → (s.b.meOf me).q = [c] → c.r.op = opClose → c.running = false → ((s.b.meOf me).agOf c.ag).mode = md →
    accessAll (s.b.ctx c.ctx) c.who true (tileRanges c.r md) = .ok → (s.b.ctx c.ctx).hrv.cap = none →
    (∀ y ∈ (closeRows c.r ((s.b.meOf me).agOf c.ag)).1, s.canWrite c.ctx y.1 y.2.length = true) →
    ∃ t, exec (.close me) s = .next t ∧ t.mem = s.mem ∧ t.pending = s.pending ∧
      ((t.b.meOf me).agOf c.ag).st = .draining ∧ ((t.b.meOf me).agOf c.ag).tot = ((s.b.meOf me).agOf c.ag).tot ∧
      (t.b.meOf me).q = [{ c with running := true, grans := [], lane := 0, old := [] }] ∧
      t.b.pend = s.b.pend ++ [{ who := .close me 0, ctx := c.ctx, bytes := chunkBytes (closeRows c.r ((s.b.meOf me).agOf c.ag)).1 }]) ∧
  ((∀ e ∈ s.b.ctxs, ∀ h ∈ e.2.handles, h.2.held = []) →
    (runningCmd (s.b.meOf me) opInit 0 = some c →
      ∃ t, exec (.initDone me) s = .next t ∧ t.pending = s.pending ∧
        (t.b.meOf me).q = ((s.b.meOf me).q.filter fun x => x.seq ≠ c.seq || x.ctx ≠ c.ctx) ∧ ∀ e ∈ (t.b.ctx c.ctx).open_, e.1 ≠ c.seq) ∧
    (runningCmd (s.b.meOf me) opMma 0 = some c →
      ∃ t, exec (.mmaDone me) s = .next t ∧ t.pending = s.pending ∧
        (t.b.meOf me).agOf c.ag = (mmaInto c.r (s.mmaReader c) ((s.b.meOf me).agOf c.ag)).1 ∧
        (t.b.ctx c.ctx).flags = orFlags (s.b.ctx c.ctx).flags (mmaInto c.r (s.mmaReader c) ((s.b.meOf me).agOf c.ag)).2 ∧
        (t.b.meOf me).q = ((s.b.meOf me).q.filter fun x => x.seq ≠ c.seq || x.ctx ≠ c.ctx) ∧ ∀ e ∈ (t.b.ctx c.ctx).open_, e.1 ≠ c.seq) ∧
    (runningCmd (s.b.meOf me) opClose lane = some c →
      ∃ t, exec (.closeDone me lane) s = .next t ∧ t.pending = s.pending ∧ (t.b.meOf me).agOf c.ag = {} ∧
        (t.b.meOf me).q = ((s.b.meOf me).q.filter fun x => x.seq ≠ c.seq || x.ctx ≠ c.ctx) ∧ (∀ p ∈ t.b.pend, p.who ≠ .close me lane) ∧
        (∀ w, s.b.pend = [w] → w.who = .close me lane → w.lost = [] → t.mem = w.bytes.foldl (fun m x => memWrite m (memKey w.ctx x.1) x.2.toNat) s.mem) ∧
        ∀ e ∈ (t.b.ctx c.ctx).open_, e.1 ≠ c.seq)) ∧
  (∀ x, (s.b.meOf me).sample = some x → (s.b.meOf me).q = [] → gaugeSkips x.cmd.r (memRead x.mem) x.kp = true →
    exec (.gaugeRecompute me) s = .next (s.setB { s.b with me := s.b.me.set me { s.b.meOf me with
      sample := none
      stat := (s.b.meOf me).stat.set x.cmd.r.cls { (s.b.meOf me).stat.get {} x.cmd.r.cls with skip := satInc 16 ((s.b.meOf me).stat.get {} x.cmd.r.cls).skip } } })) ∧
  (∀ x f, (s.b.meOf me).sample = some x → (s.b.meOf me).q = [] → gaugeSkips x.cmd.r (memRead x.mem) x.kp = false →
    fmtOfCode (s.b.cfg.num.cmpFmt.getD x.cmd.r.cls 1) = some f →
    ∃ t, exec (.gaugeRecompute me) s = .next t ∧ t.mem = s.mem ∧ t.pending = s.pending ∧
      (t.b.meOf me).sample = none ∧ ((t.b.meOf me).stat.get {} x.cmd.r.cls).samples = satInc 32 ((s.b.meOf me).stat.get {} x.cmd.r.cls).samples ∧
      ((t.b.meOf me).stat.get {} x.cmd.r.cls).maxdist = max ((s.b.meOf me).stat.get {} x.cmd.r.cls).maxdist (tileDist x.cmd.r (memRead x.mem) x.kp f).1)

/-- Tile commands: the claims above it, together. -/
def Obligations.TileCommands : Prop := Claims.Qcmd ∧ Claims.Matrix

/-- Absent terms and empty elements (R68, R86): operands at an absent k do not matter; a row or column that the masks exclude receives nothing; with every term absent a total stays as
it was; an empty element of SUM or SUMSQ is written as +0, or as the loaded value converted, and one of MEANVAR as two canonical NaNs, without a flag. -/
def Obligations.AbsentTerms : Prop := ∀ (t : Terms) (a b : Nat → Nat) (tot : Total) (r l : TileRec) (rd : Nat → Nat) (g : Ag) (i j n : Nat),
  ((∀ k, t.present k = true → a k = t.a k ∧ b k = t.b k) → mmaElement { t with a := a, b := b } tot = mmaElement t tot) ∧
  ((∀ k, t.present k = false) → mmaElement t tot = (tot, noFlags)) ∧
  (i < 64 → j < 64 → (bitAt r.rowMask i = false ∨ bitAt r.colMask j = false) →
    (mmaInto r rd g).1.tot.find (64 * i + j) = g.tot.find (64 * i + j) ∧ (mmaInto r rd g).1.mv.find (64 * i + j) = g.mv.find (64 * i + j)) ∧
  (g.mode ≠ 2 → g.tot.find n = none → closeElem r g n = (0, 0, noFlags)) ∧
  (g.mode ≠ 2 → n < 4096 → closeElem r { g with tot := loadTile l rd } n =
    ((closeConvert (recFmt r) r.subn r.ovfm (some (elemAt rd (l.a0 + n / 64 * l.pitch0) 64 (n % 64)))).1, 0,
     (closeConvert (recFmt r) r.subn r.ovfm (some (elemAt rd (l.a0 + n / 64 * l.pitch0) 64 (n % 64)))).2)) ∧
  (g.mode = 2 → (g.mv.get {} n).count = 0 → closeElem r g n = (canonicalNan (recFmt r), canonicalNan (recFmt r), noFlags))

/-- A raker core's waits and traps (R128, R132, R134, R437): QWAIT and QTEST tell a pending command by 1, and a complete one by 0 once the core's earlier stores are ordered; QFENCE
waits for every command the core issued; FENCE orders its stores; an illegal instruction and an unknown call fault the context with the program counter. -/
def Claims.RakerWaits : Prop := ∀ (s : State) (core rd num pc : Nat) (p : Prog),
  s.b.mayIssue core = some p →
  (cmdStatus (s.b.ctx p.ctx) num = 1 →
    exec (.qwait core rd num pc) s = .next (s.setB { s.b with rk := s.b.rk.set core { atPc (s.b.rkOf core) pc with wait := some (.cmd (num % 2 ^ 32) rd) } }) ∧
    exec (.qtest core rd num pc) s = .next (s.setB { s.b with rk := s.b.rk.set core (setX (atPc (s.b.rkOf core) pc) rd 1) })) ∧
  (cmdStatus (s.b.ctx p.ctx) num = 0 →
    ∃ t, exec (.qwait core rd num pc) s = .next t ∧ exec (.qtest core rd num pc) s = .next t ∧ t.pending = s.pending ∧
      t.mem = (s.publish (.rk core)).mem ∧ (∀ w ∈ t.b.pend, w.who ≠ .rk core) ∧
      t.b.rkOf core = setX (atPc ((s.publish (.rk core)).b.rkOf core) pc) rd 0) ∧
  ((s.b.rkOf core).issued = [] → exec (.qfence core pc) s = .next (s.setB { s.b with rk := s.b.rk.set core { atPc (s.b.rkOf core) pc with wait := none } })) ∧
  ((s.b.rkOf core).issued ≠ [] → exec (.qfence core pc) s = .next (s.setB { s.b with rk := s.b.rk.set core { atPc (s.b.rkOf core) pc with wait := some .fence } })) ∧
  (∀ w, s.b.pend = [w] → w.who = .rk core → w.lost = [] →
    ∃ t, exec (.fence core pc) s = .next t ∧ t.pending = s.pending ∧ t.b.pend = [] ∧ (t.b.rkOf core).pc = pc ∧
      t.mem = w.bytes.foldl (fun m x => memWrite m (memKey w.ctx x.1) x.2.toNat) s.mem) ∧
  (∃ t, exec (.rkIllegalInstr core pc .ebreak) s = .next t ∧ Faults s t p.ctx cRkIllegal (rkPan core) noSeq true pc 0) ∧
  (∃ t, exec (.rkIllegalInstr core pc .local_) s = .next t ∧ Faults s t p.ctx cRkLocal (rkPan core) noSeq true pc 0) ∧
  (∀ a7, 8 ≤ a7 → ∃ t, exec (.ecall core pc a7) s = .next t ∧ Faults s t p.ctx cRkEcall (rkPan core) noSeq true pc 0)

/-- Programs and firmware calls (R129, R130, R135, R219, R243): a start loads the program and its arguments; an exit with nothing outstanding frees the core; a program event; the tide
number and phase; a wait for an instant and its end. -/
def Claims.RakerPrograms : Prop := ∀ (s : State) (core pc : Nat),
  (∀ ctx r pr, s.b.prog core = none → phaseRun (s.b.ctx ctx) (s.b.ctx ctx).phase = some r → s.b.programOf (s.b.ctx ctx) (s.b.ctx ctx).phase = some pr →
    r.pending.contains core = true → (s.b.ctx ctx).st = .active → s.b.works (rkPan core) = true →
    ∃ t, exec (.programStart core ctx) s = .next t ∧ t.mem = s.mem ∧ t.pending = s.pending ∧
      (t.b.rkOf core).prog = some { ctx := ctx, idx := (coresOf (s.b.ctx ctx)).idxOf core, phase := (s.b.ctx ctx).phase, step := (s.b.ctx ctx).step, bound := currentBuf (s.b.ctx ctx) } ∧
      (t.b.rkOf core).pc = pr.entry ∧ (t.b.rkOf core).npc = pr.entry ∧ (t.b.rkOf core).loc = loadSegs pr ∧ (t.b.rkOf core).fw = s.b.cfg.rkFwSha ∧ (t.b.rkOf core).resv = none ∧ (t.b.rkOf core).wait = none ∧
      getX (t.b.rkOf core) 10 = ctx % 2 ^ 64 ∧ getX (t.b.rkOf core) 11 = (coresOf (s.b.ctx ctx)).idxOf core % 2 ^ 64 ∧
      getX (t.b.rkOf core) 12 = (coresOf (s.b.ctx ctx)).length % 2 ^ 64 ∧ getX (t.b.rkOf core) 13 = b2n (decide ((s.b.ctx ctx).phase = .learn)) ∧
      getX (t.b.rkOf core) 14 = (s.b.ctx ctx).step % 2 ^ 64 ∧
      t.b.ctxs = s.b.ctxs.set ctx (setRun (s.b.ctx ctx) (s.b.ctx ctx).phase { r with ran := r.ran + 1, pending := r.pending.filter (· ≠ core) })) ∧
  (∀ p code, s.b.mayIssue core = some p → (s.b.rkOf core).issued = [] → s.b.pend = [] →
    ∃ t, exec (.exit core pc code) s = .next t ∧ t.mem = s.mem ∧ t.pending = s.pending ∧
      t.b.rkOf core = { cycle := (s.b.rkOf core).cycle, instret := ((s.b.rkOf core).instret + 1) % 2 ^ 64 }) ∧
  (∀ p code, s.b.mayIssue core = some p → (s.b.rkOf core).issued ≠ [] →
    exec (.exit core pc code) s = .next (s.setB { s.b with rk := s.b.rk.set core { atPc (s.b.rkOf core) pc with wait := some (.exit code) } })) ∧
  (∀ p a0 a1, s.b.mayIssue core = some p → 0x5800 ≤ a0 → a0 ≤ 0x5FFF → inUserLocal a1 32 = true →
    exec (.eventCall core pc a0 a1) s = .next (s.setB (Blk.raise { s.b with rk := s.b.rk.set core (atPc (s.b.rkOf core) pc) } a0 p.ctx (rkPan core) (s.b.rkNat core a1 32)))) ∧
  (∀ p, s.b.mayIssue core = some p →
    exec (.tideCall core pc) s = .next (s.setB { s.b with rk := s.b.rk.set core (setX (setX (atPc (s.b.rkOf core) pc) 10 s.b.tide.num) 11 s.b.phase) })) ∧
  (∀ p a0 a1, s.b.mayIssue core = some p → a0 < 2 ^ 48 → a1 < s.b.tide.period →
    exec (.waitTide core pc a0 a1) s = .next (s.setB { s.b with rk := s.b.rk.set core { atPc (s.b.rkOf core) pc with
      wait := if s.b.due a0 a1 then none else some (.tide a0 a1) } })) ∧
  (∀ n ph, (s.b.rkOf core).wait = some (.tide n ph) → s.b.due n ph = true →
    exec (.waitTideWake core) s = .next (s.setB { s.b with rk := s.b.rk.set core { s.b.rkOf core with wait := none } }))

/-- Raker waits and programs: the claims above it, together. -/
def Obligations.RakerCores : Prop := Claims.RakerWaits ∧ Claims.RakerPrograms

/-- A raker core's accesses (R126 to R128, R134, R163): local memory at once; a load of context memory reads what the core sees; a store is held until an ordering point; LR reserves
the line, SC stores and answers 0 where the reservation holds and answers 1 where not, an AMO stores at once and answers the old value; accesses outside the regions, unaligned ones
and ones to the firmware's part fault the context. -/
def Obligations.RakerAccesses : Prop := ∀ (s : State) (core pc a : Nat) (p : Prog) (n v rd : Nat) (sg : Bool),
  s.b.mayIssue core = some p →
  (∀ acc, localBase ≤ a → inUserLocal a (accSize acc) = true →
    exec (.rkContextAccess core pc a acc) s = .next (s.setB { s.b with rk := s.b.rk.set core (localPerform (atPc (s.b.rkOf core) pc) a acc) })) ∧
  (∀ acc, localBase ≤ a → inUserLocal a (accSize acc) = false →
    ∃ t, exec (.rkContextAccess core pc a acc) s = .next t ∧ Faults s t p.ctx cRkLocal (rkPan core) noSeq true pc 0) ∧
  (∀ acc, a < localBase → covered (s.b.ctx p.ctx) a (accSize acc) = false →
    ∃ t, exec (.rkContextAccess core pc a acc) s = .next t ∧ Faults s t p.ctx cAddrRange (rkPan core) noSeq true pc 0) ∧
  (∀ acc, a < localBase → covered (s.b.ctx p.ctx) a (accSize acc) = true → a % accSize acc ≠ 0 →
    ∃ t, exec (.rkContextAccess core pc a acc) s = .next t ∧ Faults s t p.ctx cRkAlign (rkPan core) noSeq true pc 0) ∧
  (a < localBase → covered (s.b.ctx p.ctx) a n = true → a % n = 0 → access (s.b.ctx p.ctx) (progIssuer core p) false a n = .ok →
    exec (.rkContextAccess core pc a (.load n sg rd)) s = .next (s.setB { s.b with
      freeCtr := s.b.freeCtr + 1
      slu := (s.b.noteUses p.ctx a n).slu
      rk := s.b.rk.set core (setX (atPc (s.b.rkOf core) pc) rd (if sg then sext n (s.viewNat (some (.rk core)) p.ctx a n) else s.viewNat (some (.rk core)) p.ctx a n)) }) ∧
    exec (.rkContextAccess core pc a (.fload n rd)) s = .next (s.setB { s.b with
      freeCtr := s.b.freeCtr + 1
      slu := (s.b.noteUses p.ctx a n).slu
      rk := s.b.rk.set core (setF (atPc (s.b.rkOf core) pc) rd n (s.viewNat (some (.rk core)) p.ctx a n)) }) ∧
    exec (.rkContextAccess core pc a (.lr n rd)) s = .next (s.setB { s.b with
      freeCtr := s.b.freeCtr + 1
      slu := (s.b.noteUses p.ctx a n).slu
      rk := s.b.rk.set core (setX { atPc (s.b.rkOf core) pc with resv := some (p.ctx, a / 64) } rd (sext n (s.viewNat (some (.rk core)) p.ctx a n))) })) ∧
  (a < localBase → covered (s.b.ctx p.ctx) a n = true → a % n = 0 → access (s.b.ctx p.ctx) (progIssuer core p) true a n = .ok →
    s.canWrite p.ctx a n = true → (s.b.ctx p.ctx).hrv.cap = none →
    (∃ t, exec (.rkContextAccess core pc a (.store n v)) s = .next t ∧ t.mem = s.mem ∧ t.pending = s.pending ∧
      t.b.pend = s.b.pend ++ [{ who := .rk core, ctx := p.ctx, bytes := chunkBytes [(a, leBytes n v)] }]) ∧
    ((s.b.rkOf core).resv = some (p.ctx, a / 64) →
      ∃ t, exec (.rkContextAccess core pc a (.sc n v rd)) s = .next t ∧ t.mem = memWriteBytes s.mem (memKey p.ctx a) (leBytes n v) ∧ t.pending = s.pending ∧
        t.b.rkOf core = setX { atPc (s.b.rkOf core) pc with resv := none } rd 0) ∧
    ((s.b.rkOf core).resv ≠ some (p.ctx, a / 64) →
      ∃ t, exec (.rkContextAccess core pc a (.sc n v rd)) s = .next t ∧ t.mem = s.mem ∧ t.pending = s.pending ∧
        t.b.rkOf core = setX { atPc (s.b.rkOf core) pc with resv := none } rd 1) ∧
    (∀ op, ∃ t, exec (.rkContextAccess core pc a (.amo op n v rd)) s = .next t ∧ t.pending = s.pending ∧
      t.mem = memWriteBytes s.mem (memKey p.ctx a) (leBytes n (amoNew op n (s.viewNat (some (.rk core)) p.ctx a n) v)) ∧
      (t.b.rkOf core).x = (setX (s.b.rkOf core) rd (sext n (s.viewNat (some (.rk core)) p.ctx a n))).x))

/-- Launches and streams (R104, R107, R132, R133, R173): a good launch goes to the engine that R173 gives, waits for its arbiter and takes the next sequence number; an idle engine
starts the stream granted to it with every register zero but a0 to a7, N and DB of the launch record; and a stream is complete once it has ended and its stores are placed. -/
def Claims.VectorStreams : Prop := ∀ (s : State) (core rd rs1 pc ve : Nat) (n : Nat) (p : Prog) (x : Stream),
  (s.b.mayIssue core = some p → recordAddrOk rs1 = true → n = s.b.rkNat core rs1 128 → (s.b.ctx p.ctx).open_.length < 4096 → launchCheck n = none →
    s.b.launchVe p.ctx (launchRec n) = some ve → veRoom (s.b.veOf ve) = true → s.b.pend = [] →
    ∃ t, exec (.qlaunch core rd rs1 pc) s = .next t ∧ t.mem = s.mem ∧ t.pending = s.pending ∧
      t.b.rkOf core = setX { atPc (s.b.rkOf core) pc with issued := (s.b.rkOf core).issued ++ [(s.b.ctx p.ctx).seq] } rd (s.b.ctx p.ctx).seq ∧
      (t.b.ctx p.ctx).seq = ((s.b.ctx p.ctx).seq + 1) % 2 ^ 32 ∧
      (t.b.ctx p.ctx).open_ = (s.b.ctx p.ctx).open_ ++ [((s.b.ctx p.ctx).seq, progIssuer core p)] ∧
      t.b.veOf ve = { s.b.veOf ve with q := (s.b.veOf ve).q ++
        [{ ctx := p.ctx, seq := (s.b.ctx p.ctx).seq, who := progIssuer core p, addr := (launchRec n).addr, n := (launchRec n).n,
           db := (launchRec n).db, a := (launchRec n).a }] } ∧
      (t.b.arbOf (.streams ve)).waiting = (s.b.arbOf (.streams ve)).waiting ++
        [{ cls := (s.b.ctx p.ctx).qos, ctx := p.ctx, cost := 1, what := .stream p.ctx (s.b.ctx p.ctx).seq }]) ∧
  (∀ cause, s.b.mayIssue core = some p → recordAddrOk rs1 = true → n = s.b.rkNat core rs1 128 → (s.b.ctx p.ctx).open_.length < 4096 → launchCheck n = some cause → s.b.pend = [] →
    ∃ t, exec (.qlaunch core rd rs1 pc) s = .next t ∧ Faults s t p.ctx cause hubPan (s.b.ctx p.ctx).seq false 0 0) ∧
  ((s.b.veOf ve).run = none → (s.b.veOf ve).next = some x → s.b.works (vePan ve) = true →
    exec (.streamStart ve) s = .next (s.setB { s.b with ve := s.b.ve.set ve { a := x.a.zipIdx.map (fun p => (p.2, p.1)), n := x.n, db := x.db, run := some x, q := (s.b.veOf ve).q } })) ∧
  ((s.b.veOf ve).run = some x → x.ended = true → s.b.pend = [] → (∀ e ∈ s.b.ctxs, ∀ h ∈ e.2.handles, h.2.held = []) →
    ∃ t, exec (.streamComplete ve) s = .next t ∧ t.mem = s.mem ∧ t.pending = s.pending ∧ t.b.veOf ve = { s.b.veOf ve with run := none } ∧
      ∀ e ∈ (t.b.ctx x.ctx).open_, e.1 ≠ x.seq)

/-- SETVL, LOOP and END (R110 to R112): SETVL sets VL to the lesser of what is wanted and what the group holds, and takes it from N where SRC is 1; LOOP goes back while N is not 0; END
ends the stream. -/
def Claims.VectorControl : Prop := ∀ (s : State) (ve : Nat) (x : Stream) (i : VeIns), VeFetches s ve x i →
  (∀ g vlmax want : Nat, i.op = oSetvl → veFmtCheck i = none → g = 2 ^ bits i.lo 23 2 →
    vlmax = (if mxCode i.fmt then min 1024 (g * 8192 / codeWidth i.fmt) / 32 * 32 else min 1024 (g * 8192 / codeWidth i.fmt)) →
    want = (if bitAt i.lo 25 then (s.b.veOf ve).n else bits i.lo 0 11) →
    ∃ t, exec (.setvl ve) s = .next t ∧ VeRan s t ve x { s.b.veOf ve with
      vl := min want vlmax
      n := if bitAt i.lo 25 then (s.b.veOf ve).n - min want vlmax else (s.b.veOf ve).n } ((x.off + 8) % 2 ^ 64) noFlags) ∧
  (i.op = oLoop → (s.b.veOf ve).n = 0 → ∃ t, exec (.loop ve) s = .next t ∧ VeRan s t ve x (s.b.veOf ve) ((x.off + 8) % 2 ^ 64) noFlags) ∧
  (∀ off, i.op = oLoop → (s.b.veOf ve).n ≠ 0 → off < 2 ^ 64 → (off + 8 * bits i.lo 0 16) % 2 ^ 64 = x.off % 2 ^ 64 →
    ∃ t, exec (.loop ve) s = .next t ∧ VeRan s t ve x (s.b.veOf ve) off noFlags) ∧
  (i.op = oEnd → ∃ t, exec (.endS ve) s = .next t ∧ t.mem = s.mem ∧ t.pending = s.pending ∧
    t.b.veOf ve = { s.b.veOf ve with run := some { x with ended := true } })

/-- Vector streams and control: the claims above it, together. -/
def Obligations.VectorPrograms : Prop := Claims.VectorStreams ∧ Claims.VectorControl

/-- Instructions on vector registers (R65, R104 to R106, R113 to R122): an instruction whose format the opcode admits changes the engine's registers by its operation, adds its flags to
the context's and moves the stream on by 8 bytes; a format the opcode does not admit, and a word of no opcode, fault the context with the instruction's offset. -/
def Obligations.VectorRegisters : Prop := ∀ (s : State) (ve : Nat) (x : Stream) (i : VeIns) (c : Instr) (op : Nat) (f : Ve → VeIns → Ve × NumFlags),
  (c, op, f) ∈ [(Instr.add ve, oAdd, vAdd), (.mul ve, oMul, vMul), (.fma ve, oFma, vFma), (.min ve, oMin, vMinMax true), (.max ve, oMax, vMinMax false),
    (.cmp ve, oCmp, vCmp), (.sel ve, oSel, vSel), (.cvt ve, oCvt, fun v i => vCvt v i (Config.freeNat (s.b.freeCtr + 1))), (.perm ve, oPerm, vPerm),
    (.bcast ve, oBcast, vBcast), (.rsum ve, oRsum, vSum), (.rsumsq ve, oRsumsq, vSum), (.rmax ve, oRmax, vExt false), (.rmin ve, oRmin, vExt true),
    (.upd ve, oUpd, fun v i => vUpd v i (s.b.ctx x.ctx).rec_.seed (s.b.ctx x.ctx).step (s.b.ctx x.ctx).pos (Config.freeNat (s.b.freeCtr + 1)))] →
  VeFetches s ve x i → i.op = op →
  (veFmtCheck i = none → ∃ t, exec c s = .next t ∧ VeRan s t ve x (f (s.b.veOf ve) i).1 ((x.off + 8) % 2 ^ 64) (f (s.b.veOf ve) i).2) ∧
  (∀ cause, veFmtCheck i = some cause → s.b.pend = [] → (s.b.ctx x.ctx).st = .active →
    ∃ t, exec c s = .next t ∧ Aside { s.b with freeCtr := s.b.freeCtr + 1 } t.b ∧ t.mem = s.mem ∧ (t.b.ctx x.ctx).st = .teardown ∧ (t.b.ctx x.ctx).fault =
      { valid := true, cause := cause, pan := s.b.full (vePan ve), seq := x.seq, pcValid := false, addr := 0, detail := x.off % 2 ^ 64 })

/-- The elements an elementwise instruction writes (R105, R106, R113): an active element below VL receives its operation's result, a masked one is zero under MPOL and keeps its value
otherwise, elements at and past VL and every register outside the destination group stay. -/
def Obligations.VectorElements : Prop := ∀ (v : Ve) (i : VeIns) (f : Nat → Nat × NumFlags) (w : Nat), w = codeWidth i.fmt → v.vl ≤ 1024 → i.vd < 32 →
  (∀ r, v.v.get 0 r < 2 ^ 8192) →
  (∀ n, n < v.vl → getElem (toVd v i (eachEl v i f)).1.v i.vd w v.vl n =
    if activeEl v i.mask n then (f n).1 % 2 ^ w else if i.mpol then 0 else getElem v.v i.vd w v.vl n) ∧
  (∀ n, v.vl ≤ n → (n + 1) * w ≤ groupSize v.vl w * 8192 → getElem (toVd v i (eachEl v i f)).1.v i.vd w v.vl n = getElem v.v i.vd w v.vl n) ∧
  (∀ r, r < i.vd ∨ i.vd + groupSize v.vl w ≤ r → (toVd v i (eachEl v i f)).1.v.get 0 r = v.v.get 0 r) ∧
  (toVd v i (eachEl v i f)).1 = { v with v := (toVd v i (eachEl v i f)).1.v } ∧
  ((∀ n, n < v.vl → activeEl v i.mask n = true → (f n).2 = noFlags) → (toVd v i (eachEl v i f)).2 = noFlags) ∧
  (∀ n, n < v.vl → activeEl v i.mask n = true → orFlags (toVd v i (eachEl v i f)).2 (f n).2 = (toVd v i (eachEl v i f)).2)

/-- CMP (R114): PRED 0 to 6 are EQ, NE, LT, LE, GT, GE and UN on the elements' values, INV writes the NOT of the predicate, so LT with INV holds where the first is greater or equal or
the two are unordered; PRED 7 is rejected with VE_RSV. -/
def Obligations.VectorCompare : Prop := ∀ (v : Ve) (i : VeIns) (n : Nat) (x y : Val) (p : Bool), i.op = oCmp →
  (n < v.vl → activeEl v i.mask n = true → x = (srcVal v i i.vs1 n).1 → y = (srcVal v i i.vs2 n).1 →
    (predOf i = 0 → p = eqV x y) → (predOf i = 1 → p = !eqV x y) → (predOf i = 2 → p = ltV x y) → (predOf i = 3 → p = (ltV x y || eqV x y)) →
    (predOf i = 4 → p = ltV y x) → (predOf i = 5 → p = (ltV y x || eqV x y)) → (predOf i = 6 → p = (isNanV x || isNanV y)) → predOf i ≠ 7 →
    bitAt ((vCmp v i).1.m.get 0 i.vd) n = (p != invOf i)) ∧
  (∀ a b, (!ltV a b) = (ltV b a || eqV a b || isNanV a || isNanV b)) ∧ (∀ vl, predOf i = 7 → veCheck i vl = some cVeRsv)

/-- LD and ST (R107, R108, R118, R163): with every address good and allowed, LD loads each active element once the die holds a copy, ST holds each active element's bytes for its
address until they are published, and the address register moves on where the instruction asks it; a bad address, format or region faults the context with the instruction's offset,
and nothing is loaded or stored. -/
def Obligations.VectorMemory : Prop := ∀ (s : State) (ve : Nat) (x : Stream) (i : VeIns) (v : Ve), VeFetches s ve x i → v = s.b.veOf ve →
  (i.op = oLd → veMemCheck (s.b.ctx x.ctx) x v i false = .ok → s.b.staged x.ctx (ve / 4) ((activeEls v i).map fun n => (elemAddr v i n, codeSize i.fmt)) = true →
    ∃ t, exec (.ld ve) s = .next t ∧ VeRan s t ve x (postInc { v with v := putElems v.v i.vd (8 * codeSize i.fmt) v.vl (eachEl v i fun n => (s.viewNat (some (.ve ve)) x.ctx (elemAddr v i n) (codeSize i.fmt), noFlags)).1 } i) ((x.off + 8) % 2 ^ 64) noFlags) ∧
  (i.op = oSt → veMemCheck (s.b.ctx x.ctx) x v i true = .ok → activeEls v i ≠ [] → (s.b.ctx x.ctx).hrv.cap = none →
    (∀ g ∈ rangeGrans ((activeEls v i).map fun n => (elemAddr v i n, codeSize i.fmt)), s.b.stReady x.ctx (ve / 4) g = true) →
    ∃ t, exec (.st ve) s = .next t ∧ t.mem = s.mem ∧ t.pending = s.pending ∧ t.b.veOf ve = { (postInc v i) with run := some { x with off := (x.off + 8) % 2 ^ 64 } } ∧
      (∀ n, n ≠ ve → t.b.veOf n = s.b.veOf n) ∧ (t.b.ctx x.ctx).st = (s.b.ctx x.ctx).st ∧
      t.b.pend = s.b.pend ++ [{ who := .ve ve, ctx := x.ctx, bytes := chunkBytes ((activeEls v i).map fun n => (elemAddr v i n, leBytes (codeSize i.fmt) (getElem v.v i.vs1 (8 * codeSize i.fmt) v.vl n))), unit := codeSize i.fmt }]) ∧
  (∀ c op w, (c, op, w) ∈ [(Instr.ld ve, oLd, false), (.st ve, oSt, true)] → ∀ cause a hub, i.op = op → veMemCheck (s.b.ctx x.ctx) x v i w = .fault cause a hub → s.b.pend = [] → (s.b.ctx x.ctx).st = .active →
    ∃ t, exec c s = .next t ∧ t.mem = s.mem ∧ t.pending = s.pending ∧ (t.b.ctx x.ctx).st = .teardown ∧ (t.b.ctx x.ctx).fault.cause = cause ∧ (t.b.ctx x.ctx).fault.addr = a % 2 ^ 64 ∧
      (t.b.ctx x.ctx).fault.detail = x.off % 2 ^ 64)

/-- Skeyr calls (R135, R265, R275, R276): a good descriptor whose local range is allowed issues its message on its stream, with the next MSG_ID and the PSNs it takes, and a0 receives
the message id, once the core's earlier stores are ordered; a descriptor that breaks R275 faults the context; a wait receives the status of a message that has ended and waits for
one that has not. -/
def Obligations.SkeyrCalls : Prop := ∀ (s : State) (core pc a0 : Nat) (p : Prog) (d : SkyDesc),
  s.b.mayIssue core = some p → d = skyDesc (s.b.rkNat core a0 64) →
  (∀ c op, (c, op) ∈ [(Instr.skeyrWrite core pc a0, tWrite), (.skeyrRead core pc a0, tRead), (.skeyrFlush core pc a0, tFlush)] →
    (a0 % 64 = 0 → inUserLocal a0 64 = true → s.b.skyDescOk p.ctx d = true → d.op = op → s.b.outboundOn (homeDie d.stream) < 8192 →
      (op = tFlush ∨ access (s.b.ctx p.ctx) (progIssuer core p) (decide (op = tRead)) d.addr d.len = .ok) →
      ∃ t, exec c s = .next t ∧ t.pending = s.pending ∧ t.mem = (s.publish (.rk core)).mem ∧ (∀ w ∈ t.b.pend, w.who ≠ .rk core) ∧
        (t.b.rkOf core).pc = pc ∧ (t.b.rkOf core).x = (setX (s.b.rkOf core) 10 (msgIdOf d.stream (s.b.strmOf d.stream).msg)).x ∧
        (∀ n, n ≠ d.stream → t.b.strmOf n = s.b.strmOf n) ∧
        t.b.strmOf d.stream = { s.b.strmOf d.stream with
          msg := psnAdd (s.b.strmOf d.stream).msg 1
          psn := psnAdd (s.b.strmOf d.stream).psn (psnCount op d.len)
          unsent := (s.b.strmOf d.stream).unsent ++ (List.range (psnCount op d.len)).map (psnAdd (s.b.strmOf d.stream).psn)
          msgs := (s.b.strmOf d.stream).msgs ++
            [{ typ := op, ctx := p.ctx, msgId := (s.b.strmOf d.stream).msg, psn := (s.b.strmOf d.stream).psn, count := psnCount op d.len, winId := d.winId, winGen := d.winGen,
               len := d.len, addr := if op = tFlush then none else some d.addr, off := d.off, use_ := .program core p.phase p.bound, issuedAt := s.b.now }] }) ∧
    (a0 % 64 ≠ 0 ∨ inUserLocal a0 64 = false ∨ s.b.skyDescOk p.ctx d = false →
      ∃ t, exec c s = .next t ∧ Faults s t p.ctx cRkEcall (rkPan core) noSeq true pc 0) ∧
    (a0 % 64 = 0 → inUserLocal a0 64 = true → s.b.skyDescOk p.ctx d = true → d.op = op → op ≠ tFlush → s.b.outboundOn (homeDie d.stream) < 8192 →
      covered (s.b.ctx p.ctx) d.addr d.len = false → ∃ t, exec c s = .next t ∧ Faults s t p.ctx cAddrRange (rkPan core) noSeq true pc 0)) ∧
  (∀ v, s.b.msgStatus p.ctx a0 = some v →
    exec (.skeyrWait core pc a0) s = .next (s.setB { s.b with rk := s.b.rk.set core (setX (atPc (s.b.rkOf core) pc) 10 v) })) ∧
  (s.b.msgStatus p.ctx a0 = none →
    exec (.skeyrWait core pc a0) s = .next (s.setB { s.b with rk := s.b.rk.set core { atPc (s.b.rkOf core) pc with wait := some (.skeyr a0) } }))

/-- Collective calls (R299, R300, R302, R303, R307): a good descriptor takes the next number of its group, which a0 receives with the group, and is queued where it names the current
epoch and its link die has a place, requested or held where it names the next, and refused as old once a permutation has been requested; a bad one, one whose ranges overlap, or
one of another epoch, faults the context; a wait receives the status of a collective that has ended and waits for one that has not. -/
def Obligations.CollectiveCalls : Prop := ∀ (s : State) (core pc a0 n : Nat) (p : Prog) (d : CollDesc) (g : GroupRec),
  s.b.mayIssue core = some p → n = s.b.rkNat core a0 64 → d = collDesc n →
  (∀ c op, (c, op) ∈ [(Instr.allReduce core pc a0, 1), (.reduceScatter core pc a0, 2), (.allGather core pc a0, 3), (.allToAll core pc a0, 4),
      (.broadcast core pc a0, 5), (.permute core pc a0, 6), (.barrier core pc a0, 7), (.qsend core pc a0, 8), (.qrecv core pc a0, 9)] →
    (a0 % 64 = 0 → inUserLocal a0 64 = true → collRsvOk n = true → s.b.groupOf d.group = some g → collFieldsOk d g.members.length = true →
      s.b.groupReach p.ctx g = true → rangesMeet (collRanges d g.members.length (s.b.rankIn g)).1 (collRanges d g.members.length (s.b.rankIn g)).2 = false →
      (op = 6 → ∀ x ∈ s.permTable p.ctx d, x.ok = true ∧ x.rank < g.members.length ∧
        ∀ y ∈ s.permTable p.ctx d, y.rank = s.b.rankIn g → rangesMeet (d.src + x.srcOff, x.len) (d.dst + y.dstOff, y.len) = false) → d.op = op → s.b.epochRule p.ctx d ≠ .bad →
      s.collAccess (progIssuer core p) p.ctx d g.members.length (s.b.rankIn g) = none →
      (s.b.epochRule p.ctx d ≠ .old → s.b.collRoom s.b.collDie < 64) →
      s.b.findColl p.ctx d.group ((s.b.ctx p.ctx).collSeq.get 0 d.group) = none →
      ∃ t y, exec c s = .next t ∧ t.pending = s.pending ∧ t.mem = (s.publish (.rk core)).mem ∧
        (t.b.rkOf core).pc = pc ∧ (t.b.rkOf core).x = (setX (s.b.rkOf core) 10 (d.group + (s.b.ctx p.ctx).collSeq.get 0 d.group * 2 ^ 16)).x ∧
        (t.b.ctx p.ctx).collSeq = (s.b.ctx p.ctx).collSeq.set d.group (((s.b.ctx p.ctx).collSeq.get 0 d.group + 1) % 2 ^ 23) ∧
        t.b.colls = s.b.colls ++ [y] ∧ y.ctx = p.ctx ∧ y.group = d.group ∧ y.seq = (s.b.ctx p.ctx).collSeq.get 0 d.group ∧ y.who = progIssuer core p ∧
        (op ≠ 9 → y.d = d) ∧ y.engine = none ∧
        (s.b.epochRule p.ctx d = .run → y.st = .waiting) ∧ (s.b.epochRule p.ctx d = .old → y.st = .epochOld) ∧ (s.b.epochRule p.ctx d = .hold → y.st = .held) ∧
        (s.b.epochRule p.ctx d = .request → y.st = if s.b.oldOpen p.ctx = 0 then .reported else .requested)) ∧
    (a0 % 64 ≠ 0 ∨ inUserLocal a0 64 = false ∨ collRsvOk n = false ∨ s.b.groupOf d.group = none ∨ s.b.epochRule p.ctx d = .bad ∨
        (∃ g, s.b.groupOf d.group = some g ∧ rangesMeet (collRanges d g.members.length (s.b.rankIn g)).1 (collRanges d g.members.length (s.b.rankIn g)).2 = true) →
      d.op = op → ∃ t, exec c s = .next t ∧ Faults s t p.ctx cRkEcall (rkPan core) noSeq true pc 0)) ∧
  (∀ v, s.b.collStatus p.ctx a0 = some v →
    exec (.collWait core pc a0) s = .next (s.setB { s.b with rk := s.b.rk.set core (setStatus (atPc (s.b.rkOf core) pc) v) })) ∧
  (s.b.collStatus p.ctx a0 = none →
    exec (.collWait core pc a0) s = .next (s.setB { s.b with rk := s.b.rk.set core { atPc (s.b.rkOf core) pc with wait := some (.coll a0) } }))

/-- Reads and writes of memory lines (R147, R148, R158): a clean line changes nothing; one wrong symbol is corrected and counted, and the 16th line with that lane wrong in a tide
schedules the lane's repair; a line that fails again when it is read back schedules its row's; two are counted and captured, and fault the context that owns the line, or rewrite a
line that nobody owns; a write of a whole line stores it afresh, and one of a part reads it first. -/
def Claims.MemoryLines : Prop := ∀ (s : State) (mc line : Nat) (wrong : List Nat) (owner : LineOwner) (seq : Option Nat) (m : Mc),
  m = s.b.mcOf mc → s.b.mcWorks mc = true → m.inCalib = false →
  (line ∈ m.recheck → wrongNow m line wrong = [] →
    exec (.memLineRead mc line wrong owner seq) s = .next (s.setB { s.b with mc := s.b.mc.set mc { m with recheck := m.recheck.filter (· ≠ line) } })) ∧
  (line ∈ m.recheck → ∀ sym, wrongNow m line wrong = [sym] →
    ∃ t, exec (.memLineRead mc line wrong owner seq) s = .next t ∧ Config.rowOf mc line ∈ (t.b.mcOf mc).rowDue ∧ line ∉ (t.b.mcOf mc).recheck) ∧
  (line ∉ m.recheck → wrongNow m line wrong = [] → exec (.memLineRead mc line wrong owner seq) s = .next s) ∧
  (line ∉ m.recheck → ∀ sym ls, wrongNow m line wrong = [sym] → ls = (if (m.ceLane.get [] sym).contains line then m.ceLane.get [] sym else m.ceLane.get [] sym ++ [line]) →
    ∃ t, exec (.memLineRead mc line wrong owner seq) s = .next t ∧ Becomes s t { s.b with mc := s.b.mc.set mc { m with
      ceCnt := satInc 32 m.ceCnt
      ceTide := m.ceTide + 1
      ceLane := m.ceLane.set sym ls
      ceRated := m.ceRated || decide (s.b.cfg.mod.ceThresh < m.ceTide + 1)
      bad := m.bad.erase line
      badOf := m.badOf.erase line
      laneDue := if ls.length = 16 ∧ (m.ceLane.get [] sym).length = 15 ∧ sym ∉ m.laneDue then m.laneDue ++ [sym] else m.laneDue } }) ∧
  (line ∉ m.recheck → ∀ x y, wrongNow m line wrong = [x, y] → m.ueLines.length < 16 →
    (∀ c, (owner = .context c ∨ owner = .linkSram c) → (s.b.ctx c).st = .active →
      ∃ t, exec (.memLineRead mc line wrong owner seq) s = .next t ∧ t.mem = s.mem ∧ t.pending = s.pending ∧
        (t.b.ctx c).st = .teardown ∧ (t.b.ctx c).fault =
          { valid := true, cause := cMemUe, pan := s.b.full mc, seq := seq.getD noSeq, pcValid := false, addr := line * 64 % 2 ^ 64, detail := 0 } ∧
        (t.b.mcOf mc).ueCnt = satInc 16 m.ueCnt ∧ (t.b.mcOf mc).ueHeld = true ∧ (m.ueHeld = false → (t.b.mcOf mc).ueAddr = line * 64 ∧ (t.b.mcOf mc).ueCtx = c) ∧
        (m.ueHeld = true → (t.b.mcOf mc).ueAddr = m.ueAddr ∧ (t.b.mcOf mc).ueCtx = m.ueCtx) ∧ (t.b.mcOf mc).bad.get [] line = [x, y] ∧ (t.b.panSt mc).st = (s.b.panSt mc).st) ∧
    (owner = .free → ∃ t, exec (.memLineRead mc line wrong owner seq) s = .next t ∧ t.mem = s.mem ∧ t.pending = s.pending ∧ t.b.ctxs.map (·.1) = s.b.ctxs.map (·.1) ∧
      (∀ n, (t.b.ctx n).st = (s.b.ctx n).st ∧ (t.b.ctx n).fault = (s.b.ctx n).fault) ∧
      (t.b.mcOf mc).ueCnt = satInc 16 m.ueCnt ∧ (t.b.mcOf mc).bad.get [] line = [] ∧ line ∈ (t.b.mcOf mc).recheck)) ∧
  exec (.memLineWrite mc line true wrong owner seq) s = .next (s.setB { s.b with mc := s.b.mc.set mc { m with bad := m.bad.erase line, badOf := m.badOf.erase line } }) ∧
  exec (.memLineWrite mc line false wrong owner seq) s = exec (.memLineRead mc line wrong owner seq) s

/-- The rake and calibration (R36, R149 to R151, R159): a pass reads its lines in their order (log 57, the model's choice), counts them and is over after the last; a row with
corrected errors in two passes running is to be spared; the period's end begins the next pass, or reports the one that is late; a slot that is due, with nothing due before it,
puts its controllers into CALIB and samples its die's ring oscillator; a good calibration counts, a failed one keeps the old settings and the third in a row takes the controller
out of service. -/
def Claims.RakeAndCalibration : Prop := ∀ (s : State) (mc line : Nat) (owner : LineOwner) (us : Nat) (m : Mc), m = s.b.mcOf mc → isMc mc = true →
  (m.rakeActive = true → m.inCalib = false → s.b.works mc = true → mcKind mc ≤ 3 → line ∉ m.recheck → m.passLate = false → line = m.passLines →
    (∀ wrong, wrongNow m line wrong = [] →
      exec (.rakeRead mc line wrong owner false) s = .next (s.setB { s.b with mc := s.b.mc.set mc { m with
        passLines := m.passLines + 1, passPct := min 100 ((m.passLines + 1) * 100 / mcLines mc), rakeActive := decide (m.passLines + 1 < mcLines mc) } })) ∧
    (∀ wrong sym, wrongNow m line wrong = [sym] →
      ∃ t, exec (.rakeRead mc line wrong owner false) s = .next t ∧ t.mem = s.mem ∧ t.pending = s.pending ∧ (t.b.mcOf mc).ceCnt = satInc 32 m.ceCnt ∧
        Config.rowOf mc line ∈ (t.b.mcOf mc).ceThis ∧ (Config.rowOf mc line ∈ m.cePrev → Config.rowOf mc line ∈ (t.b.mcOf mc).rowDue) ∧
        (t.b.mcOf mc).passLines = m.passLines + 1)) ∧
  (m.rakeActive = true → m.inCalib = false → s.b.works mc = true → mcKind mc = 4 → m.passLate = false → line = m.passLines → m.passLines + 1 < mcLines mc → ∀ wrong margin,
    ∃ t, exec (.rakeRead mc line wrong owner margin) s = .next t ∧ Becomes s t { s.b with mc := s.b.mc.set mc { m with
      passLines := m.passLines + 1, passPct := min 100 ((m.passLines + 1) * 100 / mcLines mc) } }) ∧
  (mcKind mc ≠ 5 → s.b.past m.passAt (rakeNs mc m) = true → m.passLate = false →
    (m.rakeActive = true → ∃ t, exec (.rakePeriodEnd mc) s = .next t ∧ Becomes s t { s.b with mc := s.b.mc.set mc { m with passLate := true, lateCnt := satInc 8 m.lateCnt } }) ∧
    (m.rakeActive = false → exec (.rakePeriodEnd mc) s = .next (s.setB { s.b with mc := s.b.mc.set mc { m with
      rakeActive := true, passAt := s.b.now, passLines := 0, passPct := 0, passLate := false, cePrev := m.ceThis, ceThis := [] } }))) ∧
  (m.inCalib = true → (s.b.panSt mc).st = .calib → s.b.rateChanges mc = false →
    exec (.calibDone mc true us) s = .next (s.setB { s.b with
      mc := s.b.mc.set mc { m with inCalib := false, lastUs := us % 256, slotsDone := (m.slotsDone + 1) % 2 ^ 16, fails := 0 }
      pan := s.b.pan.set mc { s.b.panSt mc with st := .ready } }) ∧
    (m.fails < 2 → ∃ t, exec (.calibDone mc false us) s = .next t ∧ Becomes s t { s.b with
      mc := s.b.mc.set mc { m with inCalib := false, lastUs := us % 256, failCnt := satInc 8 m.failCnt, fails := m.fails + 1 }
      pan := s.b.pan.set mc { s.b.panSt mc with st := .ready } }) ∧
    (2 ≤ m.fails → ∃ t, exec (.calibDone mc false us) s = .next t ∧ t.mem = s.mem ∧ t.pending = s.pending ∧ (t.b.panSt mc).st = .fault ∧
      (t.b.mcOf mc).failCnt = satInc 8 m.failCnt ∧ (t.b.mcOf mc).inCalib = false ∧ t.b.ports = s.b.ports ∧ t.b.rk = s.b.rk)) ∧
  (∀ ring n, s.b.slotDue = some n → s.b.firstDue n s.b.cfg.mod.calPhase rankCalib = true → s.b.works mc = true → mc ∈ slotMcs (n / s.b.cfg.mod.calEvery) → m.rowDue = [] → m.laneDue = [] →
    ∃ t, exec (.calibSlot [] [] ring) s = .next t ∧ t.mem = s.mem ∧ t.pending = s.pending ∧ t.b.mon.slotN = n / s.b.cfg.mod.calEvery ∧
      (t.b.panSt mc).st = .calib ∧ t.b.mcOf mc = { m with inCalib := true, calibAt := s.b.now } ∧
      t.b.mon.nowCnt = s.b.mon.nowCnt.set (n / s.b.cfg.mod.calEvery % 16) (ring % 2 ^ 16))

/-- Memory controllers: the claims above it, together. -/
def Obligations.MemoryControllers : Prop := Claims.MemoryLines ∧ Claims.RakeAndCalibration

/-- The sluice's copies and moves (R163, R165, R170, R171, R183): staging and a move begin in a free slot that no request waits for once there is room, and wait, for the slot or for
the room, where there is none; staging that is done adds the die's copy and raises GEN; a move switches once no write is in flight, and its last pass begins while one is; then
the destination is the home, GEN rises, and the copies left behind are freed once nothing is bound to them. -/
def Claims.Migrations : Prop := ∀ (s : State) (ctx g die : Nat) (x : Gran) (m : Mig) (r : RegionRec),
  (∀ pf, s.b.stageOk ctx g die pf = true → s.b.slotNow = true → 0 < s.b.freeSram die →
    exec (.stageStart ctx g die pf) s = .next (s.setB { s.b with
      slu := { s.b.slu with migs := s.b.slu.migs ++ [{ ctx := ctx, gran := g, kind := .stage die pf }] } })) ∧
  (∀ pf, s.b.stageOk ctx g die pf = true → s.b.slotNow = false → (∀ y ∈ s.b.slu.stalls, y.ctx ≠ ctx) →
    ∃ t, exec (.stageStart ctx g die pf) s = .next t ∧ t.mem = s.mem ∧ t.pending = s.pending ∧
      t.b.slu = { s.b.slu with
        stalls := s.b.slu.stalls ++ [{ n := s.b.slu.nextReq, ctx := ctx, gran := g, kind := .stage die pf, since := s.b.now, wait := .slot }]
        nextReq := s.b.slu.nextReq + 1 } ∧
      (t.b.arbOf .migrSlots).waiting = (s.b.arbOf .migrSlots).waiting ++ [{ cls := (s.b.ctx ctx).qos, ctx := ctx, cost := 1, what := .slot s.b.slu.nextReq }]) ∧
  (∀ pf, s.b.stageOk ctx g die pf = true → s.b.slotNow = true → s.b.freeSram die = 0 → s.b.stagedVictim die = none → s.b.workVictim die = none →
    (∀ y ∈ s.b.slu.stalls, y.ctx ≠ ctx) →
    exec (.stageStart ctx g die pf) s = .next (s.setB { s.b with slu := { s.b.slu with
      stalls := s.b.slu.stalls ++ [{ n := s.b.slu.nextReq, ctx := ctx, gran := g, kind := .stage die pf, since := s.b.now }]
      nextReq := s.b.slu.nextReq + 1
      stallNow := true } })) ∧
  (s.b.gran ctx g = some x → (s.b.slu.migs.find? fun m => m.ctx = ctx && m.gran = g && (match m.kind with | .stage d _ => d = die | _ => false)) = some m →
    s.b.placeCalib (.sram die) = false →
    exec (.stageDone ctx g die) s = .next (s.setB { s.b with slu := { s.b.slu with
      map := s.b.slu.map.set (granKey ctx g) { x with staged := x.staged ++ [die], lastUse := x.lastUse.set die s.b.now, gen := (x.gen + 1) % 2 ^ 16 }
      migs := s.b.slu.migs.filter (· ≠ m)
      stagedCnt := satInc 32 s.b.slu.stagedCnt
      prefetched := if m.kind = .stage die true then satInc 32 s.b.slu.prefetched else s.b.slu.prefetched } })) ∧
  (ctxLives (s.b.ctx ctx).st = true → (s.b.ctx ctx).st ≠ .teardown → (∀ m ∈ s.b.slu.migs, m.ctx ≠ ctx ∨ m.gran ≠ g) → s.b.gran ctx g = some x →
    regionAt (s.b.ctx ctx) (g * granBytes) = some r → s.b.slotNow = true → (∀ y ∈ s.b.slu.stalls, y.ctx ≠ ctx ∨ y.gran ≠ g) →
    (die < 4 → x.work = none → x.staged = [] → s.b.placeWorks (.sram die) = true → s.b.hasRoom (.work die) = true →
      exec (.moveStart ctx g (.work die)) s = .next (s.setB { s.b with slu := { s.b.slu with migs := s.b.slu.migs ++ [{ ctx := ctx, gran := g, kind := .work die }] } })) ∧
    (∀ d, x.work = some d → exec (.moveStart ctx g .writeBack) s = .next (s.setB { s.b with
      slu := { s.b.slu with migs := s.b.slu.migs ++ [{ ctx := ctx, gran := g, kind := .writeBack d }] } })) ∧
    (∀ p, s.b.placeFree p = true → s.b.placeWorks p = true → p ≠ x.rest → x.offloaded = false → clsAllows (s.b.cls r.cls) (placeTier p) = true → (s.b.cls r.cls).pin = false →
      exec (.moveStart ctx g (.rest p)) s = .next (s.setB { s.b with slu := { s.b.slu with migs := s.b.slu.migs ++ [{ ctx := ctx, gran := g, kind := .rest p }] } })) ∧
    (∀ p, x.offloaded = false → (s.b.cls r.cls).pin = true → clsAllows (s.b.cls r.cls) (placeTier x.rest) = true → exec (.moveStart ctx g (.rest p)) s = .next s)) ∧
  ((s.b.slu.migs.find? fun m => m.ctx = ctx && m.gran = g && (match m.kind with | .stage _ _ => false | _ => true)) = some m → s.b.gran ctx g = some x →
    regionAt (s.b.ctx ctx) (g * granBytes) = some r → s.b.placeCalib (migDst m.kind x.rest) = false →
    (s.b.writesIn ctx g = true → exec (.moveSwitch ctx g) s = .next (s.setB { s.b with
      slu := { s.b.slu with migs := s.b.slu.migs.map fun y => if y = m then { y with last := true } else y } })) ∧
    (s.b.writesIn ctx g = false → (∀ n, (s.b.ctx n).returning = false) → exec (.moveSwitch ctx g) s = .next (s.setB { s.b with slu := { s.b.slu with
      map := s.b.slu.map.set (granKey ctx g) (switched x m.kind (s.b.cls r.cls).restPref s.b.now)
      migs := s.b.slu.migs.filter (· ≠ m)
      old := s.b.slu.old ++ s.b.leftBehind ctx g x m.kind
      moves := satInc 32 s.b.slu.moves } }))) ∧
  (∀ place o, (s.b.slu.old.find? fun o => o.ctx = ctx && o.gran = g && o.place = place) = some o → s.b.oldFree o = true → (∀ n, (s.b.ctx n).returning = false) →
    exec (.oldCopyFree ctx g place) s = .next (s.setB { s.b with slu := { s.b.slu with old := s.b.slu.old.erase o } }))

/-- Requests that wait for staging SRAM (R165, R170, R177, R180, R183): one that still wants its copy starts once nothing under way with its granule hinders it, a slot and room are
there and no demand staging waits before it, a new working copy in place of its staged ones; one whose room is still missing waits on, and one that wants its copy no more is
dropped; one that has waited for longer than a tide is reported once. -/
def Claims.SluiceWaits : Prop := ∀ (s : State) (n : Nat) (r : StallReq), (s.b.slu.stalls.find? fun r => r.n = n) = some r → r.wait ≠ .slot →
  (∀ u, s.b.stillWanted r = true → s.b.unhindered r = true → s.b.slotNow = true → s.b.hasRoom r.kind = true → s.b.outranked r = false → (∀ p, r.kind ≠ .offload p ∧ r.kind ≠ .ret p) →
    u = (match r.kind with | .work _ => s.b.dropStaged r.ctx r.gran | _ => s.b) →
    exec (.sluRequestResume n) s = .next (s.setB { u with slu := { u.slu with
      stalls := s.b.slu.stalls.filter fun x => x.n ≠ n
      migs := s.b.slu.migs ++ [{ ctx := r.ctx, gran := r.gran, kind := r.kind }] } })) ∧
  (∀ d pf, r.kind = .stage d pf → r.wait = .sram → s.b.stillWanted r = true → s.b.unhindered r = true → s.b.hasRoom r.kind = false → s.b.stagedVictim d = none → s.b.workVictim d = none →
    exec (.sluRequestResume n) s = .next s) ∧
  (s.b.stillWanted r = false →
    exec (.sluRequestResume n) s = .next (s.setB { s.b with slu := { s.b.slu with stalls := s.b.slu.stalls.filter fun x => x.n ≠ n } })) ∧
  (r.wait = .sram → r.raised = false → s.b.past r.since (s.b.tide.period + 1) = true →
    ∃ t, exec (.sluStallTimeout n) s = .next t ∧ Becomes s t { s.b with
      slu := { s.b.slu with stalls := s.b.slu.stalls.map fun x => if x.n = n then { x with raised := true } else x } })

/-- Migrations and waits for SRAM: the claims above it, together. -/
def Obligations.Moves : Prop := Claims.Migrations ∧ Claims.SluiceWaits

/-- The arbiters' grant (R178, R238, R239): with no request nothing is granted; the reserved lane is served first for 1/16 of every 4,096 cost units, and leaves the classes' figures
as they are; else the waiting class with the least figure is served, the higher class on a tie, its contexts in turn, and its figure rises by the cost over its weight; the units
served are counted; a transfer that its memory controller serves gives its operation's place back. -/
def Claims.Arbitration : Prop := ∀ (s : State) (a : ArbId) (ts : List Req) (x : Arb) (w : List Req) (fig : Nat → Nat) (after_ : Req → Sluice),
  a ≠ .opPlaces → x = s.b.arbOf a → (∀ r ∈ ts, arrivesAt a r = true) → (∀ r ∈ x.waiting, r.cls < 8 ∧ r.what = .transfer) →
  w = x.waiting ++ ts → fig = (fun q => if q ∈ x.backlog then x.s.get 0 q else max (x.f.get 0 q) x.v) →
  after_ = (fun r => match a with | .mc _ => freePlace s.b.slu r | _ => s.b.slu) →
  (w = [] → ∃ t, exec (.arbiterGrant a ts) s = .next t ∧ t.mem = s.mem ∧ t.pending = s.pending ∧ t.b.arbOf a = x) ∧
  (a.hasLane = true → x.rsvUsed < 256 → (∃ r ∈ w, r.lane ≠ 0) → ∃ r ∈ w, r.lane ≠ 0 ∧ (∀ r' ∈ w, r'.lane ≠ 0 → r.lane ≤ r'.lane) ∧
    exec (.arbiterGrant a ts) s = .next (s.setB { s.b with
      slu := after_ r
      arbs := s.b.arbs.set a.key { x with
        waiting := w.erase r
        units := if 4096 ≤ x.units + r.cost then x.units + r.cost - 4096 else x.units + r.cost
        rsvUsed := if 4096 ≤ x.units + r.cost then 0 else x.rsvUsed + r.cost } })) ∧
  (a.hasLane = false ∨ 256 ≤ x.rsvUsed ∨ (∀ r ∈ w, r.lane = 0) → (∃ r ∈ w, r.lane = 0) → ∃ r ∈ w, r.lane = 0 ∧
    (∀ r' ∈ w, r'.lane = 0 → fig r.cls < fig r'.cls ∨ (fig r.cls = fig r'.cls ∧ r'.cls ≤ r.cls)) ∧
    (∀ r' ∈ w, r'.lane = 0 → r'.cls = r.cls → x.last.find r.cls = none → r.ctx ≤ r'.ctx) ∧
    (∀ c, x.last.find r.cls = some c → ∀ r' ∈ w, r'.lane = 0 → r'.cls = r.cls → (c < r'.ctx → c < r.ctx ∧ r.ctx ≤ r'.ctx) ∧ (r.ctx ≤ c → r.ctx ≤ r'.ctx)) ∧
    ∃ t, exec (.arbiterGrant a ts) s = .next t ∧ t.mem = s.mem ∧ t.pending = s.pending ∧ t.b = { s.b with arbs := t.b.arbs, slu := after_ r } ∧
      (∀ k, k ≠ a.key → t.b.arbs.get {} k = s.b.arbs.get {} k) ∧
      (t.b.arbOf a).waiting = w.erase r ∧ (t.b.arbOf a).v = fig r.cls ∧ (t.b.arbOf a).last = x.last.set r.cls r.ctx ∧ (t.b.arbOf a).backlog = waitClasses (w.erase r) ∧
      (t.b.arbOf a).f.get 0 r.cls = fig r.cls + r.cost * 65536 / max 1 (s.b.cfg.qos.weight.getD r.cls 1) ∧
      (t.b.arbOf a).s.get 0 r.cls = fig r.cls + r.cost * 65536 / max 1 (s.b.cfg.qos.weight.getD r.cls 1) ∧
      (t.b.arbOf a).units = (if 4096 ≤ x.units + r.cost then x.units + r.cost - 4096 else x.units + r.cost) ∧
      (t.b.arbOf a).rsvUsed = if 4096 ≤ x.units + r.cost then 0 else x.rsvUsed)

/-- The operations in flight (R178, R184): an operation that comes alone takes one of its class's places while the contexts hold fewer than 28,672, one of the lane a
reserved place while fewer than 4,096 are held, and the peak follows; where no place is left it waits. Where a class below its MIN_OPS waits, it goes before every class that is not. -/
def Claims.OperationPlaces : Prop := ∀ (s : State) (q : Req), q.what = .transfer → q.cls < 8 → q.lane ≤ 5 → q.cost = 1 → isMc q.mc = true → (s.b.arbOf .opPlaces).waiting = [] →
  (q.lane = 0 → s.b.slu.opsCtx < 28672 → ∃ t, exec (.arbiterGrant .opPlaces [q]) s = .next t ∧ t.mem = s.mem ∧ t.pending = s.pending ∧ (t.b.arbOf .opPlaces).waiting = [] ∧
    t.b.slu = { s.b.slu with flight := s.b.slu.flight ++ [opOf q], opsPeak := t.b.slu.opsPeak } ∧ t.b.slu.opsPeak = max s.b.slu.opsPeak t.b.slu.opsNow ∧
    t.b.slu.opsQ q.cls = s.b.slu.opsQ q.cls + 1 ∧ t.b.slu.opsCtx = s.b.slu.opsCtx + 1) ∧
  (q.lane ≠ 0 → s.b.slu.opsRsv < 4096 → ∃ t, exec (.arbiterGrant .opPlaces [q]) s = .next t ∧ t.mem = s.mem ∧ t.pending = s.pending ∧ (t.b.arbOf .opPlaces).waiting = [] ∧
    t.b.slu = { s.b.slu with flight := s.b.slu.flight ++ [opOf q], opsPeak := t.b.slu.opsPeak } ∧ t.b.slu.opsPeak = max s.b.slu.opsPeak t.b.slu.opsNow ∧
    t.b.slu.opsRsv = s.b.slu.opsRsv + 1) ∧
  ((q.lane = 0 ∧ 28672 ≤ s.b.slu.opsCtx ∨ q.lane ≠ 0 ∧ 4096 ≤ s.b.slu.opsRsv) →
    ∃ t, exec (.arbiterGrant .opPlaces [q]) s = .next t ∧ t.mem = s.mem ∧ t.pending = s.pending ∧ (t.b.arbOf .opPlaces).waiting = [q] ∧ t.b.slu = s.b.slu) ∧
  (∀ r, q.lane = 0 → r.what = .transfer → r.lane = 0 → r.cls < 8 → r.cost = 1 → isMc r.mc = true → s.b.slu.opsCtx < 28672 → q.cls ≠ r.cls →
    s.b.slu.opsQ q.cls < s.b.cfg.slu.minOps.getD q.cls 0 → s.b.cfg.slu.minOps.getD r.cls 0 ≤ s.b.slu.opsQ r.cls →
    ∃ t, exec (.arbiterGrant .opPlaces [r, q]) s = .next t ∧ t.mem = s.mem ∧ t.pending = s.pending ∧ (t.b.arbOf .opPlaces).waiting = [r])

/-- The event path (R241, R243, R364): the one waiting record takes its sink's next EVENT_SEQ, is mirrored where its severity asks for it, and leaves as one EVENT message of 64 bytes. -/
def Claims.EventPath : Prop := ∀ (s : State) (e : EventRec) (key : Nat) (q : Req) (sink : Nat),
  q.what = .event e → q.ctx = key → q.lane = 0 → q.cls < 8 → (s.b.arbOf .eventPath).waiting = [q] → key ≠ moduleCtx → ctxLives (s.b.ctx key).st = true →
  sink = (s.b.ctx key).rec_.sink → s.b.streamUp sink = true →
  ∃ t, exec (.arbiterGrant .eventPath []) s = .next t ∧ t.mem = s.mem ∧ t.pending = s.pending ∧ (t.b.arbOf .eventPath).waiting = [] ∧
    t.b.evSeq = s.b.evSeq.set sink ((s.b.evSeq.get 0 sink + 1) % 2 ^ 32) ∧
    (s.b.cfg.qos.mirrorMin ≤ e.sev → e.mir = false → s.b.mgt.mirror.length < 32 → t.b.mgt.mirror = s.b.mgt.mirror ++ [{ e with seq := s.b.evSeq.get 0 sink }]) ∧
    (e.sev < s.b.cfg.qos.mirrorMin → t.b.mgt = s.b.mgt) ∧
    (t.b.strmOf sink).msgs = (s.b.strmOf sink).msgs ++
      [{ typ := tEvent, ctx := if e.ctx = moduleCtx then 0 else e.ctx, msgId := (s.b.strmOf sink).msg, psn := (s.b.strmOf sink).psn, count := 1, len := 64,
         data := recBytes { e with seq := s.b.evSeq.get 0 sink }, use_ := .event, issuedAt := s.b.now }] ∧
    (recBytes { e with seq := s.b.evSeq.get 0 sink }).length = 64

/-- Arbitration, operations in flight and the event path: the claims above it, together. -/
def Obligations.ArbitersAndEvents : Prop := Claims.Arbitration ∧ Claims.OperationPlaces ∧ Claims.EventPath

/-- Tier offload (R174 to R176, R180): at the OUT instant a region's granules in tier 1 begin to move out, and one that had to wait goes once nothing writes it; where tier 2 has no
room the granule stays and the skip is counted; the return sequence moves the plan's first granule back where tier 1 has room, waits where it has none, and is over when none is
left; a region not back at its instant is counted and reported once. -/
def Obligations.Offload : Prop := ∀ (s : State) (ctx tensor g : Nat) (e : OffloadRec) (r : RegionRec) (c : Ctx) (x : Gran), c = s.b.ctx ctx →
  (c.st = .active → (c.rec_.offload.find? fun e => e.tensor = tensor) = some e → tensorRegion c tensor = some r → (c.off.get {} tensor).out = false →
    s.b.planDue c e.outTide e.outPhase = true →
    ∃ t, exec (.offloadOut ctx tensor) s = .next t ∧ t.mem = s.mem ∧ t.pending = s.pending ∧ ((t.b.ctx ctx).off.get {} tensor).out = true ∧ (t.b.ctx ctx).st = .active ∧
      t.b.slu.map = s.b.slu.map ∧ (∀ m ∈ s.b.slu.migs, m ∈ t.b.slu.migs) ∧
      (∀ m ∈ t.b.slu.migs, m ∈ s.b.slu.migs ∨ (m.ctx = ctx ∧ m.gran ∈ regionGrans r ∧ ∃ p, m.kind = .offload (.t2 p))) ∧
      (∀ p, r.granules = 1 → s.b.gran ctx (r.base / granBytes) = some x → placeTier x.rest = 1 → s.b.writesIn ctx (r.base / granBytes) = false →
        (∀ m ∈ s.b.slu.migs, m.ctx ≠ ctx) → s.b.findT2 r.tensorId = some p → s.b.slotNow = true →
        t.b.slu.migs = s.b.slu.migs ++ [{ ctx := ctx, gran := r.base / granBytes, kind := .offload p }])) ∧
  (regionAt c (g * granBytes) = some r → g ∈ (c.off.get {} r.tensorId).waiting → s.b.gran ctx g = some x → placeTier x.rest = 1 → s.b.writesIn ctx g = false →
    (∀ m ∈ s.b.slu.migs, m.ctx ≠ ctx) →
    (∀ p, s.b.findT2 ((g - r.base / granBytes) + r.tensorId) = some p → s.b.slotNow = true →
      exec (.offloadGranule ctx g) s = .next (s.setB { s.b with
        ctxs := s.b.ctxs.set ctx { c with off := c.off.set r.tensorId { c.off.get {} r.tensorId with waiting := (c.off.get {} r.tensorId).waiting.filter (· ≠ g) } }
        slu := { s.b.slu with migs := s.b.slu.migs ++ [{ ctx := ctx, gran := g, kind := .offload p }] } })) ∧
    (s.b.findT2 ((g - r.base / granBytes) + r.tensorId) = none → ∃ t, exec (.offloadGranule ctx g) s = .next t ∧ Becomes s t { s.b with
      ctxs := s.b.ctxs.set ctx { c with off := c.off.set r.tensorId { c.off.get {} r.tensorId with
        waiting := (c.off.get {} r.tensorId).waiting.filter (· ≠ g), skipped := true } }
      slu := { s.b.slu with skipCnt := satInc 16 s.b.slu.skipCnt, offloadSkip := true } })) ∧
  (c.st = .active → c.returning = false → s.b.returnDue c = true → s.b.retBusy ctx = false →
    ((∀ y ∈ planOrder c, s.b.stillOut ctx y.2 = []) → ∃ t, exec (.returnStart ctx) s = .next t ∧ t.mem = s.mem ∧ t.pending = s.pending ∧ t.b.slu = s.b.slu ∧ t.b.ctx ctx = c) ∧
    (∀ rest p, ((planOrder c).flatMap fun y => (s.b.stillOut ctx y.2).map fun g => (g, y.2)) = (g, r) :: rest → (∀ m ∈ s.b.slu.migs, m.ctx ≠ ctx) →
      s.b.findT1 ((g - r.base / granBytes) + r.tensorId) = some p → s.b.slotNow = true →
      exec (.returnStart ctx) s = .next (s.setB { s.b with
        ctxs := s.b.ctxs.set ctx { c with returning := true }
        slu := { s.b.slu with migs := s.b.slu.migs ++ [{ ctx := ctx, gran := g, kind := .ret p }] } })) ∧
    (∀ rest, ((planOrder c).flatMap fun y => (s.b.stillOut ctx y.2).map fun g => (g, y.2)) = (g, r) :: rest → (∀ m ∈ s.b.slu.migs, m.ctx ≠ ctx) →
      s.b.findT1 ((g - r.base / granBytes) + r.tensorId) = none →
      exec (.returnStart ctx) s = .next (s.setB { s.b with ctxs := s.b.ctxs.set ctx { c with returning := true } }))) ∧
  ((c.rec_.offload.find? fun e => e.tensor = tensor) = some e → tensorRegion c tensor = some r → (c.off.get {} tensor).late = false → s.b.stillOut ctx r ≠ [] →
    s.b.planDue c e.backTide e.backPhase = true →
    ∃ t, exec (.returnDeadline ctx tensor) s = .next t ∧ Becomes s t { s.b with
      ctxs := s.b.ctxs.set ctx { c with off := c.off.set tensor { c.off.get {} tensor with late := true } }
      slu := { s.b.slu with lateCnt := satInc 16 s.b.slu.lateCnt, deadlineMiss := true } })

/-- Creation (R131, R160, R164, R203, R209, R210, R235, R244, R260): a declared context whose regions have room is created with its record, its granules placed and its memory zero,
and is left absent where they have none; a sealed region is loaded in its layout from the elements its frames give, a sealed program once it has been checked, and a load that
fails leaves the context absent and zeroed; once nothing is left to load the context is ACTIVE, its windows open and its fault record free. -/
def Obligations.Creation : Prop := ∀ (s : State) (ctx : Nat) (r : CtxRec) (c : Ctx) (bPlaced : Blk) (found : SealRead) (g : RegionRec), c = s.b.ctx ctx →
  (c.next = some r → c.st = .absent → s.b.running = true → (∀ e ∈ s.b.ctxs, e.1 < ctx → e.2.st = .absent → e.2.next = none) →
    (((s.b.setCtx ctx (freshCtx c r .creating)).freshStreams ctx).placeAll ctx r.regions = some bPlaced →
      ∃ t, exec (.ctxCreate ctx) s = .next t ∧ t.pending = s.pending ∧ t.b = bPlaced ∧ t.b.ctx ctx = freshCtx c r .creating ∧
        (∀ x ∈ r.regions, ∀ k ∈ regionGrans x, (t.b.gran ctx k).isSome = true) ∧
        (∀ k, ctx * 2 ^ 64 ≤ k → k < (ctx + 1) * 2 ^ 64 → memRead t.mem k = 0) ∧
        (memWf s.mem = true → ∀ k, k < ctx * 2 ^ 64 ∨ (ctx + 1) * 2 ^ 64 ≤ k → memRead t.mem k = memRead s.mem k)) ∧
    (((s.b.setCtx ctx (freshCtx c r .creating)).freshStreams ctx).placeAll ctx r.regions = none →
      ∃ t, exec (.ctxCreate ctx) s = .next t ∧ Becomes s t { s.b with ctxs := s.b.ctxs.set ctx { c with next := none }, slu := { s.b.slu with noSpace := true } })) ∧
  (∀ i is, c.loads = i :: is → i < genLoad → c.st = .creating → c.rec_.regions[i]? = some g → (∀ e ∈ s.b.ctxs, e.1 < ctx → e.2.loads = []) →
    (∀ q d es, (s.b.store.pkgs.find? fun p => p.id = g.sealId && p.ver = g.sealVer) = some q → q.tensors[g.sealTensor]? = some d →
      tensorElems d (flashBytes (readBody q found) d.off d.len) = some es → s.b.loadCheck g.sealId g.sealVer (some g.sealTensor) found = none →
      ∃ t, exec (.sealLoadRegion ctx found) s = .next t ∧ t.pending = s.pending ∧ (t.b.ctx ctx).loads = is ∧ (t.b.ctx ctx).st = .creating ∧
        t.mem = (sealLayout g d.srcFmt s.b.freeCtr (takenElems g d.cols es)).1.foldl (fun m y => memWriteBytes m (memKey ctx y.1) y.2) s.mem ∧
        (t.b.ctx ctx).flags = orFlags c.flags (sealLayout g d.srcFmt s.b.freeCtr (takenElems g d.cols es)).2) ∧
    (∀ why, s.b.loadCheck g.sealId g.sealVer (some g.sealTensor) found = some why →
      ∃ t, exec (.sealLoadRegion ctx found) s = .next t ∧ t.pending = s.pending ∧ (t.b.ctx ctx).st = .absent ∧ (t.b.ctx ctx).next = none ∧
        (∀ k, ctx * 2 ^ 64 ≤ k → k < (ctx + 1) * 2 ^ 64 → memRead t.mem k = 0) ∧ (∀ k, k < 2 ^ 43 → t.b.gran ctx k = none))) ∧
  (∀ is id ver, c.loads = genLoad :: is → c.st = .creating → c.rec_.genSeal = some (id, ver) → c.rec_.regions.length ≤ genLoad → (∀ e ∈ s.b.ctxs, e.1 < ctx → e.2.loads = []) →
    s.b.loadCheck id ver none found = none → exec (.sealLoadRegion ctx found) s = .next (s.setB { s.b with ctxs := s.b.ctxs.set ctx { c with loads := is } })) ∧
  (c.st = .creating → c.loads = [] → ∃ t, exec (.ctxCreated ctx) s = .next t ∧ t.mem = s.mem ∧ t.pending = s.pending ∧
    (t.b.ctx ctx).st = .active ∧ (t.b.ctx ctx).fault = {} ∧ (t.b.ctx ctx).created = s.b.tide.num ∧ t.b.slu = s.b.slu ∧
    (∀ w ∈ c.rec_.pds.flatMap (fun d => d.windows.map (·.winId)), (t.b.winOf w).open_ = true) ∧
    ((c.rec_.pds.flatMap fun d => d.windows.map (·.winId)).Nodup →
      ∀ w ∈ c.rec_.pds.flatMap (fun d => d.windows.map (·.winId)), (t.b.winOf w).gen = nextGen (s.b.winOf w).gen) ∧
    (∀ w, w ∉ c.rec_.pds.flatMap (fun d => d.windows.map (·.winId)) → t.b.winOf w = s.b.winOf w) ∧ ∀ n, n ≠ ctx → (t.b.ctx n).st = (s.b.ctx n).st)

/-- The end of a context (R235, R247, R249, R262, R328, R329): once its operations have ended its writes in flight have landed and its held records go; then its memory is zeroed and
its granules, streams and collectives are freed, the packet numbers it has received staying known; 2 MPL of quarantine later a removed context is absent, a replaced one is
created anew, and a faulted one begins its restore, waits while the module restores nothing, or halts where its regions have no room (log 58, the model's choice). -/
def Obligations.Teardown : Prop := ∀ (s : State) (ctx : Nat) (bad : List (Nat × Nat)) (index : Option Nat) (c : Ctx), c = s.b.ctx ctx →
  (c.st = .teardown → c.tdStep = 3 → ctx ≠ moduleCtx →
    ∃ t, exec (.teardownOpsEnded ctx) s = .next t ∧ t.pending = s.pending ∧
      t.mem = (s.b.pend.filter fun p => p.ctx = ctx).foldl (fun m p => (placedBytes p).foldl (fun m x => memWrite m (memKey p.ctx x.1) x.2.toNat) m) s.mem ∧
      EventsOnly { s.b with pend := s.b.pend.filter fun p => p.ctx ≠ ctx, ctxs := s.b.ctxs.set ctx { c with tdStep := 5 } } t.b ∧ (t.b.ctx ctx).ev.held = []) ∧
  (c.st = .teardown → c.tdStep = 5 →
    ∃ t, exec (.teardownZeroised ctx bad) s = .next t ∧ t.pending = s.pending ∧ (t.b.ctx ctx).st = .quarantine ∧ (t.b.ctx ctx).tdStep = 7 ∧
      (t.b.ctx ctx).quarEnd = s.b.now + 2 * s.b.mpl ∧ (t.b.ctx ctx).flags = noFlags ∧ (t.b.ctx ctx).queues = [] ∧ (t.b.ctx ctx).next = c.next ∧ (t.b.ctx ctx).fault = c.fault ∧
      (∀ k, ctx * 2 ^ 64 ≤ k → k < (ctx + 1) * 2 ^ 64 → memRead t.mem k = 0) ∧
      (memWf s.mem = true → ∀ k, k < ctx * 2 ^ 64 ∨ (ctx + 1) * 2 ^ 64 ≤ k → memRead t.mem k = memRead s.mem k) ∧
      (∀ k, k < 2 ^ 43 → t.b.gran ctx k = none) ∧ (∀ m ∈ t.b.slu.migs, m.ctx ≠ ctx) ∧ (∀ k ∈ t.b.colls, k.ctx ≠ ctx) ∧ (∀ n ∈ s.b.streamsOf ctx, t.b.strmOf n = keptStrm (s.b.strmOf n)) ∧
      (∀ n, n ∉ s.b.streamsOf ctx → t.b.strmOf n = s.b.strmOf n) ∧ (∀ k ∈ t.b.rk, runsFor k.2 ctx = false) ∧
      (∀ x ∈ bad, isMc x.1 = true → (s.b.panSt x.1).st ≠ .fault → Config.rowOf x.1 x.2 ∈ (t.b.mcOf x.1).rowDue)) ∧
  (c.st = .quarantine → c.quarEnd ≤ s.b.now →
    (c.tdReason = .removed → c.next = none →
      ∃ t, exec (.quarantineEnd ctx index) s = .next t ∧ Becomes s t { s.b with ctxs := s.b.ctxs.set ctx { c with st := .absent, tdStep := 8, next := none } }) ∧
    (∀ r, c.tdReason = .replaced → c.next = some r → ∃ t, exec (.quarantineEnd ctx index) s = .next t ∧ t.pending = s.pending ∧ (t.b.ctx ctx).next = none ∧
      (((t.b.ctx ctx).st = .creating ∧ (t.b.ctx ctx).rec_ = r) ∨ ((t.b.ctx ctx).st = .absent ∧ t.b.slu.noSpace = true))) ∧
    (c.tdReason = .fault → s.b.restoresNothing = true → exec (.quarantineEnd ctx index) s = .next (s.setB { s.b with
      ctxs := s.b.ctxs.set ctx { freshCtx { c with tdStep := 8 } (c.next.getD (takeOff (takeSched c)).rec_) .restoring with hrv := { restoreStep := 1 } } })) ∧
    (∀ r, c.tdReason = .fault → s.b.restoresNothing = false → r = c.next.getD (takeOff (takeSched c)).rec_ →
      (((s.b.setCtx ctx (freshCtx { c with tdStep := 8 } r .restoring)).freshStreams ctx).placeAll ctx r.regions).isSome = true →
      ∃ t, exec (.quarantineEnd ctx index) s = .next t ∧ t.pending = s.pending ∧ (t.b.ctx ctx).st = .restoring ∧ (t.b.ctx ctx).rec_ = r ∧ (t.b.ctx ctx).hrv.m = some index ∧
        (t.b.ctx ctx).hrv.restoreStep = (if r.sched.isNone then 4 else 3)) ∧
    (∀ r, c.tdReason = .fault → s.b.restoresNothing = false → r = c.next.getD (takeOff (takeSched c)).rec_ →
      ((s.b.setCtx ctx (freshCtx { c with tdStep := 8 } r .restoring)).freshStreams ctx).placeAll ctx r.regions = none →
      ∃ t, exec (.quarantineEnd ctx index) s = .next t ∧ t.mem = s.mem ∧ t.pending = s.pending ∧ (t.b.ctx ctx).st = .restoring ∧ (t.b.ctx ctx).hrv.restoreStep = 2 ∧
        (t.b.ctx ctx).loads = [] ∧ t.b.slu.noSpace = true))

/-- A LEARN phase begins (R36, R192, R214 to R216, R218, R219, R232, R260): the first at the tide edge after creation, a later one at GENERATE's end, with nothing due before it. The
step number and the data position move on, the programs' cores are to start on the CURRENT buffer, the phase block is written, and at a switch the windows that ask for it take a
new generation. -/
def Obligations.LearnStart : Prop := ∀ (s : State) (ctx : Nat) (c : Ctx) (i : Instr), c = s.b.ctx ctx → c.st = .active →
  ((i = .firstLearnStart ctx ∧ c.phase = .none ∧ c.learn = none ∧ c.step = c.rec_.startStep ∧ c.created < s.b.tide.num ∧ s.b.firstDue (c.created + 1) 0 rankPhase = true) ∨
    (i = .phaseSwitchLearn ctx ∧ c.phase = .generate ∧ c.genEnd ≠ 0 ∧ s.b.due c.genEnd 0 = true ∧ s.b.firstDue c.genEnd 0 rankPhase = true)) →
  ∃ t, exec i s = .next t ∧ t.pending = s.pending ∧ (t.b.ctx ctx).st = .active ∧ (t.b.ctx ctx).phase = .learn ∧
    (t.b.ctx ctx).step = (c.step + 1) % 2 ^ 64 ∧ (t.b.ctx ctx).pos = (c.pos + c.rec_.samples) % 2 ^ 48 ∧ (t.b.ctx ctx).learnAt = s.b.tide.num ∧ (t.b.ctx ctx).waitTides = 0 ∧
    (∃ run, (t.b.ctx ctx).learn = some run ∧ run.pending = coresOf c ∧ run.startTide = s.b.tide.num ∧ run.step = (c.step + 1) % 2 ^ 64 ∧ run.bound = currentBuf (t.b.ctx ctx)) ∧
    (t.b.ctx ctx).rec_.sched = (takeSched c).rec_.sched ∧ (t.b.ctx ctx).schedNext = none ∧ (t.b.ctx ctx).offNext = none ∧
    ((takeSched c).rec_.sched = none → t.mem = s.mem) ∧
    (∀ r, (takeSched c).rec_.sched = some r → r.blockAddr + 64 ≤ 2 ^ 64 → memBytes t.mem (memKey ctx r.blockAddr) 64 = phaseBlock (t.b.ctx ctx) r s.b.tide.num) ∧
    (i = .firstLearnStart ctx → t.b.wins = s.b.wins) ∧
    (i = .phaseSwitchLearn ctx → (c.rec_.pds.flatMap fun d => (d.windows.filter (·.phaseReopen)).map (·.winId)).Nodup →
      ∀ w ∈ c.rec_.pds.flatMap (fun d => (d.windows.filter (·.phaseReopen)).map (·.winId)), t.b.winOf w = { s.b.winOf w with gen := nextGen (s.b.winOf w).gen, open_ := true }) ∧
    (∀ n, n ≠ ctx → (t.b.ctx n).phase = (s.b.ctx n).phase ∧ (t.b.ctx n).step = (s.b.ctx n).step)

/-- The end of LEARN and the swap (R36, R214, R215, R218, R221, R306, R326, R337): a context that is done enters the barrier of its phase group under the group's next number, unless
its last capture is not safe, which is reported once; two tides after the highest entry, with nothing due before it, the pair swaps, the new CURRENT buffer takes the step as its
version, GENERATE begins on it while work of the one before may remain, and the phase block is written. -/
def Obligations.Swap : Prop := ∀ (s : State) (ctx : Nat) (c : Ctx) (r : SchedRec) (g : GroupRec), c = s.b.ctx ctx → c.st = .active →
  (c.rec_.sched = some r → c.phase = .learn → c.barrier = false → c.learn = none → (s.b.workLeft ctx .learn fun _ => true) = false → (bufOf c (otherBuf c)).st = .building →
    (c.hrv.cap = none → s.b.groupOf r.phaseGroup = some g → s.b.findColl ctx r.phaseGroup (c.collSeq.get 0 r.phaseGroup) = none →
      ∃ t y, exec (.learnDone ctx) s = .next t ∧ t.mem = s.mem ∧ t.pending = s.pending ∧ (t.b.ctx ctx).barrier = true ∧
        (t.b.ctx ctx).collSeq = c.collSeq.set r.phaseGroup ((c.collSeq.get 0 r.phaseGroup + 1) % 2 ^ 23) ∧ t.b.colls = s.b.colls ++ [y] ∧ y.ctx = ctx ∧ y.group = r.phaseGroup ∧
        y.seq = c.collSeq.get 0 r.phaseGroup ∧ y.d.op = 7 ∧ y.st = .running ∧ y.entry.find (s.b.rankIn g) = some s.b.tide.num) ∧
    (∀ k, c.hrv.cap = some k → c.pairWaitRaised = false →
      ∃ t, exec (.learnDone ctx) s = .next t ∧ Becomes s t { s.b with ctxs := s.b.ctxs.set ctx { c with pairWaitRaised := true } })) ∧
  (∀ k, s.b.phaseColl ctx = some k → s.b.allIn k k.entry = true → s.b.due (topTide k.entry + 2) 0 = true → s.b.firstDue (topTide k.entry + 2) 0 rankSwap = true → (bufOf c (otherBuf c)).st = .building → (takeSched c).rec_.sched = some r →
    ctx ≠ moduleCtx →
    ∃ t, exec (.swap ctx) s = .next t ∧ t.pending = s.pending ∧ (t.b.ctx ctx).st = .active ∧ (t.b.ctx ctx).phase = .generate ∧ (t.b.ctx ctx).barrier = false ∧
      (t.b.ctx ctx).genEnd = s.b.tide.num + r.genTides ∧ (t.b.ctx ctx).step = c.step ∧
      bufOf (t.b.ctx ctx) (otherBuf c) = { st := .current, drained := false, ver := c.step % 2 ^ 48 } ∧
      bufOf (t.b.ctx ctx) (currentBuf c) = { bufOf c (currentBuf c) with st := if (bufOf c (currentBuf c)).st = .current then .previous else (bufOf c (currentBuf c)).st } ∧
      (∃ run, (t.b.ctx ctx).gen = some run ∧ run.pending = coresOf c ∧ run.startTide = s.b.tide.num ∧ run.bound = otherBuf c) ∧ (t.b.ctx ctx).genPrev = (c.gen <|> c.genPrev) ∧
      (r.blockAddr + 64 ≤ 2 ^ 64 → memBytes t.mem (memKey ctx r.blockAddr) 64 = phaseBlock (t.b.ctx ctx) r s.b.tide.num) ∧
      (∀ y ∈ t.b.colls, collIs y ctx k.group k.seq = true → y.st = .done))

/-- The weight pair and late phases (R215, R221, R227): a WAITING buffer that is drained and unreferred becomes BUILDING; one that has waited for a tide is reported once; a GENERATE
program that still runs at the end of its grace faults the context; a LEARN phase past its limit is reported once. -/
def Obligations.PairAndLimits : Prop := ∀ (s : State) (ctx : Nat) (c : Ctx), c = s.b.ctx ctx →
  (∃ t, exec (.pairBuilding ctx) s = .next t ∧ t.mem = s.mem ∧ t.pending = s.pending ∧ (∀ i, i < 2 →
    bufOf (t.b.ctx ctx) i = if (bufOf c i).st = .waiting ∧ (bufOf c i).drained = true ∧ s.b.referred ctx i = false then { bufOf c i with st := .building } else bufOf c i) ∧
    t.b.ctx ctx = { c with buf0 := (t.b.ctx ctx).buf0, buf1 := (t.b.ctx ctx).buf1 } ∧ (∀ n, n ≠ ctx → t.b.ctx n = s.b.ctx n) ∧ t.b = { s.b with ctxs := t.b.ctxs }) ∧
  (c.st = .active → (c.buf0.st = .waiting ∨ c.buf1.st = .waiting) → c.pairWaitRaised = false → 1 ≤ c.waitTides →
    ∃ t, exec (.pairWaitTimeout ctx) s = .next t ∧ Becomes s t { s.b with ctxs := s.b.ctxs.set ctx { c with pairWaitRaised := true } }) ∧
  (∀ r e p, c.rec_.sched = some r → c.st = .active → c.phase = .learn → c.genEnd ≠ 0 → s.b.due (c.genEnd + r.genGrace) 0 = true → e ∈ s.b.rk → e.2.prog = some p → p.ctx = ctx →
    p.phase = .generate → ∃ t, exec (.phaseOverrun ctx) s = .next t ∧ Faults s t ctx cPhaseOverrun hubPan noSeq false 0 0) ∧
  (∀ r, c.rec_.sched = some r → c.st = .active → c.phase = .learn → c.barrier = false → c.learnLate = false → r.learnLimit ≠ 0 → s.b.due (c.learnAt + r.learnLimit) 0 = true →
    ∃ t, exec (.learnLate ctx) s = .next t ∧ Becomes s t { s.b with ctxs := s.b.ctxs.set ctx { c with learnLate := true } })

/-- A phase switch and context memory (R223, R322): at the first LEARN, at a switch to LEARN and at a swap no byte changes but those of the context's phase block, and those of its
class H regions, where the capture at a swap may keep the block's granule as it was. -/
def Obligations.PhaseMemory : Prop := ∀ (s t : State) (ctx : Nat) (i : Instr), s.Inv → i ∈ [Instr.firstLearnStart ctx, .phaseSwitchLearn ctx, .swap ctx] → exec i s = .next t →
  ∀ k a, a < 2 ^ 64 → (∀ r, (t.b.ctx ctx).rec_.sched = some r → r.blockAddr % 2 ^ 64 + 64 ≤ 2 ^ 64 ∧ (k = ctx → a < r.blockAddr % 2 ^ 64 ∨ r.blockAddr % 2 ^ 64 + 64 ≤ a)) →
    (k = ctx → ∀ r ∈ (s.b.ctx ctx).rec_.regions, r.cls = 8 → ∀ g ∈ regionGrans r, a / granBytes ≠ g % 2 ^ 43) → memRead t.mem (memKey k a) = memRead s.mem (memKey k a)

/-- The first checks on a Skeyr packet (R249, R253, R254, R261, R280, R285): on a port that is not up nothing arrives; a packet that MACsec, the check of its address, its UDP fields
and its lengths, the peer, the CRC-32C or the header check turns away is dropped with its count; one for a context that is being or has been torn down is dropped and counted for
it. -/
def Obligations.SkeyrChecks : Prop := ∀ (s : State) (arr : Arrival) (p : Packet) (c : Instr) (typ : Nat),
  (c, typ) ∈ [(Instr.write arr p, tWrite), (.read arr p, tRead), (.readResp arr p, tReadResp), (.flush arr p, tFlush), (.flushAck arr p, tFlushAck), (.ack arr p, tAck),
    (.sack arr p, tSack), (.nak arr p, tNak), (.cancel arr p, tCancel), (.event arr p, tEvent), (.reduce arr p, tReduce), (.permuteSeg arr p, tPermute)] →
  p.h.typ = typ →
  ((s.b.portOf arr.port).st ≠ .up → exec c s = .next s) ∧
  ((s.b.portOf arr.port).st = .up → s.b.spare.displaced = false → s.b.running = true →
    ((s.b.portOf arr.port).cfg.macsec = true → arr.macsec = false →
      exec c s = .next (s.setB { s.b with ports := s.b.ports.set arr.port (if arr.unprot then { s.b.portOf arr.port with unprotDrop := satInc 16 (s.b.portOf arr.port).unprotDrop }
        else { s.b.portOf arr.port with icvFail := satInc 16 (s.b.portOf arr.port).icvFail }) })) ∧
    (((s.b.portOf arr.port).cfg.macsec = true → arr.macsec = true) → s.b.frameFits arr p = false →
      exec c s = .next (s.setB { s.b with ports := s.b.ports.set arr.port { s.b.portOf arr.port with badHdr := satInc 16 (s.b.portOf arr.port).badHdr } })) ∧
    (((s.b.portOf arr.port).cfg.macsec = true → arr.macsec = true) → s.b.frameFits arr p = true → arr.ce = false →
      (s.b.knownPeer arr.src = false → (s.b.portOf arr.port).unkUsed < s.b.cfg.mod.unkRate →
        exec c s = .next (s.setB { s.b with ports := s.b.ports.set arr.port { s.b.portOf arr.port with
          unknown := satInc 16 (s.b.portOf arr.port).unknown, unkUsed := (s.b.portOf arr.port).unkUsed + 1 } })) ∧
      (s.b.knownPeer arr.src = false → s.b.cfg.mod.unkRate ≤ (s.b.portOf arr.port).unkUsed →
        exec c s = .next (s.setB { s.b with ports := s.b.ports.set arr.port { s.b.portOf arr.port with
          unkDrop := satInc 16 (s.b.portOf arr.port).unkDrop, unkOver := satInc 32 (s.b.portOf arr.port).unkOver } })) ∧
      (s.b.knownPeer arr.src = true → crcFits arr p = false →
        exec c s = .next (s.setB { s.b with ports := s.b.ports.set arr.port { s.b.portOf arr.port with crcErr := satInc 16 (s.b.portOf arr.port).crcErr } })) ∧
      (s.b.knownPeer arr.src = true → crcFits arr p = true → s.b.tst.active = false → verFits arr = false ∨ lengthOk p.h = false →
        exec c s = .next (s.setB { s.b with ports := s.b.ports.set arr.port { s.b.portOf arr.port with badHdr := satInc 16 (s.b.portOf arr.port).badHdr } })) ∧
      (∀ x, s.b.knownPeer arr.src = true → crcFits arr p = true → s.b.tst.active = false → verFits arr = true → lengthOk p.h = true → s.b.rxStream p.h = some x → x.owner = some p.h.ctx →
        ((s.b.ctx p.h.ctx).st = .teardown ∨ (s.b.ctx p.h.ctx).st = .quarantine) → exec c s = .next (s.setB (s.b.lateDrop p.h.ctx)))))

/-- WRITE (R147, R148, R216, R227, R260 to R266): a new packet that the window and the pair admit is placed and its PSN marked, its message is complete or has a record, and an
asked-for acknowledgement leaves; one that meets two wrong symbols in a line it writes in part is not placed and faults the owner; a duplicate is acknowledged and placed no
second time; what a check refuses is answered with its NAK. -/
def Obligations.WriteArrival : Prop := ∀ (s : State) (arr : Arrival) (p : Packet) (x : RxStream) (n : Nat) (c : Nat) (w : WindowRec),
  Arrives s arr p x → p.h.typ = tWrite → n = p.h.stream → x.owner = some c →
  (s.b.psnRule (s.b.strmOf n) p.h = (.new, false) → s.b.step8 p.h = true → (x.pd.windows.find? fun w => w.winId = p.h.winId) = some w →
    ((s.b.winOf p.h.winId).open_ = true → p.h.winGen = (s.b.winOf p.h.winId).gen → w.wr = true → p.h.offset + p.h.length ≤ w.size →
      (pairOk (s.b.ctx c) true (w.base + p.h.offset) p.h.length = true → s.b.recFree p.h = true → s.canWrite c (w.base + p.h.offset) p.h.length = true →
        (s.b.ctx c).hrv.cap = none → arr.mem = none →
        ∃ t, exec (.write arr p) s = .next t ∧ t.pending = s.pending ∧ t.mem = memWriteBytes s.mem (memKey c (w.base + p.h.offset)) p.data ∧
          psnSeen (t.b.strmOf n) p.h.psn = true ∧ t.b.held = s.b.held ∧
          ((s.b.recs.find? fun r => r.stream = n && r.msgId = p.h.msgId) = none →
            t.b.recs = if p.h.length = p.h.msgLen then s.b.recs else s.b.recs ++ [{ stream := n, msgId := p.h.msgId, typ := tWrite, len := p.h.msgLen, firstAt := s.b.now, port := arr.port, bytes := p.h.length, pkts := [(p.h.psn, p.h.offset, p.h.length, p.h.solicit)] }]) ∧
          (p.h.solicit = true ∨ p.h.retx = true → MayAnswer s.b n → (s.b.strmOf n).flushes = [] → Answers s t n (ackOf t.b n p.h.ts ((s.b.strmOf n).ece || arr.ce)))) ∧
      (pairOk (s.b.ctx c) true (w.base + p.h.offset) p.h.length = false →
        ∃ t, exec (.write arr p) s = .next t ∧ Refuses s t n p.h rRefused 0 ∧ (t.b.ctx c).refused = satInc 8 (s.b.ctx c).refused) ∧
      (∀ f mc u v, arr.mem = some f → pairOk (s.b.ctx c) true (w.base + p.h.offset) p.h.length = true → s.b.recFree p.h = true → s.canWrite c (w.base + p.h.offset) p.h.length = true →
        s.b.accessMc (some c) (w.base + p.h.offset + f.off) = some mc → f.off < p.h.length → wrongNow (s.b.mcOf mc) f.line f.wrong = [u, v] → s.b.ueKills mc f.line = false →
        (w.base + p.h.offset ≤ (w.base + p.h.offset + f.off) / 64 * 64 → w.base + p.h.offset + p.h.length < (w.base + p.h.offset + f.off) / 64 * 64 + 64) →
        ∃ t, exec (.write arr p) s = .next t ∧ t.mem = s.mem ∧ t.pending = s.pending ∧ (t.b.ctx c).st = .teardown ∧ (t.b.ctx c).fault.cause = cMemUe ∧
          (t.b.strmOf n).e = (s.b.strmOf n).e ∧ (t.b.strmOf n).map = (s.b.strmOf n).map ∧ ((s.b.strmOf n).nakAt.find p.h.msgId = none → (t.b.strmOf n).nakAt.find p.h.msgId = some s.b.now)) ∧
      (pairOk (s.b.ctx c) true (w.base + p.h.offset) p.h.length = true → s.b.recFree p.h = false → ∃ t, exec (.write arr p) s = .next t ∧ Refuses s t n p.h rBusy 0)) ∧
    ((s.b.winOf p.h.winId).open_ = true → p.h.winGen = (s.b.winOf p.h.winId).gen → w.wr = true → w.size < p.h.offset + p.h.length →
      ∃ t, exec (.write arr p) s = .next t ∧ Refuses s t n p.h rBounds 0) ∧
    ((s.b.winOf p.h.winId).open_ = true → p.h.winGen = (s.b.winOf p.h.winId).gen → w.wr = false → ∃ t, exec (.write arr p) s = .next t ∧ Refuses s t n p.h rAccess 0) ∧
    ((s.b.winOf p.h.winId).open_ = true → p.h.winGen ≠ (s.b.winOf p.h.winId).gen → ∃ t, exec (.write arr p) s = .next t ∧ Refuses s t n p.h rGenStale (s.b.winOf p.h.winId).gen) ∧
    ((s.b.winOf p.h.winId).open_ = false → ∃ t, exec (.write arr p) s = .next t ∧ Refuses s t n p.h rWinClosed 0)) ∧
  (s.b.psnRule (s.b.strmOf n) p.h = (.new, false) → s.b.step8 p.h = false → ∃ t, exec (.write arr p) s = .next t ∧ Refuses s t n p.h rBounds 0) ∧
  (s.b.psnRule (s.b.strmOf n) p.h = (.tooFar, false) → ∃ t, exec (.write arr p) s = .next t ∧ Refuses s t n p.h rTooFar 0) ∧
  (s.b.psnRule (s.b.strmOf n) p.h = (.noStream, false) → ∃ t, exec (.write arr p) s = .next t ∧ Refuses s t n p.h rNoStream 0) ∧
  (s.b.psnRule (s.b.strmOf n) p.h = (.synWait, false) → ∃ t, exec (.write arr p) s = .next t ∧ Refuses s t n p.h rSynWait 0) ∧
  (s.b.psnRule (s.b.strmOf n) p.h = (.dup, false) → ∃ t, exec (.write arr p) s = .next t ∧ t.mem = s.mem ∧ t.pending = s.pending ∧ t.b.recs = s.b.recs ∧
    (t.b.strmOf n).map = (s.b.strmOf n).map ∧ (t.b.portOf arr.port).dupDrop = satInc 16 (s.b.portOf arr.port).dupDrop ∧
    (MayAnswer s.b n → Answers s t n (ackOf t.b n p.h.ts ((s.b.strmOf n).ece || arr.ce))))

/-- Step 7 of R261 (R262, R263): a stream that knows no peer refuses all but SYN; below E or already in the map a packet is a duplicate; 4,096 and more past E it is too far; a SYN sets
E where the stream knows no peer, or has heard nothing for MPL. -/
def Obligations.PsnRules : Prop := ∀ (s : State) (st : Strm) (h : SkyHdr),
  (h.syn = false → st.known = false → s.b.psnRule st h = (.noStream, false)) ∧
  (h.syn = false → st.known = true → h.psn < 2 ^ 32 → st.e < 2 ^ 32 →
    ((h.psn ∈ st.map ∨ 2 ^ 31 ≤ (h.psn + (2 ^ 32 - st.e)) % 2 ^ 32) → s.b.psnRule st h = (.dup, false)) ∧
    (h.psn ∉ st.map → 4096 ≤ (h.psn + (2 ^ 32 - st.e)) % 2 ^ 32 → (h.psn + (2 ^ 32 - st.e)) % 2 ^ 32 < 2 ^ 31 → s.b.psnRule st h = (.tooFar, false)) ∧
    (h.psn ∉ st.map → (h.psn + (2 ^ 32 - st.e)) % 2 ^ 32 < 4096 → s.b.psnRule st h = (.new, false))) ∧
  (h.syn = true → st.known = false → s.b.psnRule st h = (.new, true)) ∧
  (h.syn = true → st.known = true → psnSeen st h.psn = false →
    (∀ t, st.lastRx = some t → t + s.b.mpl ≤ s.b.now → s.b.psnRule st h = (.new, true)) ∧
    (∀ t, st.lastRx = some t → s.b.now < t + s.b.mpl → s.b.psnRule st h = (.synWait, false)))

/-- READ and READ_RESP (R148, R227, R255, R260, R261, R267, R276): a READ that the window and the pair admit is served with the bytes of its window, at most 64 at a time, one that
meets two wrong symbols faults the owner, and what a check refuses is answered with its NAK; a response that belongs to an incomplete READ is placed at its destination, the READ
is DONE once every byte is there, and any other response is dropped. -/
def Obligations.ReadArrival : Prop := ∀ (s : State) (arr : Arrival) (p : Packet) (x : RxStream) (n c : Nat) (w : WindowRec),
  Arrives s arr p x → n = p.h.stream → x.owner = some c →
  (p.h.typ = tRead → s.b.step8 p.h = true → (x.pd.windows.find? fun w => w.winId = p.h.winId) = some w →
    ((s.b.winOf p.h.winId).open_ = true → p.h.winGen = (s.b.winOf p.h.winId).gen → w.rd = true →
      (p.h.offset + p.h.msgLen ≤ w.size → pairOk (s.b.ctx c) false (w.base + p.h.offset) p.h.msgLen = true →
        (((s.b.strmOf n).serves.filter fun v => v.msgId ≠ p.h.msgId).length < 64 → arr.mem = none →
          ∃ t v, exec (.read arr p) s = .next t ∧ t.mem = s.mem ∧ t.pending = s.pending ∧ t.b.out = s.b.out ∧
            (t.b.strmOf n).serves = ((s.b.strmOf n).serves.filter fun v => v.msgId ≠ p.h.msgId) ++ [v] ∧
            v.msgId = p.h.msgId ∧ v.len = p.h.msgLen ∧ v.next = 0 ∧ v.data = s.viewBytes none c (w.base + p.h.offset) p.h.msgLen ∧ v.winId = p.h.winId ∧ v.winGen = p.h.winGen) ∧
        (∀ f mc u k, arr.mem = some f → ((s.b.strmOf n).serves.filter fun v => v.msgId ≠ p.h.msgId).length < 64 →
          s.b.accessMc (some c) (w.base + p.h.offset + f.off) = some mc → f.off < p.h.msgLen → wrongNow (s.b.mcOf mc) f.line f.wrong = [u, k] → s.b.ueKills mc f.line = false →
          ∃ t, exec (.read arr p) s = .next t ∧ t.mem = s.mem ∧ t.pending = s.pending ∧ (t.b.ctx c).st = .teardown ∧ (t.b.ctx c).fault.cause = cMemUe ∧
            (t.b.strmOf n).serves = (s.b.strmOf n).serves ∧ ((s.b.strmOf n).nakAt.find p.h.msgId = none → (t.b.strmOf n).nakAt.find p.h.msgId = some s.b.now)) ∧
        (64 ≤ ((s.b.strmOf n).serves.filter fun v => v.msgId ≠ p.h.msgId).length → ∃ t, exec (.read arr p) s = .next t ∧ Refuses s t n p.h rBusy 0)) ∧
      (w.size < p.h.offset + p.h.msgLen → ∃ t, exec (.read arr p) s = .next t ∧ Refuses s t n p.h rBounds 0) ∧
      (p.h.offset + p.h.msgLen ≤ w.size → pairOk (s.b.ctx c) false (w.base + p.h.offset) p.h.msgLen = false → ∃ t, exec (.read arr p) s = .next t ∧ Refuses s t n p.h rRefused 0)) ∧
    ((s.b.winOf p.h.winId).open_ = true → p.h.winGen = (s.b.winOf p.h.winId).gen → w.rd = false → ∃ t, exec (.read arr p) s = .next t ∧ Refuses s t n p.h rAccess 0) ∧
    ((s.b.winOf p.h.winId).open_ = true → p.h.winGen ≠ (s.b.winOf p.h.winId).gen → ∃ t, exec (.read arr p) s = .next t ∧ Refuses s t n p.h rGenStale (s.b.winOf p.h.winId).gen) ∧
    ((s.b.winOf p.h.winId).open_ = false → ∃ t, exec (.read arr p) s = .next t ∧ Refuses s t n p.h rWinClosed 0)) ∧
  (p.h.typ = tReadResp → ∀ m a, ((s.b.strmOf n).msgs.find? fun m => m.msgId = p.h.msgId && m.typ = tRead && m.status.isNone && m.firstAt.isSome) = some m → m.addr = some a →
    m.use_ ≠ .seal_ → p.h.msgLen = m.len → p.h.offset + p.h.length ≤ m.len → p.h.length ≠ 0 → gotUpTo m.got (m.got.length + 1) p.h.offset < p.h.offset + p.h.length →
    s.canWrite m.ctx (a + p.h.offset) p.h.length = true → (s.b.ctx m.ctx).hrv.cap = none → arr.mem = none →
    ∃ t, exec (.readResp arr p) s = .next t ∧ t.pending = s.pending ∧ t.mem = memWriteBytes s.mem (memKey m.ctx (a + p.h.offset)) p.data ∧
      (t.b.strmOf n).msgs = (s.b.strmOf n).msgs.map fun y => if y.msgId = m.msgId then { y with
        got := m.got ++ [(p.h.offset, p.h.length)]
        status := if m.len ≤ gotUpTo (m.got ++ [(p.h.offset, p.h.length)]) ((m.got ++ [(p.h.offset, p.h.length)]).length + 1) 0 then some (0, 0) else y.status } else y) ∧
  (p.h.typ = tReadResp → ((s.b.strmOf n).msgs.find? fun m => m.msgId = p.h.msgId && m.typ = tRead && m.status.isNone && m.firstAt.isSome) = none →
    ∃ t, exec (.readResp arr p) s = .next t ∧ t.mem = s.mem ∧ t.pending = s.pending ∧ (t.b.strmOf n).msgs = (s.b.strmOf n).msgs ∧
      (t.b.portOf arr.port).badAck = satInc 16 (s.b.portOf arr.port).badAck)

/-- FLUSH, CANCEL and EVENT (R241, R262, R268, R269): a FLUSH is marked and answered once everything below it is placed; a CANCEL marks its range received and discards the record of
its message; an EVENT for another stream's sink is delivered there, and one on its own sink stream is dropped and counted. -/
def Obligations.SequencedArrival : Prop := ∀ (s : State) (arr : Arrival) (p : Packet) (x : RxStream) (n c : Nat),
  Arrives s arr p x → n = p.h.stream → x.owner = some c → s.b.psnRule (s.b.strmOf n) p.h = (.new, false) → (s.b.strmOf n).flushes = [] →
  (p.h.typ = tFlush → p.h.psn = (s.b.strmOf n).e → p.h.psn < 2 ^ 32 → (s.b.strmOf n).map = [] → (s.b.strmOf n).unplaced = [] → p.h.solicit = false → p.h.retx = false →
    (s.b.strmOf n).unack < 15 → MayAnswer s.b n →
    ∃ t, exec (.flush arr p) s = .next t ∧ t.mem = s.mem ∧ t.pending = s.pending ∧ (t.b.strmOf n).e = psnAdd p.h.psn 1 ∧ (t.b.strmOf n).flushes = [] ∧
      Answers s t n { typ := tFlushAck, msgId := p.h.msgId, ts := p.h.ts }) ∧
  (p.h.typ = tFlush → p.h.psn ≠ (s.b.strmOf n).e → (s.b.strmOf n).e ∉ (s.b.strmOf n).map → p.h.psn < 2 ^ 32 →
    ∃ t, exec (.flush arr p) s = .next t ∧ t.mem = s.mem ∧ t.pending = s.pending ∧ (t.b.strmOf n).e = (s.b.strmOf n).e ∧ (t.b.strmOf n).flushes = [(p.h.psn, p.h.msgId)] ∧
      psnSeen (t.b.strmOf n) p.h.psn = true) ∧
  (p.h.typ = tCancel → ∀ first count, p.h.offset = first * 2 ^ 32 + count → first < 2 ^ 32 → count ≤ 4096 → count < 2 ^ 32 →
    ∃ t, exec (.cancel arr p) s = .next t ∧ t.mem = s.mem ∧ t.pending = s.pending ∧
      t.b.recs = (s.b.recs.filter fun r => r.stream ≠ n || !(r.pkts.any fun y => decide (psnSub y.1 first < count))) ∧
      ((s.b.strmOf n).e = first → (s.b.strmOf n).map = [] → count < 4096 → (t.b.strmOf n).e = (if p.h.psn = psnAdd first count then psnAdd first (count + 1) else psnAdd first count))) ∧
  (p.h.typ = tEvent → s.b.step8 p.h = true → (s.b.ctx c).rec_.sink = n → c ≠ moduleCtx →
    ∃ t, exec (.event arr p) s = .next t ∧ t.mem = s.mem ∧ t.pending = s.pending ∧ (t.b.ctx c).dropped = satInc 16 (s.b.ctx c).dropped ∧ t.b.arbs = s.b.arbs ∧
      psnSeen (t.b.strmOf n) p.h.psn = true) ∧
  (p.h.typ = tEvent → s.b.step8 p.h = true → (s.b.ctx c).rec_.sink ≠ n → c ≠ moduleCtx → s.b.sec.sinkUp = true → (recOfBytes p.data).sev = 3 ∨ (recOfBytes p.data).sev = 4 →
    (s.b.ctx c).ev.gap = false →
    ∃ t, exec (.event arr p) s = .next t ∧ t.mem = s.mem ∧ t.pending = s.pending ∧ psnSeen (t.b.strmOf n) p.h.psn = true ∧
      (t.b.arbOf .eventPath).waiting = (s.b.arbOf .eventPath).waiting ++ [{ cls := (s.b.ctx c).qos, ctx := c, cost := 1, what := .event (recOfBytes p.data) }]) ∧
  (p.h.typ = tEvent → s.b.step8 p.h = false → ∃ t, exec (.event arr p) s = .next t ∧ Refuses s t n p.h rBounds 0)

/-- Acknowledgements and NAKs (R263, R266, R268, R270, R271, R276, R312): an ACK or SACK frees the copies it names, and one that names nothing outstanding is only counted; a FLUSH_ACK
makes its FLUSH DONE, or PARTIAL where an earlier message failed; a NAK with a failing reason ends its message with that reason, one to be retried marks the packet, and NO_STREAM
ends what is outstanding and makes the direction wait for MPL. -/
def Obligations.AckArrival : Prop := ∀ (s : State) (arr : Arrival) (p : Packet) (x : RxStream) (n c : Nat) (st : Strm),
  Arrives s arr p x → n = p.h.stream → x.owner = some c → st = s.b.strmOf n →
  (∀ i typ, (i, typ) ∈ [(Instr.ack arr p, tAck), (.sack arr p, tSack)] → p.h.typ = typ →
    (st.pkts.filter (fun k => acks p.h k.psn) ≠ [] → (psnSub p.h.ackPsn st.psn = 0 ∨ 2 ^ 31 ≤ psnSub p.h.ackPsn st.psn) → p.h.sackBits = 0 → (∀ q ∈ st.unsent, acks p.h q = false) →
      ∃ t, exec i s = .next t ∧ t.mem = s.mem ∧ t.pending = s.pending ∧ (t.b.strmOf n).pkts = st.pkts.filter (fun k => !acks p.h k.psn) ∧ (t.b.strmOf n).unsent = st.unsent ∧
        (t.b.strmOf n).synced = (st.synced || st.synPsn.any (acks p.h)) ∧ (t.b.strmOf n).e = st.e ∧ (t.b.strmOf n).map = st.map) ∧
    (st.pkts = [] → st.msgs = [] →
      ∃ t, exec i s = .next t ∧ t.mem = s.mem ∧ t.pending = s.pending ∧ (t.b.portOf arr.port).badAck = satInc 16 (s.b.portOf arr.port).badAck ∧ (t.b.strmOf n).pkts = [])) ∧
  (p.h.typ = tFlushAck → ∀ m, (st.msgs.find? fun m => m.msgId = p.h.msgId && m.typ = tFlush && m.status.isNone && m.firstAt.isSome) = some m → (∀ a b, m.use_ ≠ .harvest a b) →
    ∃ t, exec (.flushAck arr p) s = .next t ∧ t.mem = s.mem ∧ t.pending = s.pending ∧ (t.b.strmOf n).pkts = (st.pkts.filter fun k => !msgHas m k.psn) ∧
      (t.b.strmOf n).msgs = st.msgs.map fun y => if y.msgId = m.msgId then { y with
        status := some (if (match st.firstFail with | some f => decide (2 ^ 31 ≤ psnSub f m.msgId) | none => false) then 2 else 0, 0)
        acked := true } else y) ∧
  (p.h.typ = tNak → ∀ m k, (st.pkts.find? fun k => k.psn = p.h.psn && k.msgId = p.h.msgId) = some k → (st.msgs.find? fun m => m.msgId = p.h.msgId) = some m →
    (1 ≤ p.h.reason → p.h.reason ≤ 6 → (∃ core ph bd, m.use_ = .program core ph bd) → m.status = none → m.typ ≠ tCancel →
      ∃ t, exec (.nak arr p) s = .next t ∧ t.mem = s.mem ∧ t.pending = s.pending ∧ (t.b.portOf arr.port).nakRx = satInc 16 (s.b.portOf arr.port).nakRx ∧
        (∀ y ∈ (t.b.strmOf n).pkts, msgHas m y.psn = false) ∧
        ∃ y ∈ (t.b.strmOf n).msgs, y.msgId = m.msgId ∧ y.status = some (0x100 + p.h.reason, p.h.info) ∧ y.failed = true) ∧
    (8 ≤ p.h.reason → p.h.reason ≤ 10 →
      ∃ t, exec (.nak arr p) s = .next t ∧ t.mem = s.mem ∧ t.pending = s.pending ∧
        (t.b.strmOf n).msgs = st.msgs.map (fun y => if y.msgId = m.msgId then (if y.typ = tRead then { y with retry := true } else y) else y) ∧
        (t.b.strmOf n).pkts = st.pkts.map fun y => if y.psn = p.h.psn && y.msgId = p.h.msgId then { y with retry := true } else y) ∧
    (p.h.reason = rNoStream → (∀ y ∈ st.msgs, y.typ ≠ tCancel ∧ ∃ core ph bd, y.use_ = .program core ph bd) →
      ∃ t, exec (.nak arr p) s = .next t ∧ t.mem = s.mem ∧ t.pending = s.pending ∧ (t.b.strmOf n).resyncAt = some (s.b.now + s.b.mpl) ∧ (t.b.strmOf n).synced = false ∧
        (t.b.strmOf n).synPsn = none ∧ ∀ y ∈ (t.b.strmOf n).msgs, y.status ≠ none)) ∧
  (p.h.typ = tNak → ∀ m, (st.pkts.find? fun k => k.psn = p.h.psn && k.msgId = p.h.msgId) = none → p.h.psn = 0 →
    (st.msgs.find? fun m => m.msgId = p.h.msgId) = some m → m.typ = tRead → m.status = none → m.firstAt ≠ none → 8 ≤ p.h.reason → p.h.reason ≤ 10 →
    ∃ t, exec (.nak arr p) s = .next t ∧ t.mem = s.mem ∧ t.pending = s.pending ∧ (t.b.strmOf n).pkts = st.pkts ∧
      (t.b.strmOf n).msgs = st.msgs.map fun y => if y.msgId = m.msgId then (if y.typ = tRead then { y with retry := true } else y) else y) ∧
  (p.h.typ = tNak → st.pkts = [] → (∀ m ∈ st.msgs, m.typ ≠ tRead) →
    ∃ t, exec (.nak arr p) s = .next t ∧ t.mem = s.mem ∧ t.pending = s.pending ∧ (t.b.strmOf n).msgs = st.msgs ∧
      (t.b.portOf arr.port).badAck = satInc 16 (s.b.portOf arr.port).badAck)

/-- Transmission (R241, R243, R253 to R255, R262 to R267, R270, R272): the next new packet of a stream, an event record of severity 3 or 4 before any other, leaves on its path with
its message's header and bytes and is kept for retransmission, and a WRITE whose last packet has left is DONE; with none to send a READ leaves, and then the next response of a
READ being served; while a SYN is unacknowledged or the direction waits to synchronise nothing leaves. -/
def Obligations.Transmission : Prop := ∀ (s : State) (n q : Nat) (m : OutMsg) (path : Nat × Nat) (st : Strm) (d : Option Nat × PdRec × StreamRec),
  st = s.b.strmOf n → s.b.findStream n = some d → s.b.spare.displaced = false →
  (st.synPsn ≠ none ∨ st.resyncAt ≠ none → exec (.skyPacketTx n) s = .next s) ∧
  (st.synPsn = none → st.resyncAt = none → (∀ i, (s.b.portOf i).ctl = []) → s.b.Near path.1 (s.b.peerAddr n) →
    (∀ data, nextNew st = some (q, m) → choosePath st (s.b.paths n (s.b.maskOf n m)) none = some path →
      (s.b.cwndTick n).newFits ((s.b.cwndTick n).strmOf n) q m path.1 = true → data = (if m.typ = tFlush ∨ m.typ = tCancel then [] else s.pktBytes m (psnSub q m.psn)) →
      ∃ t k, exec (.skyPacketTx n) s = .next t ∧ t.mem = s.mem ∧ t.pending = s.pending ∧ (t.b.strmOf n).unsent = st.unsent.filter (· ≠ q) ∧ (t.b.strmOf n).pkts = st.pkts ++ [k] ∧
        k.psn = q ∧ k.msgId = m.msgId ∧ k.path = path ∧ k.firstAt = s.b.now ∧ k.pkt.data = data ∧ k.pkt.dst = m.dst + 4096 * psnSub q m.psn ∧
        k.pkt.h = s.b.peerHdr n (pktHdr m (psnSub q m.psn) data.length (!st.synced) s.b.now) ∧
        t.b.out = .sky path.1 (s.b.wire n path k.pkt) :: s.b.out ∧
        (t.b.strmOf n).synPsn = (if st.synced then none else some q) ∧
        (m.typ = tWrite → m.status = none → (∀ y ∈ st.unsent, y ≠ q → msgHas m y = false) → ∃ y ∈ (t.b.strmOf n).msgs, y.msgId = m.msgId ∧ y.status = some (0, 0))) ∧
    ((s.b.cwndTick n).newReady n = none → nextRead st = some m → choosePath st (s.b.paths n (s.b.maskOf n m)) none = some path →
      ∃ t, exec (.skyPacketTx n) s = .next t ∧ t.mem = s.mem ∧ t.pending = s.pending ∧
        t.b.out = .sky path.1 (s.b.wire n path { h := s.b.peerHdr n { typ := tRead, winId := m.winId, winGen := m.winGen, msgId := m.msgId, msgLen := m.len, offset := m.off, ts := s.b.now % 2 ^ 32 } }) :: s.b.out ∧
        (t.b.strmOf n).msgs = st.msgs.map fun y => if y.msgId = m.msgId then { y with firstAt := y.firstAt <|> some s.b.now, lastAt := s.b.now, port := path.1, retry := false } else y) ∧
    (∀ v rest, (s.b.cwndTick n).newReady n = none → nextRead st = none → st.serves = v :: rest → choosePath st (s.b.paths n 0x7F) none = some path →
      ∃ t, exec (.skyPacketTx n) s = .next t ∧ t.mem = s.mem ∧ t.pending = s.pending ∧
        t.b.out = .sky path.1 (s.b.wire n path { h := s.b.peerHdr n { typ := tReadResp, length := ((v.data.drop v.next).take 4096).length, msgId := v.msgId, msgLen := v.len, offset := v.next, ts := s.b.now % 2 ^ 32 }, data := (v.data.drop v.next).take 4096 }) :: s.b.out))

/-- Skeyr's timers (R263, R265, R267, R268, R270, R271, R273): an acknowledgement owed for 2 µs leaves; a packet not acknowledged within its RTO is resent with its RTO doubled, to 1
ms at most; MPL after its first transmission its message ends TIMEOUT; an incomplete READ is reissued after 2 RTO, or RTO where it was refused with a retry reason, and an
unanswered FLUSH resent, until MPL; an inbound record goes after 2 MPL; a lost direction may send again, beginning with SYN, after MPL. -/
def Claims.SkeyrTimers : Prop := ∀ (s : State) (n psn : Nat) (m : OutMsg) (k : OutPkt) (st : Strm), st = s.b.strmOf n →
  (∀ u, st.unackAt = some u → 0 < st.unack → u + 2000 ≤ s.b.now → MayAnswer s.b n →
    ∃ t, exec (.ackTimer n) s = .next t ∧ t.mem = s.mem ∧ t.pending = s.pending ∧ (t.b.strmOf n).unack = 0 ∧ (t.b.strmOf n).unackAt = none ∧ Answers s t n (ackOf s.b n st.ackTs st.ece)) ∧
  ((st.pkts.find? fun k => k.psn = psn) = some k → s.b.past k.lastAt k.rto = true → s.b.past k.firstAt s.b.mpl = false →
    (∀ i, (s.b.portOf i).ctl = []) → s.b.spare.displaced = false → (st.msgs.find? fun y => y.msgId = k.msgId) = some m → s.b.paths n (s.b.maskOf n m) ≠ [] → (∀ y ∈ s.b.paths n (s.b.maskOf n m), s.b.Near y.1 (s.b.peerAddr n)) →
    ∃ t path, exec (.rtoExpiry n psn) s = .next t ∧ t.mem = s.mem ∧ t.pending = s.pending ∧ path ∈ s.b.paths n (s.b.maskOf n m) ∧
      ((∃ y ∈ s.b.paths n (s.b.maskOf n m), y ≠ k.path) → path ≠ k.path) ∧
      t.b.out = .sky path.1 (s.b.wire n path { k.pkt with h := { k.pkt.h with retx := true, ts := s.b.now % 2 ^ 32 } }) :: s.b.out ∧
      (t.b.strmOf n).pkts = st.pkts.map (fun y => if y.psn = psn then { k with
        pkt := { k.pkt with h := { k.pkt.h with retx := true, ts := s.b.now % 2 ^ 32 } }
        lastAt := s.b.now
        rto := min 1000000 (2 * k.rto)
        path := path
        retry := false } else y) ∧
      (t.b.portOf path.1).retx = satInc 32 (s.b.portOf path.1).retx) ∧
  ((st.pkts.find? fun k => k.psn = psn) = some k → (st.msgs.find? fun y => y.msgId = k.msgId) = some m → s.b.past k.firstAt s.b.mpl = true →
    (∃ core ph bd, m.use_ = .program core ph bd) → m.typ ≠ tCancel → m.status = none →
    ∃ t, exec (.giveUp n psn) s = .next t ∧ t.mem = s.mem ∧ t.pending = s.pending ∧ (∀ y ∈ (t.b.strmOf n).pkts, msgHas m y.psn = false) ∧
      ∃ y ∈ (t.b.strmOf n).msgs, y.msgId = m.msgId ∧ y.status = some (1, 0) ∧ y.failed = true) ∧
  (∀ id f, (st.msgs.find? fun m => m.msgId = id && m.typ = tRead && m.status.isNone) = some m → m.firstAt = some f → (∃ core ph bd, m.use_ = .program core ph bd) →
    (s.b.past f s.b.mpl = true → ∃ t, exec (.readReissue n id) s = .next t ∧ t.mem = s.mem ∧ t.pending = s.pending ∧ ∃ y ∈ (t.b.strmOf n).msgs, y.msgId = id ∧ y.status = some (1, 0)) ∧
    (s.b.past f s.b.mpl = false → s.b.past m.lastAt (if m.retry then s.b.rtoOf st else 2 * s.b.rtoOf st) = true → st.resyncAt = none → st.synPsn = none → (∀ i, (s.b.portOf i).ctl = []) → s.b.spare.displaced = false →
      ∀ path, choosePath st (s.b.paths n (s.b.maskOf n m)) none = some path → s.b.Near path.1 (s.b.peerAddr n) →
      ∃ t, exec (.readReissue n id) s = .next t ∧ t.mem = s.mem ∧ t.pending = s.pending ∧ t.b.out = .sky path.1 (s.b.wire n path { h := s.b.peerHdr n { typ := tRead, retx := true, winId := m.winId, winGen := m.winGen, msgId := m.msgId, msgLen := m.len, offset := m.off, ts := s.b.now % 2 ^ 32 } }) :: s.b.out)) ∧
  (∀ id, (st.msgs.find? fun m => m.msgId = id && m.typ = tFlush && m.status.isNone && m.acked) = some m → (∃ core ph bd, m.use_ = .program core ph bd) →
    (s.b.past (m.firstAt.getD m.issuedAt) s.b.mpl = true →
      ∃ t, exec (.flushResend n id) s = .next t ∧ t.mem = s.mem ∧ t.pending = s.pending ∧ ∃ y ∈ (t.b.strmOf n).msgs, y.msgId = id ∧ y.status = some (1, 0)) ∧
    (s.b.past (m.firstAt.getD m.issuedAt) s.b.mpl = false → s.b.past m.lastAt (s.b.rtoOf st) = true → st.resyncAt = none → st.synPsn = none → (∀ i, (s.b.portOf i).ctl = []) → s.b.spare.displaced = false →
      ∀ path, choosePath st (s.b.paths n (s.b.maskOf n m)) none = some path → s.b.Near path.1 (s.b.peerAddr n) →
      ∃ t, exec (.flushResend n id) s = .next t ∧ t.mem = s.mem ∧ t.pending = s.pending ∧
        t.b.out = .sky path.1 (s.b.wire n path { h := s.b.peerHdr n { pktHdr m 0 0 false s.b.now with retx := true } }) :: s.b.out)) ∧
  (∀ id r, (s.b.recs.find? fun r => r.stream = n && r.msgId = id) = some r → r.firstAt + 2 * s.b.mpl ≤ s.b.now →
    exec (.recordExpiry n id) s = .next (s.setB { s.b with
      recs := s.b.recs.filter fun x => x.stream ≠ n || x.msgId ≠ id
      ports := s.b.ports.set r.port { s.b.portOf r.port with recExpired := satInc 16 (s.b.portOf r.port).recExpired } })) ∧
  (∀ u, st.resyncAt = some u → u ≤ s.b.now → exec (.resyncWaitEnd n) s = .next (s.setB { s.b with strm := s.b.strm.set n { st with resyncAt := none, synced := false, synPsn := none } }))

/-- Packets that waited (R266, R279, R409, R410): a WRITE in the hold buffer is placed once its range takes writes, and its PSN counts as placed; a packet that injection held passes
the checks at its own time, and the last one to be released ends an injection that is being stopped. -/
def Claims.HeldPackets : Prop := ∀ (s : State) (die : Nat) (x : Held) (rx : RxStream) (c : Nat) (w : WindowRec) (y : TstHold),
  (s.b.held = [x] → x.die = die → x.pkt.h.typ = tWrite → s.b.rxStream x.pkt.h = some rx → rx.owner = some c → (rx.pd.windows.find? fun w => w.winId = x.pkt.h.winId) = some w →
    s.canWrite c (w.base + x.pkt.h.offset) x.pkt.h.length = true → (s.b.ctx c).hrv.cap = none → x.arr.mem = none →
    ∃ t, exec (.holdBufferPlace die) s = .next t ∧ t.pending = s.pending ∧ t.mem = memWriteBytes s.mem (memKey c (w.base + x.pkt.h.offset)) x.pkt.data ∧ t.b.held = [] ∧
      x.pkt.h.psn ∉ (t.b.strmOf x.pkt.h.stream).unplaced) ∧
  (s.b.held = [x] → x.die = die → x.pkt.h.typ = tWrite → s.b.rxStream x.pkt.h = some rx → rx.owner = some c → (rx.pd.windows.find? fun w => w.winId = x.pkt.h.winId) = some w →
    s.canWrite c (w.base + x.pkt.h.offset) x.pkt.h.length = false → exec (.holdBufferPlace die) s = .next s) ∧
  (s.b.tst.held = [y] → y.at_ ≤ s.b.now → s.b.tst.stopping = false →
    ((s.b.portOf y.arr.port).st = .up → s.b.spare.displaced = false → s.b.running = true →
      ∃ u, u = (s.setB { s.b with tst := { s.b.tst with held := [] } }).rxChecks y.arr y.pkt ∧
        exec .reorderRelease s = .next (if u.b.tst.stopping && u.b.tst.held.isEmpty then u.setB u.b.tstOff else u)) ∧
    ((s.b.portOf y.arr.port).st ≠ .up → exec .reorderRelease s = .next (s.setB { s.b with tst := { s.b.tst with held := [] } }))) ∧
  (s.b.tst.held = [y] → y.at_ ≤ s.b.now → s.b.tst.stopping = true → (s.b.portOf y.arr.port).st ≠ .up →
    ∃ t, exec .reorderRelease s = .next t ∧ Becomes s t { s.b with tst := { s.b.tst with held := [], active := false, stopping := false } })

/-- Skeyr timers and held packets: the claims above it, together. -/
def Obligations.SkeyrTimes : Prop := Claims.SkeyrTimers ∧ Claims.HeldPackets

/-- Shards (R300, R301, R303, R312): a data segment of a running collective that lies within its extent is taken, and goes to memory at once where its collective places it; one whose
sender contributes another total aborts the collective; one beyond the extent, of an older epoch or from no member is refused; one that comes before its collective runs is held in
staging, or answered BUSY where staging is full. -/
def Obligations.ShardArrival : Prop := ∀ (s : State) (arr : Arrival) (p : Packet) (x : RxStream) (c : Nat) (k : Coll) (g : GroupRec) (rank : Nat) (i : Instr) (typ n : Nat) (sh : Shard),
  (i, typ) ∈ [(Instr.reduce arr p, tReduce), (.permuteSeg arr p, tPermute)] → p.h.typ = typ → bitAt p.h.offset 63 = false → sh = shardOf rank p → n = p.h.stream →
  (CollArrives s arr p x c k g rank →
    (k.st = .running → s.b.mismatch k rank p.h.msgLen = false →
      (s.b.shardExtent k sh p.h.msgLen = true →
        (∀ a, s.b.shardDst k rank sh.off sh.dst = some a → access (s.b.ctx c) k.who true a p.h.length = .ok ∧ s.canWrite c a p.h.length = true) → (∀ y ∈ k.got, y.rank = rank → y.off ≠ sh.off) → arr.mem = none →
        ∃ t y, exec i s = .next t ∧ t.pending = s.pending ∧ psnSeen (t.b.strmOf n) p.h.psn = true ∧ t.b.findColl c k.group k.seq = some y ∧ y.got = k.got ++ [sh] ∧ y.d = k.d ∧
          (∀ a, (k.d.op = 3 ∨ k.d.op = 4 ∨ k.d.op = 5 ∨ k.d.op = 6) → s.b.shardDst k rank sh.off sh.dst = some a → (s.b.ctx c).hrv.cap = none →
            t.mem = memWriteBytes s.mem (memKey c a) p.data)) ∧
      (s.b.shardExtent k sh p.h.msgLen = false → ∃ t, exec i s = .next t ∧ Refuses s t n p.h rBounds 0)) ∧
    ((k.st = .running ∨ k.st = .done) → s.b.mismatch k rank p.h.msgLen = true →
      ∃ t y, exec i s = .next t ∧ t.mem = s.mem ∧ t.pending = s.pending ∧ (t.b.ctx c).st = .teardown ∧ (t.b.ctx c).fault.cause = cGrpAbort ∧
        t.b.findColl c k.group k.seq = some y ∧ y.st = .aborted ∧ y.reason = 8) ∧
    ((k.st = .waiting ∨ k.st = .held ∨ k.st = .requested ∨ k.st = .reported) →
      (s.b.stagingUsed (homeDie n) + p.data.length ≤ 64 * 2 ^ 20 →
        ∃ t, exec i s = .next t ∧ t.mem = s.mem ∧ t.pending = s.pending ∧ t.b.colls = s.b.colls ∧ psnSeen (t.b.strmOf n) p.h.psn = true ∧
          t.b.heldShards = s.b.heldShards ++ [{ die := homeDie n, arr := arr, pkt := p }]) ∧
      (64 * 2 ^ 20 < s.b.stagingUsed (homeDie n) + p.data.length →
        ∃ t, exec i s = .next t ∧ Refuses s t n p.h rBusy 0 ∧ (t.b.ceOf (4 * (homeDie n - dLD0))).heldBusy = satInc 16 (s.b.ceOf (4 * (homeDie n - dLD0))).heldBusy))) ∧
  (Arrives s arr p x → x.owner = some c → s.b.psnRule (s.b.strmOf n) p.h = (.new, false) → s.b.findColl c p.h.winId (bits p.h.offset 40 23) = none → s.b.step8 p.h = true →
    (s.b.groupOf p.h.winId = none → ∃ t, exec i s = .next t ∧ Refuses s t n p.h rWinClosed 0) ∧
    (s.b.groupOf p.h.winId = some g → (∀ m ∈ g.members, m.addr ≠ arr.src) → ∃ t, exec i s = .next t ∧ Refuses s t n p.h rWinClosed 0) ∧
    (s.b.groupOf p.h.winId = some g → (∃ m ∈ g.members, m.addr = arr.src) → s.b.spare.groupsLeft = false → epochBelow (s.b.ctx c).epoch p.h.winGen = true →
      ∃ t, exec i s = .next t ∧ Refuses s t n p.h rGenStale ((s.b.ctx c).epoch % 2 ^ 16)) ∧
    (s.b.groupOf p.h.winId = some g → (∃ m ∈ g.members, m.addr = arr.src) → s.b.spare.groupsLeft = false → epochBelow (s.b.ctx c).epoch p.h.winGen = false →
      seqAhead (s.b.ctx c) p.h.winId (bits p.h.offset 40 23) = true → s.b.recFree p.h = true → s.b.stagingUsed (homeDie n) + p.data.length ≤ 64 * 2 ^ 20 →
      ∃ t, exec i s = .next t ∧ t.mem = s.mem ∧ t.pending = s.pending ∧ t.b.heldShards = s.b.heldShards ++ [{ die := homeDie n, arr := arr, pkt := p }]))

/-- Control records (R301, R306, R308, R309, R312, R329): ENTRY and REPORT give the sender's tide, and the last one of a barrier or a permutation, where it comes after the instant
that all of them set, aborts it with reason 3; ABORT aborts the collective and faults the context, CREDIT adds to the producer's queue and lets a QSEND that waits for it go,
REREQ has the wanted part of a kept shard sent again, RESTORE and READY give the sender's step and tide of a restore. -/
def Obligations.ControlRecords : Prop := ∀ (s : State) (arr : Arrival) (p : Packet) (x : RxStream) (c : Nat) (k : Coll) (g : GroupRec) (rank : Nat) (r : CtlRec),
  r = ctlOfBytes p.data → bitAt p.h.offset 63 = true →
  (CollArrives s arr p x c k g rank →
    (r.kind = 1 → k.st = .running → (k.d.op = 7 → s.b.allIn k (k.entry.set rank r.tide) = true → s.b.due (topTide (k.entry.set rank r.tide) + 2) 1 = false) → ∃ t y, exec (.entry arr p) s = .next t ∧ t.mem = s.mem ∧ t.pending = s.pending ∧ psnSeen (t.b.strmOf p.h.stream) p.h.psn = true ∧
      t.b.findColl c k.group k.seq = some y ∧ y.entry = k.entry.set rank r.tide ∧ y.st = .running) ∧
    (r.kind = 1 → k.d.op = 7 → k.st = .running → s.b.allIn k (k.entry.set rank r.tide) = true → s.b.due (topTide (k.entry.set rank r.tide) + 2) 1 = true →
      ∃ t y, exec (.entry arr p) s = .next t ∧ t.mem = s.mem ∧ t.pending = s.pending ∧ (t.b.ctx c).st = .teardown ∧ (t.b.ctx c).fault.cause = cGrpAbort ∧
        t.b.findColl c k.group k.seq = some y ∧ y.st = .aborted ∧ y.reason = 3) ∧
    (r.kind = 2 → k.d.op = 6 → k.st = .reported → s.b.allIn k (k.report.set rank r.tide) = true → s.b.due (topTide (k.report.set rank r.tide) + 2) 1 = true →
      ∃ t y, exec (.report arr p) s = .next t ∧ t.mem = s.mem ∧ t.pending = s.pending ∧ (t.b.ctx c).st = .teardown ∧ (t.b.ctx c).fault.cause = cGrpAbort ∧
        t.b.findColl c k.group k.seq = some y ∧ y.st = .aborted ∧ y.reason = 3) ∧
    (r.kind = 2 → k.d.op = 6 → (k.st = .reported → s.b.allIn k (k.report.set rank r.tide) = true → s.b.due (topTide (k.report.set rank r.tide) + 2) 1 = false) → ∃ t y, exec (.report arr p) s = .next t ∧ t.mem = s.mem ∧ t.pending = s.pending ∧ psnSeen (t.b.strmOf p.h.stream) p.h.psn = true ∧
      t.b.findColl c k.group k.seq = some y ∧ y.report = k.report.set rank r.tide ∧ y.st = k.st) ∧
    (r.kind = 3 → k.st ≠ .aborted → ∃ t y, exec (.abort arr p) s = .next t ∧ t.mem = s.mem ∧ t.pending = s.pending ∧ (t.b.ctx c).st = .teardown ∧ (t.b.ctx c).fault.cause = cGrpAbort ∧
      t.b.findColl c k.group k.seq = some y ∧ y.st = .aborted ∧ y.reason = 4) ∧
    (r.kind = 4 → (∀ y ∈ s.b.colls, y.ctx = c → y.d.op = 8 → y.d.queue = k.d.queue → y.sent = true) →
      ∃ t, exec (.credit arr p) s = .next t ∧ t.mem = s.mem ∧ t.pending = s.pending ∧
        ((t.b.ctx c).queues.get {} k.d.queue).credits = ((s.b.ctx c).queues.get {} k.d.queue).credits + r.credits) ∧
    (r.kind = 4 → 1 ≤ r.credits → s.b.colls = [k] → k.d.op = 8 → k.st = .running → k.sent = false → k.waitAt = none →
      ∃ t y, exec (.credit arr p) s = .next t ∧ t.mem = s.mem ∧ t.pending = s.pending ∧ t.b.findColl c k.group k.seq = some y ∧ y.sent = true ∧
        ((t.b.ctx c).queues.get {} k.d.queue).credits = ((s.b.ctx c).queues.get {} k.d.queue).credits + r.credits - 1) ∧
    (∀ z m n, r.kind = 5 → k.kept = [z] → z.rank = rank → r.value < z.off + z.bytes.length → z.off < r.value + r.len → g.members[rank]? = some m → s.b.memberStream c m = some n →
      ∃ t y, exec (.rereq arr p) s = .next t ∧ t.mem = s.mem ∧ t.pending = s.pending ∧ (t.b.strmOf n).msgs = (s.b.strmOf n).msgs ++ [y] ∧
        y.data = (z.bytes.drop (max r.value z.off - z.off)).take (r.value + r.len - max r.value z.off) ∧ y.off = k.seq * 2 ^ 40 + max r.value z.off % 2 ^ 40 ∧
        y.dst = z.dst + (max r.value z.off - z.off) ∧
        y.typ = if collReduces k then tReduce else tPermute)) ∧
  (Arrives s arr p x → (p.h.typ = tReduce ∨ p.h.typ = tPermute) → x.owner = some c → s.b.psnRule (s.b.strmOf p.h.stream) p.h = (.new, false) → bits p.h.offset 40 23 = seqRestore →
    s.b.findColl c p.h.winId seqRestore = none → s.b.step8 p.h = true → s.b.groupOf p.h.winId = some g →
    (g.members.findIdx fun m => m.addr = arr.src) = rank → rank < g.members.length → s.b.spare.groupsLeft = false →
    (r.kind = 6 → ∃ t, exec (.restore arr p) s = .next t ∧ t.mem = s.mem ∧ t.pending = s.pending ∧ (t.b.ctx c).st = (s.b.ctx c).st ∧
      (t.b.ctx c).hrv.ms = (s.b.ctx c).hrv.ms.set rank (if r.value = noneStep then none else some r.value)) ∧
    (r.kind = 7 → ∃ t, exec (.ready arr p) s = .next t ∧ t.mem = s.mem ∧ t.pending = s.pending ∧ (t.b.ctx c).st = (s.b.ctx c).st ∧
      (t.b.ctx c).hrv.ready = (s.b.ctx c).hrv.ready.set rank r.tide))

/-- The start of a collective (R300 to R303, R306, R308, R309, R311): an idle engine takes the collective that the arbiter grants, or a permutation two tides after its last report,
and runs it; the pieces it owes go to their members and are kept, a barrier's ENTRY gives this member's tide, and a gathering collective's own block is placed. -/
def Claims.CollectiveStart : Prop := ∀ (s : State) (e ctx group seq : Nat) (k : Coll) (i : Instr),
  s.b.findColl ctx group seq = some k → k.d.op ≤ 9 → s.b.heldData k = [] → s.ownReady k = true → (s.b.ctx ctx).hrv.cap = none → s.b.collMe k < s.b.collN k →
  (k.d.op ≠ 6 → k.st = .waiting ∧ i = .collectiveStart e ∧ e < 8 ∧ s.b.ceFree e = true ∧
    (∃ r a, arbGrant false s.b.cfg.qos.weight (s.b.arbOf (.colls (dLD0 + e / 4))) ((s.b.arbOf (.colls (dLD0 + e / 4))).waiting.filter fun r => match r.what with
      | .coll c g q => (match s.b.findColl c g q with | some k => k.st = .waiting && s.ownReady k | none => false)
      | _ => false) = (some r, a) ∧ r.what = .coll ctx group seq)) →
  (k.d.op = 6 → k.st = .reported ∧ i = .permuteStart ctx group seq ∧ s.b.due (topTide k.report + 2) 0 = true ∧ s.b.allIn k k.report = true ∧ (k.die = dLD0 ∨ k.die = dLD1) ∧
    (s.b.arbOf (.colls k.die)).waiting = [] ∧ (s.b.ctx ctx).qos < 8 ∧ (((List.range 4).map fun i => 4 * (k.die - dLD0) + i).find? s.b.ceFree) = some e) →
  (∃ t y, exec i s = .next t ∧ t.pending = s.pending ∧ t.b.findColl ctx group seq = some y ∧ y.st = .running ∧ y.engine = some e ∧ y.d = k.d ∧ (t.b.ctx ctx).st = (s.b.ctx ctx).st ∧
    (∀ x ∈ s.startShards k, x.rank = s.b.collMe k → x ∈ y.kept) ∧
    (∀ x ∈ s.startShards k, x.rank ≠ s.b.collMe k → ∀ p ∈ pieces x, p ∈ y.kept ∧
      ∀ g m n, s.b.collGroup k = some g → g.members[x.rank]? = some m → s.b.memberStream ctx m = some n →
        ∃ o ∈ (t.b.strmOf n).msgs, o.typ = (if collReduces k then tReduce else tPermute) ∧ o.winId = group ∧ o.winGen = k.d.epoch % 2 ^ 16 ∧ o.data = p.bytes ∧
          o.off = seq * 2 ^ 40 + p.off % 2 ^ 40 ∧ o.dst = p.dst ∧ o.total = some (s.contribution k % 2 ^ 32)) ∧
    (k.d.op = 7 → y.entry.find (s.b.collMe k) = some s.b.tide.num ∧ t.mem = s.mem) ∧
    (k.d.op = 3 ∨ k.d.op = 4 → t.mem = memWriteBytes s.mem (memKey ctx (k.d.dst + s.b.collMe k * k.d.count))
      (s.viewBytes none ctx (if k.d.op = 4 then k.d.src + s.b.collMe k * k.d.count else k.d.src) k.d.count)) ∧
    (k.d.op = 5 → k.d.root = s.b.collMe k → t.mem = memWriteBytes s.mem (memKey ctx k.d.dst) (s.viewBytes none ctx k.d.src k.d.count)) ∧
    (k.d.op = 5 → k.d.root ≠ s.b.collMe k → t.mem = s.mem) ∧ (k.d.op = 8 ∨ k.d.op = 9 → t.mem = s.mem))

/-- Waits of collectives (R302, R308, R310 to R312): one that lacks something of a peer reports WAITING; SHARD_TO tides into the wait, and every SHARD_TO from there, the missing
stretch is asked for again; ABORT_TO tides into it the collective aborts with reason 2; a permutation that lacks a report waits, and one whose die has no idle engine asks the
arbiter for one; shards sent are kept until their tide is over. -/
def Claims.CollectiveWaits : Prop := ∀ (s : State) (ctx group seq : Nat) (k : Coll) (g : GroupRec) (r off len : Nat), s.b.findColl ctx group seq = some k → s.b.collGroup k = some g →
  (s.b.lacks k = some r → k.waitAt = none → exec (.collPeerWait ctx group seq) s = .next (s.setB { s.b with colls := s.b.colls.map fun c => if collIs c ctx group seq then { c with waitAt := some s.b.now, waitTide := some s.b.tide.num, waitsOn := r, rereqTide := s.b.tide.num } else c })) ∧
  (∀ m e w, s.b.missing k = some (r, off, len) → k.waitTide = some w → k.st = .running → k.rereqTide + g.shardTo ≤ s.b.tide.num → g.members[r]? = some m → k.engine = some e →
    ∃ t y, exec (.shardWaitTimeout ctx group seq) s = .next t ∧ t.mem = s.mem ∧ t.pending = s.pending ∧ t.b.findColl ctx group seq = some y ∧ y = { k with rereqTide := s.b.tide.num } ∧
      t.b.ceOf e = { s.b.ceOf e with rereq := satInc 16 (s.b.ceOf e).rereq } ∧
      (∀ n, s.b.memberStream ctx m = some n → ∃ o, (t.b.strmOf n).msgs = (s.b.strmOf n).msgs ++ [o] ∧ o.typ = (if collReduces k then tReduce else tPermute) ∧ o.off = ctlOffset seq ∧
        o.winId = group ∧ o.data = ctlBytes { kind := 5, rank := s.b.collMe k, value := off, len := len })) ∧
  (∀ w, s.b.missing k = some (r, off, len) → k.waitTide = some w → k.st = .running → w + g.abortTo ≤ s.b.tide.num → (s.b.ctx ctx).st = .active →
    ∃ t y, exec (.shardAbortTimeout ctx group seq) s = .next t ∧ t.mem = s.mem ∧ t.pending = s.pending ∧ t.b.findColl ctx group seq = some y ∧ y.st = .aborted ∧ y.reason = 2 ∧
      (t.b.ctx ctx).st = .teardown ∧ (t.b.ctx ctx).fault.cause = cGrpAbort) ∧
  (k.d.op = 6 → s.b.allIn k k.report = false → exec (.permuteStart ctx group seq) s = .next s) ∧
  (k.d.op = 6 → k.st = .reported → s.b.due (topTide k.report + 2) 0 = true → s.b.allIn k k.report = true → (∀ i, i < 4 → s.b.ceFree (4 * (k.die - dLD0) + i) = false) →
    ∃ t y, exec (.permuteStart ctx group seq) s = .next t ∧ t.mem = s.mem ∧ t.pending = s.pending ∧ t.b.findColl ctx group seq = some y ∧ y.st = .waiting ∧
      ∃ q, (t.b.arbOf (.colls k.die)).waiting = (s.b.arbOf (.colls k.die)).waiting ++ [q] ∧ q.what = .coll ctx group seq) ∧
  (∀ w, k.keptUntil = some w → w ≤ s.b.tide.num → exec (.shardRelease ctx group seq) s = .next (s.setB { s.b with colls := s.b.colls.map fun c => if collIs c ctx group seq then { c with kept := [], keptUntil := none } else c }))

/-- Collectives start and wait: the claims above it, together. -/
def Obligations.CollectiveRuns : Prop := Claims.CollectiveStart ∧ Claims.CollectiveWaits

/-- Sums and ends (R299, R302 to R304, R306, R308, R312): with every input of its chunk there a member places the sum and gathers its flags; a collective whose part is done frees its
engine and wakes its waiters with status 0, and its shards are kept for SHARD_TO tides more; a barrier ends so two tides after the highest entry, once it has every one; at the
end of a permutation the context's epoch rises and what was held may run. -/
def Obligations.CollectiveEnds : Prop := ∀ (s : State) (ctx group seq : Nat) (k : Coll) (g : GroupRec), s.b.findColl ctx group seq = some k → s.b.collGroup k = some g → k.st = .running →
  k.group < 2 ^ 16 → k.seq < 2 ^ 23 →
  (∀ i, (i = .collectiveDone ctx group seq ∧ (collReduces k = true → k.summed = true) ∧ s.b.collComplete k = true ∨
      i = .barrierRelease ctx group seq ∧ k.d.op = 7 ∧ hubBarrier k = false ∧ s.b.due (topTide k.entry + 2) 0 = true ∧ s.b.allIn k k.entry = true ∨
      i = .epochAdvance ctx group seq ∧ k.d.op = 6 ∧ k.d.inBytes ≤ gotBytes k ∧ s.b.collAcked k = true) →
    ∃ t y, exec i s = .next t ∧ t.mem = s.mem ∧ t.pending = s.pending ∧ t.b.findColl ctx group seq = some y ∧ y.st = .done ∧ y.engine = none ∧ y.doneTide = s.b.tide.num ∧
      y.keptUntil = some (s.b.tide.num + g.shardTo) ∧ (∀ e, k.engine = some e → (t.b.ceOf e).done = satInc 32 (s.b.ceOf e).done) ∧
      (∀ core p, (s.b.rkOf core).wait = some (.coll (group + seq * 2 ^ 16)) → (s.b.rkOf core).prog = some p → p.ctx = ctx →
        t.b.rkOf core = setStatus (s.b.rkOf core) (0, if k.d.op = 9 then some k.slot else none)) ∧
      (k.d.op ≠ 6 → (t.b.ctx ctx).epoch = (s.b.ctx ctx).epoch) ∧
      (k.d.op = 6 → (t.b.ctx ctx).epoch = k.d.epoch ∧ (∀ x ∈ t.b.colls, x.ctx = ctx → x.st ≠ .held) ∧
        (∀ x ∈ s.b.colls, x.ctx = ctx → x.st = .held → (∀ z ∈ s.b.colls, collIs z ctx x.group x.seq = true → z = x) → (x.die = dLD0 ∨ x.die = dLD1) →
          { x with st := .waiting } ∈ t.b.colls ∧ ∃ q ∈ (t.b.arbOf (.colls x.die)).waiting, q.what = .coll ctx x.group x.seq))) ∧
  (k.d.op = 7 → s.b.allIn k k.entry = false → exec (.barrierRelease ctx group seq) s = .next s) ∧
  (k.d.op = 2 → k.summed = false → s.b.inputsIn k = true → (chunkOf k.d.count (s.b.collN k) (s.b.collMe k)).2 ≠ 0 →
    s.collMayPlace k k.d.dst ((chunkOf k.d.count (s.b.collN k) (s.b.collMe k)).2 * redSize k.d) = true → (s.b.ctx ctx).hrv.cap = none →
    ∃ t y, exec (.collectiveDone ctx group seq) s = .next t ∧ t.pending = s.pending ∧ t.mem = memWriteBytes s.mem (memKey ctx k.d.dst) (s.b.sumChunk k).1 ∧
      (t.b.ctx ctx).flags = orFlags (s.b.ctx ctx).flags (s.b.sumChunk k).2 ∧ t.b.findColl ctx group seq = some y ∧ y.st = .done)

/-- Captures (R318, R319, R322 to R326): a context without a schedule is captured NS_EVERY tides after its last; what is captured goes by harvest or by log, each granule to the destinations
that take it and the scalar record to all three, a FLUSH ends each drain; a capture whose drains are all done is safe and its buffer drained; a destination that has answered nothing for eight tides is reported and
its failed messages go again. -/
def Obligations.Captures : Prop := ∀ (s : State) (ctx : Nat) (c : Ctx) (rs hs ls : List RegionRec), c = s.b.ctx ctx → ctx ≠ moduleCtx →
  rs = savedRegions c (currentBuf c) → hs = rs.filter (byHarvest c s.b.cfg.hrv.pct) → ls = (rs.filter fun r => !byHarvest c s.b.cfg.hrv.pct r) →
  (c.st = .active → c.rec_.sched = none → c.hrv.cap = none → c.hrv.lastAt + s.b.cfg.hrv.nsEvery ≤ s.b.tide.num →
    ∃ t k, exec (.captureTimer ctx) s = .next t ∧ t.mem = s.mem ∧ t.pending = s.pending ∧ (t.b.ctx ctx).hrv.cap = some k ∧ k.step = c.step ∧ k.at_ = s.b.tide.num ∧
      k.harvest = hs.map (·.tensorId) ∧ k.log = ls.map (·.tensorId) ∧ k.unsent = hs.flatMap (harvestGrans c) ++ ls.flatMap regionGrans ∧
      k.scalar = scalarBytes (s.b.scalarOf c (rs.map fun r => (r.tensorId, shaNat (memBytes s.mem (memKey ctx r.base) (regionBytes r))))) ∧
      (∀ d, d ≤ 2 → ∃ o ∈ (t.b.strmOf (s.b.destStream d)).msgs, o.typ = tWrite ∧ o.addr = none ∧ o.data = k.scalar ∧ o.len = k.scalar.length ∧ o.use_ = .harvest ctx d) ∧
      k.drains.map (·.dest) = [0, 1, 2] ∧ (∀ d ∈ k.drains, d.done = false ∧ d.failed = false ∧ d.since = s.b.tide.num ∧ ∃ n i, d.flush = some (n, i) ∧ n = s.b.destStream d.dest ∧
        ∃ o ∈ (t.b.strmOf n).msgs, o.typ = tFlush ∧ o.msgId = i ∧ o.use_ = .harvest ctx d.dest) ∧
      (t.b.ctx ctx).hrv.written = [] ∧ (t.b.ctx ctx).hrv.prev = c.hrv.written ∧ (t.b.ctx ctx).hrv.lastAt = s.b.tide.num ∧ (t.b.ctx ctx).st = .active ∧
      (∀ d g, (d, g) ∈ (hs.flatMap (harvestGrans c)).map (fun g => (0, g)) ++ (ls.flatMap regionGrans).flatMap (fun g => [(0, g), (1, g)]) ++ (hs.flatMap (harvestGrans c)).map (fun g => (2, g)) ++
          (if s.b.cfg.hrv.hostLog then (ls.flatMap regionGrans).map (fun g => (2, g)) else []) →
        ∃ o ∈ (t.b.strmOf (s.b.destStream d)).msgs, o.typ = tWrite ∧ o.addr = some (g * granBytes) ∧ o.len = granBytes ∧ o.use_ = .harvest ctx d)) ∧
  (∀ k, c.hrv.cap = some k → (∀ d ∈ k.drains, d.done = true) →
    ∃ t, exec (.harvestComplete ctx) s = .next t ∧ t.mem = s.mem ∧ t.pending = s.pending ∧ (t.b.ctx ctx).hrv.cap = none ∧ (t.b.ctx ctx).hrv.safeStep = k.step ∧
      (∀ i, i < 2 → bufOf (t.b.ctx ctx) i = if (bufOf c i).st ≠ .building ∧ (bufOf c i).ver = k.step % 2 ^ 48 then { bufOf c i with drained := true } else bufOf c i) ∧
      (∀ n, n ≠ ctx → t.b.ctx n = s.b.ctx n) ∧ t.b = { s.b with ctxs := t.b.ctxs }) ∧
  (∀ k d, c.hrv.cap = some k → (k.drains.find? fun d => !d.done) = some d → d.since + 8 ≤ s.b.tide.num → (k.drains.map (·.dest)).Nodup →
    ∃ t k', exec (.destFailTimeout ctx d.dest) s = .next t ∧ t.mem = s.mem ∧ t.pending = s.pending ∧ (t.b.ctx ctx).hrv.cap = some k' ∧
      k'.drains.map (·.dest) = k.drains.map (·.dest) ∧ (∀ x ∈ k'.drains, x.dest = d.dest → x.since = s.b.tide.num ∧ x.failed = true ∧ x.done = false) ∧
      t.b.spare.destFail = (if d.failed then s.b.spare.destFail else satInc 8 s.b.spare.destFail) ∧
      (∀ m ∈ (s.b.strmOf (s.b.destStream d.dest)).msgs, m.use_ = .harvest ctx d.dest → m.failed = true → m.typ = tWrite →
        ∃ o ∈ (t.b.strmOf (s.b.destStream d.dest)).msgs, o.use_ = m.use_ ∧ o.typ = tWrite ∧ o.addr = m.addr ∧ o.len = m.len ∧ o.data = m.data ∧ o.off = m.off ∧ o.failed = false ∧ o.status = none))

/-- Restores (R327, R329 to R331): once every member's RESTORE record is in, an intact copy of the scalar record and of every region that it says was saved is chosen, the record is checked, all is installed and READY
goes out; intact copies that differ without a majority, an item without an intact copy, or a record that fails a check halt the restore; where no step is common nothing is fetched.
Two tides after the last READY the context is ACTIVE and its phase begins. -/
def Obligations.Restores : Prop := ∀ (s : State) (ctx : Nat) (c : Ctx) (copies : List Copy) (scalar : ScalarRec) (r : RegionRec) (k k' ks : Copy) (step : Nat), c = s.b.ctx ctx → c.st = .restoring → ctx ≠ moduleCtx →
  (c.hrv.halt = 0 → c.hrv.installed = false → c.loads = [] → 3 ≤ c.hrv.restoreStep →
    (s.b.restoreStepS ctx = some none → ∃ t, exec (.restoreFetchDone ctx copies) s = .next t ∧ t.mem = s.mem ∧ t.pending = s.pending ∧ (t.b.ctx ctx).hrv.installed = true ∧
      (t.b.ctx ctx).hrv.fresh = true ∧ (t.b.ctx ctx).step = c.step ∧ (t.b.ctx ctx).epoch = c.epoch) ∧
    (s.b.restoreStepS ctx = some (some step) → (∀ x ∈ copies, x.tensor ≠ scalarId) →
      ∃ t, exec (.restoreFetchDone ctx copies) s = .next t ∧ Becomes s t { s.b with ctxs := s.b.ctxs.set ctx { c with hrv := { c.hrv with halt := 3, restoreStep := 4 } } }) ∧
    (s.b.restoreStepS ctx = some (some step) → ks.tensor = scalarId → copyIntact ks = true → ks.bytes ≠ [] → scalar = scalarAt c ks.bytes → savedRegions c scalar.curBuf = [r] →
      tensorRegion c r.tensorId = some r → r.tensorId ≠ scalarId → c.hrv.cap = none →
      (copies = [k, ks] → k.tensor = r.tensorId → copyIntact k = true → k.bytes ≠ [] → s.b.scalarSkew ctx step scalar = none →
        ∃ t, exec (.restoreFetchDone ctx copies) s = .next t ∧ t.pending = s.pending ∧ t.mem = memWriteBytes s.mem (memKey ctx r.base) (k.bytes.take (regionBytes r)) ∧
          (t.b.ctx ctx).st = .restoring ∧ (t.b.ctx ctx).hrv.installed = true ∧ (t.b.ctx ctx).hrv.fresh = false ∧ (t.b.ctx ctx).hrv.halt = 0 ∧ (t.b.ctx ctx).step = step ∧
          (t.b.ctx ctx).pos = scalar.pos ∧ (t.b.ctx ctx).epoch = scalar.epoch ∧ (t.b.ctx ctx).draws = scalar.counters ∧
          (scalar.curBuf ≤ 1 → bufOf (t.b.ctx ctx) scalar.curBuf = { st := .current, drained := true, ver := scalar.version } ∧
            bufOf (t.b.ctx ctx) (1 - scalar.curBuf) = { st := .previous, drained := true }) ∧
          (∀ w g, (w, g) ∈ scalar.winGens → (scalar.winGens.map (·.1)).Nodup → (t.b.winOf w).gen = max (s.b.winOf w).gen g) ∧
          (∀ x gr, (t.b.ctx ctx).rec_.sched = some x → s.b.groupOf x.phaseGroup = some gr → (t.b.ctx ctx).hrv.ready.find (s.b.rankIn gr) = some s.b.tide.num)) ∧
      (copies = [k, ks] → k.tensor = r.tensorId → copyIntact k = true → ∀ d, s.b.scalarSkew ctx step scalar = some d →
        ∃ t, exec (.restoreFetchDone ctx copies) s = .next t ∧ Becomes s t { s.b with ctxs := s.b.ctxs.set ctx { c with hrv := { c.hrv with halt := 2, restoreStep := 5 } } }) ∧
      (copies = [k, k', ks] → k.tensor = r.tensorId → k'.tensor = r.tensorId → copyIntact k = true → copyIntact k' = true → k.carried ≠ k'.carried →
        ∃ t, exec (.restoreFetchDone ctx copies) s = .next t ∧ Becomes s t { s.b with ctxs := s.b.ctxs.set ctx { c with hrv := { c.hrv with halt := 1, restoreStep := 4 } } }) ∧
      (copies = [ks] →
        ∃ t, exec (.restoreFetchDone ctx copies) s = .next t ∧ Becomes s t { s.b with ctxs := s.b.ctxs.set ctx { c with hrv := { c.hrv with halt := 3, restoreStep := 4 } } }))) ∧
  (∀ b, s.b.resumeTide ctx = some b → c.hrv.installed = true → s.b.due b 0 = true →
    ∃ t, exec (.restoreResume ctx) s = .next t ∧ t.pending = s.pending ∧ (t.b.ctx ctx).st = .active ∧ (t.b.ctx ctx).hrv.installed = false ∧
      (c.rec_.sched ≠ none → c.hrv.fresh = false → (t.b.ctx ctx).phase = .generate ∧ (t.b.ctx ctx).step = c.step) ∧
      (c.rec_.sched = none ∨ c.hrv.fresh = true → (t.b.ctx ctx).phase = .learn ∧ (t.b.ctx ctx).step = (c.step + 1) % 2 ^ 64) ∧
      ((c.rec_.pds.flatMap fun d => d.windows.map (·.winId)).Nodup → ∀ w ∈ c.rec_.pds.flatMap fun d => d.windows.map (·.winId),
        t.b.winOf w = { gen := nextGen (s.b.winOf w).gen, open_ := true, base := nextGen (s.b.winOf w).gen }))
end

