-- ==== Sys2Proof/Laws/Memory.lean ====
section
/-! SUPPORT. Laws of context memory and of the tables: a write is read back, other places stay, the canonical form is kept. -/
namespace Sys2Proof

/-- An entry written is read back. -/
@[simp] theorem Tbl.find_set_same {α : Type} (t : Tbl α) (k : Nat) (a : α) : Tbl.find (Tbl.set t k a) k = some a := by
  induction t with
  | nil => simp [Tbl.set, Tbl.find]
  | cons p t ih =>
    obtain ⟨i, x⟩ := p
    simp only [Tbl.set]
    split
    · simp [Tbl.find]
    · split
      · simp [Tbl.find]
      · have h : i ≠ k := by omega
        simp [Tbl.find, h, ih]

/-- Writing one entry leaves the others. -/
theorem Tbl.find_set_other {α : Type} (t : Tbl α) (k j : Nat) (a : α) (h : j ≠ k) : Tbl.find (Tbl.set t k a) j = Tbl.find t j := by
  have h' : k ≠ j := Ne.symm h
  induction t with
  | nil => simp [Tbl.set, Tbl.find, h']
  | cons p t ih =>
    obtain ⟨i, x⟩ := p
    simp only [Tbl.set]
    split
    · simp [Tbl.find, h']
    · split
      · next e => subst e; simp [Tbl.find, h']
      · simp [Tbl.find, ih]

@[simp] theorem Tbl.get_set_same {α : Type} (t : Tbl α) (k : Nat) (a d : α) : Tbl.get (Tbl.set t k a) d k = a := by simp [Tbl.get]

theorem Tbl.get_set_other {α : Type} (t : Tbl α) (k j : Nat) (a d : α) (h : j ≠ k) : Tbl.get (Tbl.set t k a) d j = Tbl.get t d j := by
  simp [Tbl.get, Tbl.find_set_other t k j a h]

/-- One entry after a write, as a case on its number. -/
theorem Tbl.get_set {α : Type} (t : Tbl α) (k j : Nat) (a d : α) : Tbl.get (Tbl.set t k a) d j = if j = k then a else Tbl.get t d j := by
  by_cases h : j = k
  · subst h; simp
  · simp [h, Tbl.get_set_other t k j a d h]

/-- A second write of one entry replaces the first. -/
@[simp] theorem Tbl.set_set {α : Type} (t : Tbl α) (k : Nat) (a b : α) : Tbl.set (Tbl.set t k a) k b = Tbl.set t k b := by
  induction t with
  | nil => simp [Tbl.set]
  | cons p t ih =>
    obtain ⟨i, x⟩ := p
    by_cases h1 : k < i
    · simp [Tbl.set, h1]
    · by_cases h2 : k = i
      · subst h2; simp [Tbl.set]
      · simp [Tbl.set, h1, h2, ih]

end Sys2Proof

namespace Sys2Proof.Machine
open Sys2Proof

/-! ### One byte -/

/-- The keys of a memory in its form lie above `k`. -/
def keysAbove (k : Nat) (m : List Host.Cell) : Prop := ∀ c ∈ m, k < c.1

theorem memWf_cons (i : Nat) (x : BitVec 8) (m : List Host.Cell) : memWf ((i, x) :: m) = true ↔ x ≠ 0 ∧ keysAbove i m ∧ memWf m = true := by
  induction m generalizing i x with
  | nil => simp [memWf, keysAbove]
  | cons p t ih =>
    obtain ⟨j, y⟩ := p
    have h := ih j y
    constructor
    · intro w
      simp only [memWf, Bool.and_eq_true, bne_iff_ne, decide_eq_true_eq] at w
      obtain ⟨⟨a, b⟩, c⟩ := w
      refine ⟨a, ?_, c⟩
      intro q hq
      rcases List.mem_cons.1 hq with e | e
      · subst e; exact b
      · exact Nat.lt_trans b ((h.1 c).2.1 q e)
    · rintro ⟨a, b, c⟩
      simp only [memWf, Bool.and_eq_true, bne_iff_ne, decide_eq_true_eq]
      exact ⟨⟨a, b (j, y) (by simp)⟩, c⟩

theorem byte_ne_zero (v : Nat) (h : ¬ v % 256 = 0) : BitVec.ofNat 8 v ≠ 0 := by
  intro e
  apply h
  have := congrArg BitVec.toNat e
  simpa using this

theorem keysAbove_memWrite (m : List Host.Cell) (i k v : Nat) (h : keysAbove i m) (hk : i < k) : keysAbove i (memWrite m k v) := by
  induction m with
  | nil => intro c hc; simp only [memWrite] at hc; split at hc <;> simp_all
  | cons p t ih =>
    obtain ⟨j, y⟩ := p
    have ht : keysAbove i t := fun c hc => h c (List.mem_cons_of_mem _ hc)
    have hj : i < j := h (j, y) (by simp)
    intro c hc
    simp only [memWrite] at hc
    split at hc
    · split at hc
      · exact h c hc
      · rcases List.mem_cons.1 hc with e | e
        · subst e; exact hk
        · exact h c e
    · split at hc
      · split at hc
        · exact ht c hc
        · rcases List.mem_cons.1 hc with e | e
          · subst e; exact hk
          · exact ht c e
      · rcases List.mem_cons.1 hc with e | e
        · subst e; exact hj
        · exact ih ht c e

/-- Writing a byte keeps the canonical form. -/
theorem memWrite_wf (m : List Host.Cell) (k v : Nat) (h : memWf m = true) : memWf (memWrite m k v) = true := by
  induction m with
  | nil =>
    simp only [memWrite]
    split
    · rfl
    · next e => exact (memWf_cons _ _ _).2 ⟨byte_ne_zero v e, ⟨(by intro c hc; cases hc), rfl⟩⟩
  | cons p t ih =>
    obtain ⟨j, y⟩ := p
    have w := (memWf_cons j y t).1 h
    simp only [memWrite]
    split
    · next lt =>
      split
      · exact h
      · next e =>
        refine (memWf_cons _ _ _).2 ⟨byte_ne_zero v e, ?_, h⟩
        intro c hc
        rcases List.mem_cons.1 hc with q | q
        · subst q; exact lt
        · exact Nat.lt_trans lt (w.2.1 c q)
    · split
      · next ge eq =>
        subst eq
        split
        · exact w.2.2
        · next e => exact (memWf_cons _ _ _).2 ⟨byte_ne_zero v e, w.2.1, w.2.2⟩
      · next ge ne => exact (memWf_cons _ _ _).2 ⟨w.1, keysAbove_memWrite t j k v w.2.1 (by omega), ih w.2.2⟩

theorem memRead_below (m : List Host.Cell) (k : Nat) (h : keysAbove k m) : memRead m k = 0 := by
  cases m with
  | nil => rfl
  | cons p t =>
    obtain ⟨j, y⟩ := p
    have hj : k < j := h (j, y) (by simp)
    have hn : j ≠ k := by omega
    simp [memRead, hn, hj]

/-- A byte written is read back. -/
theorem memRead_memWrite_same (m : List Host.Cell) (k v : Nat) (h : memWf m = true) : memRead (memWrite m k v) k = v % 256 := by
  induction m with
  | nil =>
    simp only [memWrite]
    split
    · next e => simp [memRead, e]
    · simp [memRead]
  | cons p t ih =>
    obtain ⟨j, y⟩ := p
    have w := (memWf_cons j y t).1 h
    simp only [memWrite]
    split
    · next lt =>
      split
      · next e =>
        have hn : j ≠ k := by omega
        simp [memRead, hn, lt, e]
      · simp [memRead]
    · split
      · next ge eq =>
        subst eq
        split
        · next e => rw [memRead_below t k w.2.1, e]
        · simp [memRead]
      · next ge ne =>
        have hn : j ≠ k := by omega
        have hl : ¬ k < j := by omega
        simp [memRead, hn, hl, ih w.2.2]

/-- Writing one byte leaves every other byte. -/
theorem memRead_memWrite_other (m : List Host.Cell) (k j v : Nat) (h : memWf m = true) (hj : j ≠ k) : memRead (memWrite m k v) j = memRead m j := by
  have hkj : k ≠ j := Ne.symm hj
  induction m with
  | nil =>
    simp only [memWrite]
    split
    · rfl
    · simp only [memRead, hkj, if_false]; split <;> rfl
  | cons p t ih =>
    obtain ⟨i, y⟩ := p
    have w := (memWf_cons i y t).1 h
    simp only [memWrite]
    split
    · next lt =>
      split
      · rfl
      · simp only [memRead, hkj, if_false]
        split
        · next l2 =>
          have h1 : i ≠ j := by omega
          have h2 : j < i := by omega
          simp [h1, h2]
        · rfl
    · split
      · next ge eq =>
        subst eq
        split
        · simp only [memRead, hkj, if_false]
          split
          · next l2 => exact memRead_below t j fun c hc => Nat.lt_trans l2 (w.2.1 c hc)
          · rfl
        · simp [memRead, hkj]
      · simp only [memRead]
        split
        · rfl
        · split
          · rfl
          · exact ih w.2.2

/-! ### Several bytes -/

theorem memWriteBytes_wf (m : List Host.Cell) (k : Nat) (bs : List Nat) (h : memWf m = true) : memWf (memWriteBytes m k bs) = true := by
  induction bs generalizing m k with
  | nil => exact h
  | cons b bs ih => exact ih _ _ (memWrite_wf m k b h)

/-- Writing bytes leaves every byte outside them. -/
theorem memRead_memWriteBytes_other (m : List Host.Cell) (k j : Nat) (bs : List Nat) (h : memWf m = true) (hj : j < k ∨ k + bs.length ≤ j) :
    memRead (memWriteBytes m k bs) j = memRead m j := by
  induction bs generalizing m k with
  | nil => rfl
  | cons b bs ih =>
    simp only [List.length_cons] at hj
    simp only [memWriteBytes]
    rw [ih _ _ (memWrite_wf m k b h) (by omega), memRead_memWrite_other m k j b h (by omega)]

/-- Bytes written are read back. -/
theorem memRead_memWriteBytes_same (m : List Host.Cell) (k i : Nat) (bs : List Nat) (h : memWf m = true) (hi : i < bs.length) :
    memRead (memWriteBytes m k bs) (k + i) = bs.getD i 0 % 256 := by
  induction bs generalizing m k i with
  | nil => simp at hi
  | cons b bs ih =>
    simp only [memWriteBytes]
    cases i with
    | zero =>
      have e := memRead_memWriteBytes_other (memWrite m k b) (k + 1) k bs (memWrite_wf m k b h) (Or.inl (by omega))
      simpa using e.trans (memRead_memWrite_same m k b h)
    | succ i =>
      have := ih (memWrite m k b) (k + 1) i (memWrite_wf m k b h) (by simpa using hi)
      rw [show k + (i + 1) = k + 1 + i by omega, this]
      simp

theorem memWf_filter (m : List Host.Cell) (f : Host.Cell → Bool) (h : memWf m = true) : memWf (m.filter f) = true := by
  induction m with
  | nil => rfl
  | cons p t ih =>
    obtain ⟨i, x⟩ := p
    have w := (memWf_cons i x t).1 h
    by_cases e : f (i, x) = true
    · rw [List.filter_cons_of_pos e]
      exact (memWf_cons _ _ _).2 ⟨w.1, fun c hc => w.2.1 c (List.mem_filter.1 hc).1, ih w.2.2⟩
    · rw [List.filter_cons_of_neg e]
      exact ih w.2.2

theorem memZero_wf (m : List Host.Cell) (lo hi : Nat) (h : memWf m = true) : memWf (memZero m lo hi) = true := memWf_filter m _ h

theorem memRead_filter (m : List Host.Cell) (f : Host.Cell → Bool) (k : Nat) (h : memWf m = true) (hf : ∀ x, f (k, x) = true) :
    memRead (m.filter f) k = memRead m k := by
  induction m with
  | nil => rfl
  | cons p t ih =>
    obtain ⟨i, x⟩ := p
    have w := (memWf_cons i x t).1 h
    by_cases e : f (i, x) = true
    · rw [List.filter_cons_of_pos e]
      simp only [memRead, ih w.2.2]
    · rw [List.filter_cons_of_neg e, ih w.2.2]
      have hne : i ≠ k := fun q => e (q ▸ hf x)
      simp only [memRead, hne, if_false]
      split
      · next l => exact memRead_below t k fun c hc => Nat.lt_trans l (w.2.1 c hc)
      · rfl

/-- Bytes zeroed read 0. -/
theorem memRead_memZero_in (m : List Host.Cell) (lo hi k : Nat) (hk : lo ≤ k ∧ k < hi) : memRead (memZero m lo hi) k = 0 := by
  unfold memZero
  induction m with
  | nil => rfl
  | cons p t ih =>
    obtain ⟨i, x⟩ := p
    by_cases e : i < lo ∨ hi ≤ i
    · rw [List.filter_cons_of_pos (by simpa using e)]
      have hne : i ≠ k := by omega
      simp only [memRead, hne, if_false, ih]
      split <;> rfl
    · rw [List.filter_cons_of_neg (by simpa using e)]
      exact ih

/-- Zeroing leaves every byte outside its keys. -/
theorem memRead_memZero_out (m : List Host.Cell) (lo hi k : Nat) (h : memWf m = true) (hk : k < lo ∨ hi ≤ k) : memRead (memZero m lo hi) k = memRead m k :=
  memRead_filter m _ k h (by intro x; simpa using hk)

end Sys2Proof.Machine
end

