-- ==== Sys2Proof/Laws/State.lean ====
section
/-! SUPPORT. One lemma per field of the block and update: which field an update writes, and that it leaves the others. -/
namespace Sys2Proof.Machine
open Sys2Proof

variable (b : Blk) (s : State)

@[simp] theorem State.setB_b (c : Blk) : (s.setB c).b = c := rfl
@[simp] theorem State.setB_mem (c : Blk) : (s.setB c).mem = s.mem := rfl
@[simp] theorem State.setB_pending (c : Blk) : (s.setB c).pending = s.pending := rfl
@[simp] theorem State.setB_setB (c d : Blk) : (s.setB c).setB d = s.setB d := rfl
@[simp] theorem State.setB_self : s.setB s.b = s := rfl

@[simp] theorem Blk.setCtx_out (n : Nat) (c : Ctx) : (b.setCtx n c).out = b.out := rfl
@[simp] theorem Blk.setCtx_freeCtr (n : Nat) (c : Ctx) : (b.setCtx n c).freeCtr = b.freeCtr := rfl
@[simp] theorem Blk.setCtx_sevMin (n : Nat) (c : Ctx) : (b.setCtx n c).sevMin = b.sevMin := rfl
@[simp] theorem Blk.setCtx_now (n : Nat) (c : Ctx) : (b.setCtx n c).now = b.now := rfl
@[simp] theorem Blk.setCtx_pend (n : Nat) (c : Ctx) : (b.setCtx n c).pend = b.pend := rfl
@[simp] theorem Blk.setCtx_pwr (n : Nat) (c : Ctx) : (b.setCtx n c).pwr = b.pwr := rfl
@[simp] theorem Blk.setCtx_tide (n : Nat) (c : Ctx) : (b.setCtx n c).tide = b.tide := rfl
@[simp] theorem Blk.setCtx_xing (n : Nat) (c : Ctx) : (b.setCtx n c).xing = b.xing := rfl
@[simp] theorem Blk.setCtx_pan (n : Nat) (c : Ctx) : (b.setCtx n c).pan = b.pan := rfl
@[simp] theorem Blk.setCtx_mc (n : Nat) (c : Ctx) : (b.setCtx n c).mc = b.mc := rfl
@[simp] theorem Blk.setCtx_repairs (n : Nat) (c : Ctx) : (b.setCtx n c).repairs = b.repairs := rfl
@[simp] theorem Blk.setCtx_slu (n : Nat) (c : Ctx) : (b.setCtx n c).slu = b.slu := rfl
@[simp] theorem Blk.setCtx_arbs (n : Nat) (c : Ctx) : (b.setCtx n c).arbs = b.arbs := rfl
@[simp] theorem Blk.setCtx_ctxs (n : Nat) (c : Ctx) : (b.setCtx n c).ctxs = b.ctxs.set n c := rfl
@[simp] theorem Blk.setCtx_me (n : Nat) (c : Ctx) : (b.setCtx n c).me = b.me := rfl
@[simp] theorem Blk.setCtx_ve (n : Nat) (c : Ctx) : (b.setCtx n c).ve = b.ve := rfl
@[simp] theorem Blk.setCtx_rk (n : Nat) (c : Ctx) : (b.setCtx n c).rk = b.rk := rfl
@[simp] theorem Blk.setCtx_strm (n : Nat) (c : Ctx) : (b.setCtx n c).strm = b.strm := rfl
@[simp] theorem Blk.setCtx_recs (n : Nat) (c : Ctx) : (b.setCtx n c).recs = b.recs := rfl
@[simp] theorem Blk.setCtx_held (n : Nat) (c : Ctx) : (b.setCtx n c).held = b.held := rfl
@[simp] theorem Blk.setCtx_recFull (n : Nat) (c : Ctx) : (b.setCtx n c).recFull = b.recFull := rfl
@[simp] theorem Blk.setCtx_wins (n : Nat) (c : Ctx) : (b.setCtx n c).wins = b.wins := rfl
@[simp] theorem Blk.setCtx_ports (n : Nat) (c : Ctx) : (b.setCtx n c).ports = b.ports := rfl
@[simp] theorem Blk.setCtx_colls (n : Nat) (c : Ctx) : (b.setCtx n c).colls = b.colls := rfl
@[simp] theorem Blk.setCtx_ces (n : Nat) (c : Ctx) : (b.setCtx n c).ces = b.ces := rfl
@[simp] theorem Blk.setCtx_heldShards (n : Nat) (c : Ctx) : (b.setCtx n c).heldShards = b.heldShards := rfl
@[simp] theorem Blk.setCtx_rst (n : Nat) (c : Ctx) : (b.setCtx n c).rst = b.rst := rfl
@[simp] theorem Blk.setCtx_sec (n : Nat) (c : Ctx) : (b.setCtx n c).sec = b.sec := rfl
@[simp] theorem Blk.setCtx_store (n : Nat) (c : Ctx) : (b.setCtx n c).store = b.store := rfl
@[simp] theorem Blk.setCtx_mgt (n : Nat) (c : Ctx) : (b.setCtx n c).mgt = b.mgt := rfl
@[simp] theorem Blk.setCtx_mon (n : Nat) (c : Ctx) : (b.setCtx n c).mon = b.mon := rfl
@[simp] theorem Blk.setCtx_tst (n : Nat) (c : Ctx) : (b.setCtx n c).tst = b.tst := rfl
@[simp] theorem Blk.setCtx_spare (n : Nat) (c : Ctx) : (b.setCtx n c).spare = b.spare := rfl
@[simp] theorem Blk.setCtx_cfg (n : Nat) (c : Ctx) : (b.setCtx n c).cfg = b.cfg := rfl
@[simp] theorem Blk.setCtx_modEv (n : Nat) (c : Ctx) : (b.setCtx n c).modEv = b.modEv := rfl
@[simp] theorem Blk.setCtx_evSeq (n : Nat) (c : Ctx) : (b.setCtx n c).evSeq = b.evSeq := rfl

@[simp] theorem Blk.modCtx_out (n : Nat) (f : Ctx → Ctx) : (b.modCtx n f).out = b.out := rfl
@[simp] theorem Blk.modCtx_freeCtr (n : Nat) (f : Ctx → Ctx) : (b.modCtx n f).freeCtr = b.freeCtr := rfl
@[simp] theorem Blk.modCtx_sevMin (n : Nat) (f : Ctx → Ctx) : (b.modCtx n f).sevMin = b.sevMin := rfl
@[simp] theorem Blk.modCtx_now (n : Nat) (f : Ctx → Ctx) : (b.modCtx n f).now = b.now := rfl
@[simp] theorem Blk.modCtx_pend (n : Nat) (f : Ctx → Ctx) : (b.modCtx n f).pend = b.pend := rfl
@[simp] theorem Blk.modCtx_pwr (n : Nat) (f : Ctx → Ctx) : (b.modCtx n f).pwr = b.pwr := rfl
@[simp] theorem Blk.modCtx_tide (n : Nat) (f : Ctx → Ctx) : (b.modCtx n f).tide = b.tide := rfl
@[simp] theorem Blk.modCtx_xing (n : Nat) (f : Ctx → Ctx) : (b.modCtx n f).xing = b.xing := rfl
@[simp] theorem Blk.modCtx_pan (n : Nat) (f : Ctx → Ctx) : (b.modCtx n f).pan = b.pan := rfl
@[simp] theorem Blk.modCtx_mc (n : Nat) (f : Ctx → Ctx) : (b.modCtx n f).mc = b.mc := rfl
@[simp] theorem Blk.modCtx_repairs (n : Nat) (f : Ctx → Ctx) : (b.modCtx n f).repairs = b.repairs := rfl
@[simp] theorem Blk.modCtx_slu (n : Nat) (f : Ctx → Ctx) : (b.modCtx n f).slu = b.slu := rfl
@[simp] theorem Blk.modCtx_arbs (n : Nat) (f : Ctx → Ctx) : (b.modCtx n f).arbs = b.arbs := rfl
@[simp] theorem Blk.modCtx_ctxs (n : Nat) (f : Ctx → Ctx) : (b.modCtx n f).ctxs = b.ctxs.set n (f (b.ctx n)) := rfl
@[simp] theorem Blk.modCtx_me (n : Nat) (f : Ctx → Ctx) : (b.modCtx n f).me = b.me := rfl
@[simp] theorem Blk.modCtx_ve (n : Nat) (f : Ctx → Ctx) : (b.modCtx n f).ve = b.ve := rfl
@[simp] theorem Blk.modCtx_rk (n : Nat) (f : Ctx → Ctx) : (b.modCtx n f).rk = b.rk := rfl
@[simp] theorem Blk.modCtx_strm (n : Nat) (f : Ctx → Ctx) : (b.modCtx n f).strm = b.strm := rfl
@[simp] theorem Blk.modCtx_recs (n : Nat) (f : Ctx → Ctx) : (b.modCtx n f).recs = b.recs := rfl
@[simp] theorem Blk.modCtx_held (n : Nat) (f : Ctx → Ctx) : (b.modCtx n f).held = b.held := rfl
@[simp] theorem Blk.modCtx_recFull (n : Nat) (f : Ctx → Ctx) : (b.modCtx n f).recFull = b.recFull := rfl
@[simp] theorem Blk.modCtx_wins (n : Nat) (f : Ctx → Ctx) : (b.modCtx n f).wins = b.wins := rfl
@[simp] theorem Blk.modCtx_ports (n : Nat) (f : Ctx → Ctx) : (b.modCtx n f).ports = b.ports := rfl
@[simp] theorem Blk.modCtx_colls (n : Nat) (f : Ctx → Ctx) : (b.modCtx n f).colls = b.colls := rfl
@[simp] theorem Blk.modCtx_ces (n : Nat) (f : Ctx → Ctx) : (b.modCtx n f).ces = b.ces := rfl
@[simp] theorem Blk.modCtx_heldShards (n : Nat) (f : Ctx → Ctx) : (b.modCtx n f).heldShards = b.heldShards := rfl
@[simp] theorem Blk.modCtx_rst (n : Nat) (f : Ctx → Ctx) : (b.modCtx n f).rst = b.rst := rfl
@[simp] theorem Blk.modCtx_sec (n : Nat) (f : Ctx → Ctx) : (b.modCtx n f).sec = b.sec := rfl
@[simp] theorem Blk.modCtx_store (n : Nat) (f : Ctx → Ctx) : (b.modCtx n f).store = b.store := rfl
@[simp] theorem Blk.modCtx_mgt (n : Nat) (f : Ctx → Ctx) : (b.modCtx n f).mgt = b.mgt := rfl
@[simp] theorem Blk.modCtx_mon (n : Nat) (f : Ctx → Ctx) : (b.modCtx n f).mon = b.mon := rfl
@[simp] theorem Blk.modCtx_tst (n : Nat) (f : Ctx → Ctx) : (b.modCtx n f).tst = b.tst := rfl
@[simp] theorem Blk.modCtx_spare (n : Nat) (f : Ctx → Ctx) : (b.modCtx n f).spare = b.spare := rfl
@[simp] theorem Blk.modCtx_cfg (n : Nat) (f : Ctx → Ctx) : (b.modCtx n f).cfg = b.cfg := rfl
@[simp] theorem Blk.modCtx_modEv (n : Nat) (f : Ctx → Ctx) : (b.modCtx n f).modEv = b.modEv := rfl
@[simp] theorem Blk.modCtx_evSeq (n : Nat) (f : Ctx → Ctx) : (b.modCtx n f).evSeq = b.evSeq := rfl

@[simp] theorem Blk.modPan_out (p : Pan) (f : PanSt → PanSt) : (b.modPan p f).out = b.out := rfl
@[simp] theorem Blk.modPan_freeCtr (p : Pan) (f : PanSt → PanSt) : (b.modPan p f).freeCtr = b.freeCtr := rfl
@[simp] theorem Blk.modPan_sevMin (p : Pan) (f : PanSt → PanSt) : (b.modPan p f).sevMin = b.sevMin := rfl
@[simp] theorem Blk.modPan_now (p : Pan) (f : PanSt → PanSt) : (b.modPan p f).now = b.now := rfl
@[simp] theorem Blk.modPan_pend (p : Pan) (f : PanSt → PanSt) : (b.modPan p f).pend = b.pend := rfl
@[simp] theorem Blk.modPan_pwr (p : Pan) (f : PanSt → PanSt) : (b.modPan p f).pwr = b.pwr := rfl
@[simp] theorem Blk.modPan_tide (p : Pan) (f : PanSt → PanSt) : (b.modPan p f).tide = b.tide := rfl
@[simp] theorem Blk.modPan_xing (p : Pan) (f : PanSt → PanSt) : (b.modPan p f).xing = b.xing := rfl
@[simp] theorem Blk.modPan_pan (p : Pan) (f : PanSt → PanSt) : (b.modPan p f).pan = b.pan.set p (f (b.panSt p)) := rfl
@[simp] theorem Blk.modPan_mc (p : Pan) (f : PanSt → PanSt) : (b.modPan p f).mc = b.mc := rfl
@[simp] theorem Blk.modPan_repairs (p : Pan) (f : PanSt → PanSt) : (b.modPan p f).repairs = b.repairs := rfl
@[simp] theorem Blk.modPan_slu (p : Pan) (f : PanSt → PanSt) : (b.modPan p f).slu = b.slu := rfl
@[simp] theorem Blk.modPan_arbs (p : Pan) (f : PanSt → PanSt) : (b.modPan p f).arbs = b.arbs := rfl
@[simp] theorem Blk.modPan_ctxs (p : Pan) (f : PanSt → PanSt) : (b.modPan p f).ctxs = b.ctxs := rfl
@[simp] theorem Blk.modPan_me (p : Pan) (f : PanSt → PanSt) : (b.modPan p f).me = b.me := rfl
@[simp] theorem Blk.modPan_ve (p : Pan) (f : PanSt → PanSt) : (b.modPan p f).ve = b.ve := rfl
@[simp] theorem Blk.modPan_rk (p : Pan) (f : PanSt → PanSt) : (b.modPan p f).rk = b.rk := rfl
@[simp] theorem Blk.modPan_strm (p : Pan) (f : PanSt → PanSt) : (b.modPan p f).strm = b.strm := rfl
@[simp] theorem Blk.modPan_recs (p : Pan) (f : PanSt → PanSt) : (b.modPan p f).recs = b.recs := rfl
@[simp] theorem Blk.modPan_held (p : Pan) (f : PanSt → PanSt) : (b.modPan p f).held = b.held := rfl
@[simp] theorem Blk.modPan_recFull (p : Pan) (f : PanSt → PanSt) : (b.modPan p f).recFull = b.recFull := rfl
@[simp] theorem Blk.modPan_wins (p : Pan) (f : PanSt → PanSt) : (b.modPan p f).wins = b.wins := rfl
@[simp] theorem Blk.modPan_ports (p : Pan) (f : PanSt → PanSt) : (b.modPan p f).ports = b.ports := rfl
@[simp] theorem Blk.modPan_colls (p : Pan) (f : PanSt → PanSt) : (b.modPan p f).colls = b.colls := rfl
@[simp] theorem Blk.modPan_ces (p : Pan) (f : PanSt → PanSt) : (b.modPan p f).ces = b.ces := rfl
@[simp] theorem Blk.modPan_heldShards (p : Pan) (f : PanSt → PanSt) : (b.modPan p f).heldShards = b.heldShards := rfl
@[simp] theorem Blk.modPan_rst (p : Pan) (f : PanSt → PanSt) : (b.modPan p f).rst = b.rst := rfl
@[simp] theorem Blk.modPan_sec (p : Pan) (f : PanSt → PanSt) : (b.modPan p f).sec = b.sec := rfl
@[simp] theorem Blk.modPan_store (p : Pan) (f : PanSt → PanSt) : (b.modPan p f).store = b.store := rfl
@[simp] theorem Blk.modPan_mgt (p : Pan) (f : PanSt → PanSt) : (b.modPan p f).mgt = b.mgt := rfl
@[simp] theorem Blk.modPan_mon (p : Pan) (f : PanSt → PanSt) : (b.modPan p f).mon = b.mon := rfl
@[simp] theorem Blk.modPan_tst (p : Pan) (f : PanSt → PanSt) : (b.modPan p f).tst = b.tst := rfl
@[simp] theorem Blk.modPan_spare (p : Pan) (f : PanSt → PanSt) : (b.modPan p f).spare = b.spare := rfl
@[simp] theorem Blk.modPan_cfg (p : Pan) (f : PanSt → PanSt) : (b.modPan p f).cfg = b.cfg := rfl
@[simp] theorem Blk.modPan_modEv (p : Pan) (f : PanSt → PanSt) : (b.modPan p f).modEv = b.modEv := rfl
@[simp] theorem Blk.modPan_evSeq (p : Pan) (f : PanSt → PanSt) : (b.modPan p f).evSeq = b.evSeq := rfl

@[simp] theorem Blk.setSt_out (p : Pan) (x : PState) : (b.setSt p x).out = b.out := rfl
@[simp] theorem Blk.setSt_freeCtr (p : Pan) (x : PState) : (b.setSt p x).freeCtr = b.freeCtr := rfl
@[simp] theorem Blk.setSt_sevMin (p : Pan) (x : PState) : (b.setSt p x).sevMin = b.sevMin := rfl
@[simp] theorem Blk.setSt_now (p : Pan) (x : PState) : (b.setSt p x).now = b.now := rfl
@[simp] theorem Blk.setSt_pend (p : Pan) (x : PState) : (b.setSt p x).pend = b.pend := rfl
@[simp] theorem Blk.setSt_pwr (p : Pan) (x : PState) : (b.setSt p x).pwr = b.pwr := rfl
@[simp] theorem Blk.setSt_tide (p : Pan) (x : PState) : (b.setSt p x).tide = b.tide := rfl
@[simp] theorem Blk.setSt_xing (p : Pan) (x : PState) : (b.setSt p x).xing = b.xing := rfl
@[simp] theorem Blk.setSt_mc (p : Pan) (x : PState) : (b.setSt p x).mc = b.mc := rfl
@[simp] theorem Blk.setSt_repairs (p : Pan) (x : PState) : (b.setSt p x).repairs = b.repairs := rfl
@[simp] theorem Blk.setSt_slu (p : Pan) (x : PState) : (b.setSt p x).slu = b.slu := rfl
@[simp] theorem Blk.setSt_arbs (p : Pan) (x : PState) : (b.setSt p x).arbs = b.arbs := rfl
@[simp] theorem Blk.setSt_ctxs (p : Pan) (x : PState) : (b.setSt p x).ctxs = b.ctxs := rfl
@[simp] theorem Blk.setSt_me (p : Pan) (x : PState) : (b.setSt p x).me = b.me := rfl
@[simp] theorem Blk.setSt_ve (p : Pan) (x : PState) : (b.setSt p x).ve = b.ve := rfl
@[simp] theorem Blk.setSt_rk (p : Pan) (x : PState) : (b.setSt p x).rk = b.rk := rfl
@[simp] theorem Blk.setSt_strm (p : Pan) (x : PState) : (b.setSt p x).strm = b.strm := rfl
@[simp] theorem Blk.setSt_recs (p : Pan) (x : PState) : (b.setSt p x).recs = b.recs := rfl
@[simp] theorem Blk.setSt_held (p : Pan) (x : PState) : (b.setSt p x).held = b.held := rfl
@[simp] theorem Blk.setSt_recFull (p : Pan) (x : PState) : (b.setSt p x).recFull = b.recFull := rfl
@[simp] theorem Blk.setSt_wins (p : Pan) (x : PState) : (b.setSt p x).wins = b.wins := rfl
@[simp] theorem Blk.setSt_ports (p : Pan) (x : PState) : (b.setSt p x).ports = b.ports := rfl
@[simp] theorem Blk.setSt_colls (p : Pan) (x : PState) : (b.setSt p x).colls = b.colls := rfl
@[simp] theorem Blk.setSt_ces (p : Pan) (x : PState) : (b.setSt p x).ces = b.ces := rfl
@[simp] theorem Blk.setSt_heldShards (p : Pan) (x : PState) : (b.setSt p x).heldShards = b.heldShards := rfl
@[simp] theorem Blk.setSt_rst (p : Pan) (x : PState) : (b.setSt p x).rst = b.rst := rfl
@[simp] theorem Blk.setSt_sec (p : Pan) (x : PState) : (b.setSt p x).sec = b.sec := rfl
@[simp] theorem Blk.setSt_store (p : Pan) (x : PState) : (b.setSt p x).store = b.store := rfl
@[simp] theorem Blk.setSt_mgt (p : Pan) (x : PState) : (b.setSt p x).mgt = b.mgt := rfl
@[simp] theorem Blk.setSt_mon (p : Pan) (x : PState) : (b.setSt p x).mon = b.mon := rfl
@[simp] theorem Blk.setSt_tst (p : Pan) (x : PState) : (b.setSt p x).tst = b.tst := rfl
@[simp] theorem Blk.setSt_spare (p : Pan) (x : PState) : (b.setSt p x).spare = b.spare := rfl
@[simp] theorem Blk.setSt_cfg (p : Pan) (x : PState) : (b.setSt p x).cfg = b.cfg := rfl
@[simp] theorem Blk.setSt_modEv (p : Pan) (x : PState) : (b.setSt p x).modEv = b.modEv := rfl
@[simp] theorem Blk.setSt_evSeq (p : Pan) (x : PState) : (b.setSt p x).evSeq = b.evSeq := rfl

@[simp] theorem Blk.modMc_out (p : Pan) (f : Mc → Mc) : (b.modMc p f).out = b.out := rfl
@[simp] theorem Blk.modMc_freeCtr (p : Pan) (f : Mc → Mc) : (b.modMc p f).freeCtr = b.freeCtr := rfl
@[simp] theorem Blk.modMc_sevMin (p : Pan) (f : Mc → Mc) : (b.modMc p f).sevMin = b.sevMin := rfl
@[simp] theorem Blk.modMc_now (p : Pan) (f : Mc → Mc) : (b.modMc p f).now = b.now := rfl
@[simp] theorem Blk.modMc_pend (p : Pan) (f : Mc → Mc) : (b.modMc p f).pend = b.pend := rfl
@[simp] theorem Blk.modMc_pwr (p : Pan) (f : Mc → Mc) : (b.modMc p f).pwr = b.pwr := rfl
@[simp] theorem Blk.modMc_tide (p : Pan) (f : Mc → Mc) : (b.modMc p f).tide = b.tide := rfl
@[simp] theorem Blk.modMc_xing (p : Pan) (f : Mc → Mc) : (b.modMc p f).xing = b.xing := rfl
@[simp] theorem Blk.modMc_pan (p : Pan) (f : Mc → Mc) : (b.modMc p f).pan = b.pan := rfl
@[simp] theorem Blk.modMc_mc (p : Pan) (f : Mc → Mc) : (b.modMc p f).mc = b.mc.set p (f (b.mcOf p)) := rfl
@[simp] theorem Blk.modMc_repairs (p : Pan) (f : Mc → Mc) : (b.modMc p f).repairs = b.repairs := rfl
@[simp] theorem Blk.modMc_slu (p : Pan) (f : Mc → Mc) : (b.modMc p f).slu = b.slu := rfl
@[simp] theorem Blk.modMc_arbs (p : Pan) (f : Mc → Mc) : (b.modMc p f).arbs = b.arbs := rfl
@[simp] theorem Blk.modMc_ctxs (p : Pan) (f : Mc → Mc) : (b.modMc p f).ctxs = b.ctxs := rfl
@[simp] theorem Blk.modMc_me (p : Pan) (f : Mc → Mc) : (b.modMc p f).me = b.me := rfl
@[simp] theorem Blk.modMc_ve (p : Pan) (f : Mc → Mc) : (b.modMc p f).ve = b.ve := rfl
@[simp] theorem Blk.modMc_rk (p : Pan) (f : Mc → Mc) : (b.modMc p f).rk = b.rk := rfl
@[simp] theorem Blk.modMc_strm (p : Pan) (f : Mc → Mc) : (b.modMc p f).strm = b.strm := rfl
@[simp] theorem Blk.modMc_recs (p : Pan) (f : Mc → Mc) : (b.modMc p f).recs = b.recs := rfl
@[simp] theorem Blk.modMc_held (p : Pan) (f : Mc → Mc) : (b.modMc p f).held = b.held := rfl
@[simp] theorem Blk.modMc_recFull (p : Pan) (f : Mc → Mc) : (b.modMc p f).recFull = b.recFull := rfl
@[simp] theorem Blk.modMc_wins (p : Pan) (f : Mc → Mc) : (b.modMc p f).wins = b.wins := rfl
@[simp] theorem Blk.modMc_ports (p : Pan) (f : Mc → Mc) : (b.modMc p f).ports = b.ports := rfl
@[simp] theorem Blk.modMc_colls (p : Pan) (f : Mc → Mc) : (b.modMc p f).colls = b.colls := rfl
@[simp] theorem Blk.modMc_ces (p : Pan) (f : Mc → Mc) : (b.modMc p f).ces = b.ces := rfl
@[simp] theorem Blk.modMc_heldShards (p : Pan) (f : Mc → Mc) : (b.modMc p f).heldShards = b.heldShards := rfl
@[simp] theorem Blk.modMc_rst (p : Pan) (f : Mc → Mc) : (b.modMc p f).rst = b.rst := rfl
@[simp] theorem Blk.modMc_sec (p : Pan) (f : Mc → Mc) : (b.modMc p f).sec = b.sec := rfl
@[simp] theorem Blk.modMc_store (p : Pan) (f : Mc → Mc) : (b.modMc p f).store = b.store := rfl
@[simp] theorem Blk.modMc_mgt (p : Pan) (f : Mc → Mc) : (b.modMc p f).mgt = b.mgt := rfl
@[simp] theorem Blk.modMc_mon (p : Pan) (f : Mc → Mc) : (b.modMc p f).mon = b.mon := rfl
@[simp] theorem Blk.modMc_tst (p : Pan) (f : Mc → Mc) : (b.modMc p f).tst = b.tst := rfl
@[simp] theorem Blk.modMc_spare (p : Pan) (f : Mc → Mc) : (b.modMc p f).spare = b.spare := rfl
@[simp] theorem Blk.modMc_cfg (p : Pan) (f : Mc → Mc) : (b.modMc p f).cfg = b.cfg := rfl
@[simp] theorem Blk.modMc_modEv (p : Pan) (f : Mc → Mc) : (b.modMc p f).modEv = b.modEv := rfl
@[simp] theorem Blk.modMc_evSeq (p : Pan) (f : Mc → Mc) : (b.modMc p f).evSeq = b.evSeq := rfl

@[simp] theorem Blk.modMe_out (n : Nat) (f : Me → Me) : (b.modMe n f).out = b.out := rfl
@[simp] theorem Blk.modMe_freeCtr (n : Nat) (f : Me → Me) : (b.modMe n f).freeCtr = b.freeCtr := rfl
@[simp] theorem Blk.modMe_sevMin (n : Nat) (f : Me → Me) : (b.modMe n f).sevMin = b.sevMin := rfl
@[simp] theorem Blk.modMe_now (n : Nat) (f : Me → Me) : (b.modMe n f).now = b.now := rfl
@[simp] theorem Blk.modMe_pend (n : Nat) (f : Me → Me) : (b.modMe n f).pend = b.pend := rfl
@[simp] theorem Blk.modMe_pwr (n : Nat) (f : Me → Me) : (b.modMe n f).pwr = b.pwr := rfl
@[simp] theorem Blk.modMe_tide (n : Nat) (f : Me → Me) : (b.modMe n f).tide = b.tide := rfl
@[simp] theorem Blk.modMe_xing (n : Nat) (f : Me → Me) : (b.modMe n f).xing = b.xing := rfl
@[simp] theorem Blk.modMe_pan (n : Nat) (f : Me → Me) : (b.modMe n f).pan = b.pan := rfl
@[simp] theorem Blk.modMe_mc (n : Nat) (f : Me → Me) : (b.modMe n f).mc = b.mc := rfl
@[simp] theorem Blk.modMe_repairs (n : Nat) (f : Me → Me) : (b.modMe n f).repairs = b.repairs := rfl
@[simp] theorem Blk.modMe_slu (n : Nat) (f : Me → Me) : (b.modMe n f).slu = b.slu := rfl
@[simp] theorem Blk.modMe_arbs (n : Nat) (f : Me → Me) : (b.modMe n f).arbs = b.arbs := rfl
@[simp] theorem Blk.modMe_ctxs (n : Nat) (f : Me → Me) : (b.modMe n f).ctxs = b.ctxs := rfl
@[simp] theorem Blk.modMe_me (n : Nat) (f : Me → Me) : (b.modMe n f).me = b.me.set n (f (b.meOf n)) := rfl
@[simp] theorem Blk.modMe_ve (n : Nat) (f : Me → Me) : (b.modMe n f).ve = b.ve := rfl
@[simp] theorem Blk.modMe_rk (n : Nat) (f : Me → Me) : (b.modMe n f).rk = b.rk := rfl
@[simp] theorem Blk.modMe_strm (n : Nat) (f : Me → Me) : (b.modMe n f).strm = b.strm := rfl
@[simp] theorem Blk.modMe_recs (n : Nat) (f : Me → Me) : (b.modMe n f).recs = b.recs := rfl
@[simp] theorem Blk.modMe_held (n : Nat) (f : Me → Me) : (b.modMe n f).held = b.held := rfl
@[simp] theorem Blk.modMe_recFull (n : Nat) (f : Me → Me) : (b.modMe n f).recFull = b.recFull := rfl
@[simp] theorem Blk.modMe_wins (n : Nat) (f : Me → Me) : (b.modMe n f).wins = b.wins := rfl
@[simp] theorem Blk.modMe_ports (n : Nat) (f : Me → Me) : (b.modMe n f).ports = b.ports := rfl
@[simp] theorem Blk.modMe_colls (n : Nat) (f : Me → Me) : (b.modMe n f).colls = b.colls := rfl
@[simp] theorem Blk.modMe_ces (n : Nat) (f : Me → Me) : (b.modMe n f).ces = b.ces := rfl
@[simp] theorem Blk.modMe_heldShards (n : Nat) (f : Me → Me) : (b.modMe n f).heldShards = b.heldShards := rfl
@[simp] theorem Blk.modMe_rst (n : Nat) (f : Me → Me) : (b.modMe n f).rst = b.rst := rfl
@[simp] theorem Blk.modMe_sec (n : Nat) (f : Me → Me) : (b.modMe n f).sec = b.sec := rfl
@[simp] theorem Blk.modMe_store (n : Nat) (f : Me → Me) : (b.modMe n f).store = b.store := rfl
@[simp] theorem Blk.modMe_mgt (n : Nat) (f : Me → Me) : (b.modMe n f).mgt = b.mgt := rfl
@[simp] theorem Blk.modMe_mon (n : Nat) (f : Me → Me) : (b.modMe n f).mon = b.mon := rfl
@[simp] theorem Blk.modMe_tst (n : Nat) (f : Me → Me) : (b.modMe n f).tst = b.tst := rfl
@[simp] theorem Blk.modMe_spare (n : Nat) (f : Me → Me) : (b.modMe n f).spare = b.spare := rfl
@[simp] theorem Blk.modMe_cfg (n : Nat) (f : Me → Me) : (b.modMe n f).cfg = b.cfg := rfl
@[simp] theorem Blk.modMe_modEv (n : Nat) (f : Me → Me) : (b.modMe n f).modEv = b.modEv := rfl
@[simp] theorem Blk.modMe_evSeq (n : Nat) (f : Me → Me) : (b.modMe n f).evSeq = b.evSeq := rfl

@[simp] theorem Blk.modAg_out (n g : Nat) (f : Ag → Ag) : (b.modAg n g f).out = b.out := rfl
@[simp] theorem Blk.modAg_freeCtr (n g : Nat) (f : Ag → Ag) : (b.modAg n g f).freeCtr = b.freeCtr := rfl
@[simp] theorem Blk.modAg_sevMin (n g : Nat) (f : Ag → Ag) : (b.modAg n g f).sevMin = b.sevMin := rfl
@[simp] theorem Blk.modAg_now (n g : Nat) (f : Ag → Ag) : (b.modAg n g f).now = b.now := rfl
@[simp] theorem Blk.modAg_pend (n g : Nat) (f : Ag → Ag) : (b.modAg n g f).pend = b.pend := rfl
@[simp] theorem Blk.modAg_pwr (n g : Nat) (f : Ag → Ag) : (b.modAg n g f).pwr = b.pwr := rfl
@[simp] theorem Blk.modAg_tide (n g : Nat) (f : Ag → Ag) : (b.modAg n g f).tide = b.tide := rfl
@[simp] theorem Blk.modAg_xing (n g : Nat) (f : Ag → Ag) : (b.modAg n g f).xing = b.xing := rfl
@[simp] theorem Blk.modAg_pan (n g : Nat) (f : Ag → Ag) : (b.modAg n g f).pan = b.pan := rfl
@[simp] theorem Blk.modAg_mc (n g : Nat) (f : Ag → Ag) : (b.modAg n g f).mc = b.mc := rfl
@[simp] theorem Blk.modAg_repairs (n g : Nat) (f : Ag → Ag) : (b.modAg n g f).repairs = b.repairs := rfl
@[simp] theorem Blk.modAg_slu (n g : Nat) (f : Ag → Ag) : (b.modAg n g f).slu = b.slu := rfl
@[simp] theorem Blk.modAg_arbs (n g : Nat) (f : Ag → Ag) : (b.modAg n g f).arbs = b.arbs := rfl
@[simp] theorem Blk.modAg_ctxs (n g : Nat) (f : Ag → Ag) : (b.modAg n g f).ctxs = b.ctxs := rfl
@[simp] theorem Blk.modAg_ve (n g : Nat) (f : Ag → Ag) : (b.modAg n g f).ve = b.ve := rfl
@[simp] theorem Blk.modAg_rk (n g : Nat) (f : Ag → Ag) : (b.modAg n g f).rk = b.rk := rfl
@[simp] theorem Blk.modAg_strm (n g : Nat) (f : Ag → Ag) : (b.modAg n g f).strm = b.strm := rfl
@[simp] theorem Blk.modAg_recs (n g : Nat) (f : Ag → Ag) : (b.modAg n g f).recs = b.recs := rfl
@[simp] theorem Blk.modAg_held (n g : Nat) (f : Ag → Ag) : (b.modAg n g f).held = b.held := rfl
@[simp] theorem Blk.modAg_recFull (n g : Nat) (f : Ag → Ag) : (b.modAg n g f).recFull = b.recFull := rfl
@[simp] theorem Blk.modAg_wins (n g : Nat) (f : Ag → Ag) : (b.modAg n g f).wins = b.wins := rfl
@[simp] theorem Blk.modAg_ports (n g : Nat) (f : Ag → Ag) : (b.modAg n g f).ports = b.ports := rfl
@[simp] theorem Blk.modAg_colls (n g : Nat) (f : Ag → Ag) : (b.modAg n g f).colls = b.colls := rfl
@[simp] theorem Blk.modAg_ces (n g : Nat) (f : Ag → Ag) : (b.modAg n g f).ces = b.ces := rfl
@[simp] theorem Blk.modAg_heldShards (n g : Nat) (f : Ag → Ag) : (b.modAg n g f).heldShards = b.heldShards := rfl
@[simp] theorem Blk.modAg_rst (n g : Nat) (f : Ag → Ag) : (b.modAg n g f).rst = b.rst := rfl
@[simp] theorem Blk.modAg_sec (n g : Nat) (f : Ag → Ag) : (b.modAg n g f).sec = b.sec := rfl
@[simp] theorem Blk.modAg_store (n g : Nat) (f : Ag → Ag) : (b.modAg n g f).store = b.store := rfl
@[simp] theorem Blk.modAg_mgt (n g : Nat) (f : Ag → Ag) : (b.modAg n g f).mgt = b.mgt := rfl
@[simp] theorem Blk.modAg_mon (n g : Nat) (f : Ag → Ag) : (b.modAg n g f).mon = b.mon := rfl
@[simp] theorem Blk.modAg_tst (n g : Nat) (f : Ag → Ag) : (b.modAg n g f).tst = b.tst := rfl
@[simp] theorem Blk.modAg_spare (n g : Nat) (f : Ag → Ag) : (b.modAg n g f).spare = b.spare := rfl
@[simp] theorem Blk.modAg_cfg (n g : Nat) (f : Ag → Ag) : (b.modAg n g f).cfg = b.cfg := rfl
@[simp] theorem Blk.modAg_modEv (n g : Nat) (f : Ag → Ag) : (b.modAg n g f).modEv = b.modEv := rfl
@[simp] theorem Blk.modAg_evSeq (n g : Nat) (f : Ag → Ag) : (b.modAg n g f).evSeq = b.evSeq := rfl

@[simp] theorem Blk.modVe_out (n : Nat) (f : Ve → Ve) : (b.modVe n f).out = b.out := rfl
@[simp] theorem Blk.modVe_freeCtr (n : Nat) (f : Ve → Ve) : (b.modVe n f).freeCtr = b.freeCtr := rfl
@[simp] theorem Blk.modVe_sevMin (n : Nat) (f : Ve → Ve) : (b.modVe n f).sevMin = b.sevMin := rfl
@[simp] theorem Blk.modVe_now (n : Nat) (f : Ve → Ve) : (b.modVe n f).now = b.now := rfl
@[simp] theorem Blk.modVe_pend (n : Nat) (f : Ve → Ve) : (b.modVe n f).pend = b.pend := rfl
@[simp] theorem Blk.modVe_pwr (n : Nat) (f : Ve → Ve) : (b.modVe n f).pwr = b.pwr := rfl
@[simp] theorem Blk.modVe_tide (n : Nat) (f : Ve → Ve) : (b.modVe n f).tide = b.tide := rfl
@[simp] theorem Blk.modVe_xing (n : Nat) (f : Ve → Ve) : (b.modVe n f).xing = b.xing := rfl
@[simp] theorem Blk.modVe_pan (n : Nat) (f : Ve → Ve) : (b.modVe n f).pan = b.pan := rfl
@[simp] theorem Blk.modVe_mc (n : Nat) (f : Ve → Ve) : (b.modVe n f).mc = b.mc := rfl
@[simp] theorem Blk.modVe_repairs (n : Nat) (f : Ve → Ve) : (b.modVe n f).repairs = b.repairs := rfl
@[simp] theorem Blk.modVe_slu (n : Nat) (f : Ve → Ve) : (b.modVe n f).slu = b.slu := rfl
@[simp] theorem Blk.modVe_arbs (n : Nat) (f : Ve → Ve) : (b.modVe n f).arbs = b.arbs := rfl
@[simp] theorem Blk.modVe_ctxs (n : Nat) (f : Ve → Ve) : (b.modVe n f).ctxs = b.ctxs := rfl
@[simp] theorem Blk.modVe_me (n : Nat) (f : Ve → Ve) : (b.modVe n f).me = b.me := rfl
@[simp] theorem Blk.modVe_ve (n : Nat) (f : Ve → Ve) : (b.modVe n f).ve = b.ve.set n (f (b.veOf n)) := rfl
@[simp] theorem Blk.modVe_rk (n : Nat) (f : Ve → Ve) : (b.modVe n f).rk = b.rk := rfl
@[simp] theorem Blk.modVe_strm (n : Nat) (f : Ve → Ve) : (b.modVe n f).strm = b.strm := rfl
@[simp] theorem Blk.modVe_recs (n : Nat) (f : Ve → Ve) : (b.modVe n f).recs = b.recs := rfl
@[simp] theorem Blk.modVe_held (n : Nat) (f : Ve → Ve) : (b.modVe n f).held = b.held := rfl
@[simp] theorem Blk.modVe_recFull (n : Nat) (f : Ve → Ve) : (b.modVe n f).recFull = b.recFull := rfl
@[simp] theorem Blk.modVe_wins (n : Nat) (f : Ve → Ve) : (b.modVe n f).wins = b.wins := rfl
@[simp] theorem Blk.modVe_ports (n : Nat) (f : Ve → Ve) : (b.modVe n f).ports = b.ports := rfl
@[simp] theorem Blk.modVe_colls (n : Nat) (f : Ve → Ve) : (b.modVe n f).colls = b.colls := rfl
@[simp] theorem Blk.modVe_ces (n : Nat) (f : Ve → Ve) : (b.modVe n f).ces = b.ces := rfl
@[simp] theorem Blk.modVe_heldShards (n : Nat) (f : Ve → Ve) : (b.modVe n f).heldShards = b.heldShards := rfl
@[simp] theorem Blk.modVe_rst (n : Nat) (f : Ve → Ve) : (b.modVe n f).rst = b.rst := rfl
@[simp] theorem Blk.modVe_sec (n : Nat) (f : Ve → Ve) : (b.modVe n f).sec = b.sec := rfl
@[simp] theorem Blk.modVe_store (n : Nat) (f : Ve → Ve) : (b.modVe n f).store = b.store := rfl
@[simp] theorem Blk.modVe_mgt (n : Nat) (f : Ve → Ve) : (b.modVe n f).mgt = b.mgt := rfl
@[simp] theorem Blk.modVe_mon (n : Nat) (f : Ve → Ve) : (b.modVe n f).mon = b.mon := rfl
@[simp] theorem Blk.modVe_tst (n : Nat) (f : Ve → Ve) : (b.modVe n f).tst = b.tst := rfl
@[simp] theorem Blk.modVe_spare (n : Nat) (f : Ve → Ve) : (b.modVe n f).spare = b.spare := rfl
@[simp] theorem Blk.modVe_cfg (n : Nat) (f : Ve → Ve) : (b.modVe n f).cfg = b.cfg := rfl
@[simp] theorem Blk.modVe_modEv (n : Nat) (f : Ve → Ve) : (b.modVe n f).modEv = b.modEv := rfl
@[simp] theorem Blk.modVe_evSeq (n : Nat) (f : Ve → Ve) : (b.modVe n f).evSeq = b.evSeq := rfl

@[simp] theorem Blk.modRk_out (n : Nat) (f : Rk → Rk) : (b.modRk n f).out = b.out := rfl
@[simp] theorem Blk.modRk_freeCtr (n : Nat) (f : Rk → Rk) : (b.modRk n f).freeCtr = b.freeCtr := rfl
@[simp] theorem Blk.modRk_sevMin (n : Nat) (f : Rk → Rk) : (b.modRk n f).sevMin = b.sevMin := rfl
@[simp] theorem Blk.modRk_now (n : Nat) (f : Rk → Rk) : (b.modRk n f).now = b.now := rfl
@[simp] theorem Blk.modRk_pend (n : Nat) (f : Rk → Rk) : (b.modRk n f).pend = b.pend := rfl
@[simp] theorem Blk.modRk_pwr (n : Nat) (f : Rk → Rk) : (b.modRk n f).pwr = b.pwr := rfl
@[simp] theorem Blk.modRk_tide (n : Nat) (f : Rk → Rk) : (b.modRk n f).tide = b.tide := rfl
@[simp] theorem Blk.modRk_xing (n : Nat) (f : Rk → Rk) : (b.modRk n f).xing = b.xing := rfl
@[simp] theorem Blk.modRk_pan (n : Nat) (f : Rk → Rk) : (b.modRk n f).pan = b.pan := rfl
@[simp] theorem Blk.modRk_mc (n : Nat) (f : Rk → Rk) : (b.modRk n f).mc = b.mc := rfl
@[simp] theorem Blk.modRk_repairs (n : Nat) (f : Rk → Rk) : (b.modRk n f).repairs = b.repairs := rfl
@[simp] theorem Blk.modRk_slu (n : Nat) (f : Rk → Rk) : (b.modRk n f).slu = b.slu := rfl
@[simp] theorem Blk.modRk_arbs (n : Nat) (f : Rk → Rk) : (b.modRk n f).arbs = b.arbs := rfl
@[simp] theorem Blk.modRk_ctxs (n : Nat) (f : Rk → Rk) : (b.modRk n f).ctxs = b.ctxs := rfl
@[simp] theorem Blk.modRk_me (n : Nat) (f : Rk → Rk) : (b.modRk n f).me = b.me := rfl
@[simp] theorem Blk.modRk_ve (n : Nat) (f : Rk → Rk) : (b.modRk n f).ve = b.ve := rfl
@[simp] theorem Blk.modRk_rk (n : Nat) (f : Rk → Rk) : (b.modRk n f).rk = b.rk.set n (f (b.rkOf n)) := rfl
@[simp] theorem Blk.modRk_strm (n : Nat) (f : Rk → Rk) : (b.modRk n f).strm = b.strm := rfl
@[simp] theorem Blk.modRk_recs (n : Nat) (f : Rk → Rk) : (b.modRk n f).recs = b.recs := rfl
@[simp] theorem Blk.modRk_held (n : Nat) (f : Rk → Rk) : (b.modRk n f).held = b.held := rfl
@[simp] theorem Blk.modRk_recFull (n : Nat) (f : Rk → Rk) : (b.modRk n f).recFull = b.recFull := rfl
@[simp] theorem Blk.modRk_wins (n : Nat) (f : Rk → Rk) : (b.modRk n f).wins = b.wins := rfl
@[simp] theorem Blk.modRk_ports (n : Nat) (f : Rk → Rk) : (b.modRk n f).ports = b.ports := rfl
@[simp] theorem Blk.modRk_colls (n : Nat) (f : Rk → Rk) : (b.modRk n f).colls = b.colls := rfl
@[simp] theorem Blk.modRk_ces (n : Nat) (f : Rk → Rk) : (b.modRk n f).ces = b.ces := rfl
@[simp] theorem Blk.modRk_heldShards (n : Nat) (f : Rk → Rk) : (b.modRk n f).heldShards = b.heldShards := rfl
@[simp] theorem Blk.modRk_rst (n : Nat) (f : Rk → Rk) : (b.modRk n f).rst = b.rst := rfl
@[simp] theorem Blk.modRk_sec (n : Nat) (f : Rk → Rk) : (b.modRk n f).sec = b.sec := rfl
@[simp] theorem Blk.modRk_store (n : Nat) (f : Rk → Rk) : (b.modRk n f).store = b.store := rfl
@[simp] theorem Blk.modRk_mgt (n : Nat) (f : Rk → Rk) : (b.modRk n f).mgt = b.mgt := rfl
@[simp] theorem Blk.modRk_mon (n : Nat) (f : Rk → Rk) : (b.modRk n f).mon = b.mon := rfl
@[simp] theorem Blk.modRk_tst (n : Nat) (f : Rk → Rk) : (b.modRk n f).tst = b.tst := rfl
@[simp] theorem Blk.modRk_spare (n : Nat) (f : Rk → Rk) : (b.modRk n f).spare = b.spare := rfl
@[simp] theorem Blk.modRk_cfg (n : Nat) (f : Rk → Rk) : (b.modRk n f).cfg = b.cfg := rfl
@[simp] theorem Blk.modRk_modEv (n : Nat) (f : Rk → Rk) : (b.modRk n f).modEv = b.modEv := rfl
@[simp] theorem Blk.modRk_evSeq (n : Nat) (f : Rk → Rk) : (b.modRk n f).evSeq = b.evSeq := rfl

@[simp] theorem Blk.setStrm_out (n : Nat) (x : Strm) : (b.setStrm n x).out = b.out := rfl
@[simp] theorem Blk.setStrm_freeCtr (n : Nat) (x : Strm) : (b.setStrm n x).freeCtr = b.freeCtr := rfl
@[simp] theorem Blk.setStrm_sevMin (n : Nat) (x : Strm) : (b.setStrm n x).sevMin = b.sevMin := rfl
@[simp] theorem Blk.setStrm_now (n : Nat) (x : Strm) : (b.setStrm n x).now = b.now := rfl
@[simp] theorem Blk.setStrm_pend (n : Nat) (x : Strm) : (b.setStrm n x).pend = b.pend := rfl
@[simp] theorem Blk.setStrm_pwr (n : Nat) (x : Strm) : (b.setStrm n x).pwr = b.pwr := rfl
@[simp] theorem Blk.setStrm_tide (n : Nat) (x : Strm) : (b.setStrm n x).tide = b.tide := rfl
@[simp] theorem Blk.setStrm_xing (n : Nat) (x : Strm) : (b.setStrm n x).xing = b.xing := rfl
@[simp] theorem Blk.setStrm_pan (n : Nat) (x : Strm) : (b.setStrm n x).pan = b.pan := rfl
@[simp] theorem Blk.setStrm_mc (n : Nat) (x : Strm) : (b.setStrm n x).mc = b.mc := rfl
@[simp] theorem Blk.setStrm_repairs (n : Nat) (x : Strm) : (b.setStrm n x).repairs = b.repairs := rfl
@[simp] theorem Blk.setStrm_slu (n : Nat) (x : Strm) : (b.setStrm n x).slu = b.slu := rfl
@[simp] theorem Blk.setStrm_arbs (n : Nat) (x : Strm) : (b.setStrm n x).arbs = b.arbs := rfl
@[simp] theorem Blk.setStrm_ctxs (n : Nat) (x : Strm) : (b.setStrm n x).ctxs = b.ctxs := rfl
@[simp] theorem Blk.setStrm_me (n : Nat) (x : Strm) : (b.setStrm n x).me = b.me := rfl
@[simp] theorem Blk.setStrm_ve (n : Nat) (x : Strm) : (b.setStrm n x).ve = b.ve := rfl
@[simp] theorem Blk.setStrm_rk (n : Nat) (x : Strm) : (b.setStrm n x).rk = b.rk := rfl
@[simp] theorem Blk.setStrm_strm (n : Nat) (x : Strm) : (b.setStrm n x).strm = b.strm.set n x := rfl
@[simp] theorem Blk.setStrm_recs (n : Nat) (x : Strm) : (b.setStrm n x).recs = b.recs := rfl
@[simp] theorem Blk.setStrm_held (n : Nat) (x : Strm) : (b.setStrm n x).held = b.held := rfl
@[simp] theorem Blk.setStrm_recFull (n : Nat) (x : Strm) : (b.setStrm n x).recFull = b.recFull := rfl
@[simp] theorem Blk.setStrm_wins (n : Nat) (x : Strm) : (b.setStrm n x).wins = b.wins := rfl
@[simp] theorem Blk.setStrm_ports (n : Nat) (x : Strm) : (b.setStrm n x).ports = b.ports := rfl
@[simp] theorem Blk.setStrm_colls (n : Nat) (x : Strm) : (b.setStrm n x).colls = b.colls := rfl
@[simp] theorem Blk.setStrm_ces (n : Nat) (x : Strm) : (b.setStrm n x).ces = b.ces := rfl
@[simp] theorem Blk.setStrm_heldShards (n : Nat) (x : Strm) : (b.setStrm n x).heldShards = b.heldShards := rfl
@[simp] theorem Blk.setStrm_rst (n : Nat) (x : Strm) : (b.setStrm n x).rst = b.rst := rfl
@[simp] theorem Blk.setStrm_sec (n : Nat) (x : Strm) : (b.setStrm n x).sec = b.sec := rfl
@[simp] theorem Blk.setStrm_store (n : Nat) (x : Strm) : (b.setStrm n x).store = b.store := rfl
@[simp] theorem Blk.setStrm_mgt (n : Nat) (x : Strm) : (b.setStrm n x).mgt = b.mgt := rfl
@[simp] theorem Blk.setStrm_mon (n : Nat) (x : Strm) : (b.setStrm n x).mon = b.mon := rfl
@[simp] theorem Blk.setStrm_tst (n : Nat) (x : Strm) : (b.setStrm n x).tst = b.tst := rfl
@[simp] theorem Blk.setStrm_spare (n : Nat) (x : Strm) : (b.setStrm n x).spare = b.spare := rfl
@[simp] theorem Blk.setStrm_cfg (n : Nat) (x : Strm) : (b.setStrm n x).cfg = b.cfg := rfl
@[simp] theorem Blk.setStrm_modEv (n : Nat) (x : Strm) : (b.setStrm n x).modEv = b.modEv := rfl
@[simp] theorem Blk.setStrm_evSeq (n : Nat) (x : Strm) : (b.setStrm n x).evSeq = b.evSeq := rfl

@[simp] theorem Blk.modStrm_out (n : Nat) (f : Strm → Strm) : (b.modStrm n f).out = b.out := rfl
@[simp] theorem Blk.modStrm_freeCtr (n : Nat) (f : Strm → Strm) : (b.modStrm n f).freeCtr = b.freeCtr := rfl
@[simp] theorem Blk.modStrm_sevMin (n : Nat) (f : Strm → Strm) : (b.modStrm n f).sevMin = b.sevMin := rfl
@[simp] theorem Blk.modStrm_now (n : Nat) (f : Strm → Strm) : (b.modStrm n f).now = b.now := rfl
@[simp] theorem Blk.modStrm_pend (n : Nat) (f : Strm → Strm) : (b.modStrm n f).pend = b.pend := rfl
@[simp] theorem Blk.modStrm_pwr (n : Nat) (f : Strm → Strm) : (b.modStrm n f).pwr = b.pwr := rfl
@[simp] theorem Blk.modStrm_tide (n : Nat) (f : Strm → Strm) : (b.modStrm n f).tide = b.tide := rfl
@[simp] theorem Blk.modStrm_xing (n : Nat) (f : Strm → Strm) : (b.modStrm n f).xing = b.xing := rfl
@[simp] theorem Blk.modStrm_pan (n : Nat) (f : Strm → Strm) : (b.modStrm n f).pan = b.pan := rfl
@[simp] theorem Blk.modStrm_mc (n : Nat) (f : Strm → Strm) : (b.modStrm n f).mc = b.mc := rfl
@[simp] theorem Blk.modStrm_repairs (n : Nat) (f : Strm → Strm) : (b.modStrm n f).repairs = b.repairs := rfl
@[simp] theorem Blk.modStrm_slu (n : Nat) (f : Strm → Strm) : (b.modStrm n f).slu = b.slu := rfl
@[simp] theorem Blk.modStrm_arbs (n : Nat) (f : Strm → Strm) : (b.modStrm n f).arbs = b.arbs := rfl
@[simp] theorem Blk.modStrm_ctxs (n : Nat) (f : Strm → Strm) : (b.modStrm n f).ctxs = b.ctxs := rfl
@[simp] theorem Blk.modStrm_me (n : Nat) (f : Strm → Strm) : (b.modStrm n f).me = b.me := rfl
@[simp] theorem Blk.modStrm_ve (n : Nat) (f : Strm → Strm) : (b.modStrm n f).ve = b.ve := rfl
@[simp] theorem Blk.modStrm_rk (n : Nat) (f : Strm → Strm) : (b.modStrm n f).rk = b.rk := rfl
@[simp] theorem Blk.modStrm_strm (n : Nat) (f : Strm → Strm) : (b.modStrm n f).strm = b.strm.set n (f (b.strmOf n)) := rfl
@[simp] theorem Blk.modStrm_recs (n : Nat) (f : Strm → Strm) : (b.modStrm n f).recs = b.recs := rfl
@[simp] theorem Blk.modStrm_held (n : Nat) (f : Strm → Strm) : (b.modStrm n f).held = b.held := rfl
@[simp] theorem Blk.modStrm_recFull (n : Nat) (f : Strm → Strm) : (b.modStrm n f).recFull = b.recFull := rfl
@[simp] theorem Blk.modStrm_wins (n : Nat) (f : Strm → Strm) : (b.modStrm n f).wins = b.wins := rfl
@[simp] theorem Blk.modStrm_ports (n : Nat) (f : Strm → Strm) : (b.modStrm n f).ports = b.ports := rfl
@[simp] theorem Blk.modStrm_colls (n : Nat) (f : Strm → Strm) : (b.modStrm n f).colls = b.colls := rfl
@[simp] theorem Blk.modStrm_ces (n : Nat) (f : Strm → Strm) : (b.modStrm n f).ces = b.ces := rfl
@[simp] theorem Blk.modStrm_heldShards (n : Nat) (f : Strm → Strm) : (b.modStrm n f).heldShards = b.heldShards := rfl
@[simp] theorem Blk.modStrm_rst (n : Nat) (f : Strm → Strm) : (b.modStrm n f).rst = b.rst := rfl
@[simp] theorem Blk.modStrm_sec (n : Nat) (f : Strm → Strm) : (b.modStrm n f).sec = b.sec := rfl
@[simp] theorem Blk.modStrm_store (n : Nat) (f : Strm → Strm) : (b.modStrm n f).store = b.store := rfl
@[simp] theorem Blk.modStrm_mgt (n : Nat) (f : Strm → Strm) : (b.modStrm n f).mgt = b.mgt := rfl
@[simp] theorem Blk.modStrm_mon (n : Nat) (f : Strm → Strm) : (b.modStrm n f).mon = b.mon := rfl
@[simp] theorem Blk.modStrm_tst (n : Nat) (f : Strm → Strm) : (b.modStrm n f).tst = b.tst := rfl
@[simp] theorem Blk.modStrm_spare (n : Nat) (f : Strm → Strm) : (b.modStrm n f).spare = b.spare := rfl
@[simp] theorem Blk.modStrm_cfg (n : Nat) (f : Strm → Strm) : (b.modStrm n f).cfg = b.cfg := rfl
@[simp] theorem Blk.modStrm_modEv (n : Nat) (f : Strm → Strm) : (b.modStrm n f).modEv = b.modEv := rfl
@[simp] theorem Blk.modStrm_evSeq (n : Nat) (f : Strm → Strm) : (b.modStrm n f).evSeq = b.evSeq := rfl

@[simp] theorem Blk.modPort_out (n : Nat) (f : Port → Port) : (b.modPort n f).out = b.out := rfl
@[simp] theorem Blk.modPort_freeCtr (n : Nat) (f : Port → Port) : (b.modPort n f).freeCtr = b.freeCtr := rfl
@[simp] theorem Blk.modPort_sevMin (n : Nat) (f : Port → Port) : (b.modPort n f).sevMin = b.sevMin := rfl
@[simp] theorem Blk.modPort_now (n : Nat) (f : Port → Port) : (b.modPort n f).now = b.now := rfl
@[simp] theorem Blk.modPort_pend (n : Nat) (f : Port → Port) : (b.modPort n f).pend = b.pend := rfl
@[simp] theorem Blk.modPort_pwr (n : Nat) (f : Port → Port) : (b.modPort n f).pwr = b.pwr := rfl
@[simp] theorem Blk.modPort_tide (n : Nat) (f : Port → Port) : (b.modPort n f).tide = b.tide := rfl
@[simp] theorem Blk.modPort_xing (n : Nat) (f : Port → Port) : (b.modPort n f).xing = b.xing := rfl
@[simp] theorem Blk.modPort_pan (n : Nat) (f : Port → Port) : (b.modPort n f).pan = b.pan := rfl
@[simp] theorem Blk.modPort_mc (n : Nat) (f : Port → Port) : (b.modPort n f).mc = b.mc := rfl
@[simp] theorem Blk.modPort_repairs (n : Nat) (f : Port → Port) : (b.modPort n f).repairs = b.repairs := rfl
@[simp] theorem Blk.modPort_slu (n : Nat) (f : Port → Port) : (b.modPort n f).slu = b.slu := rfl
@[simp] theorem Blk.modPort_arbs (n : Nat) (f : Port → Port) : (b.modPort n f).arbs = b.arbs := rfl
@[simp] theorem Blk.modPort_ctxs (n : Nat) (f : Port → Port) : (b.modPort n f).ctxs = b.ctxs := rfl
@[simp] theorem Blk.modPort_me (n : Nat) (f : Port → Port) : (b.modPort n f).me = b.me := rfl
@[simp] theorem Blk.modPort_ve (n : Nat) (f : Port → Port) : (b.modPort n f).ve = b.ve := rfl
@[simp] theorem Blk.modPort_rk (n : Nat) (f : Port → Port) : (b.modPort n f).rk = b.rk := rfl
@[simp] theorem Blk.modPort_strm (n : Nat) (f : Port → Port) : (b.modPort n f).strm = b.strm := rfl
@[simp] theorem Blk.modPort_recs (n : Nat) (f : Port → Port) : (b.modPort n f).recs = b.recs := rfl
@[simp] theorem Blk.modPort_held (n : Nat) (f : Port → Port) : (b.modPort n f).held = b.held := rfl
@[simp] theorem Blk.modPort_recFull (n : Nat) (f : Port → Port) : (b.modPort n f).recFull = b.recFull := rfl
@[simp] theorem Blk.modPort_wins (n : Nat) (f : Port → Port) : (b.modPort n f).wins = b.wins := rfl
@[simp] theorem Blk.modPort_ports (n : Nat) (f : Port → Port) : (b.modPort n f).ports = b.ports.set n (f (b.portOf n)) := rfl
@[simp] theorem Blk.modPort_colls (n : Nat) (f : Port → Port) : (b.modPort n f).colls = b.colls := rfl
@[simp] theorem Blk.modPort_ces (n : Nat) (f : Port → Port) : (b.modPort n f).ces = b.ces := rfl
@[simp] theorem Blk.modPort_heldShards (n : Nat) (f : Port → Port) : (b.modPort n f).heldShards = b.heldShards := rfl
@[simp] theorem Blk.modPort_rst (n : Nat) (f : Port → Port) : (b.modPort n f).rst = b.rst := rfl
@[simp] theorem Blk.modPort_sec (n : Nat) (f : Port → Port) : (b.modPort n f).sec = b.sec := rfl
@[simp] theorem Blk.modPort_store (n : Nat) (f : Port → Port) : (b.modPort n f).store = b.store := rfl
@[simp] theorem Blk.modPort_mgt (n : Nat) (f : Port → Port) : (b.modPort n f).mgt = b.mgt := rfl
@[simp] theorem Blk.modPort_mon (n : Nat) (f : Port → Port) : (b.modPort n f).mon = b.mon := rfl
@[simp] theorem Blk.modPort_tst (n : Nat) (f : Port → Port) : (b.modPort n f).tst = b.tst := rfl
@[simp] theorem Blk.modPort_spare (n : Nat) (f : Port → Port) : (b.modPort n f).spare = b.spare := rfl
@[simp] theorem Blk.modPort_cfg (n : Nat) (f : Port → Port) : (b.modPort n f).cfg = b.cfg := rfl
@[simp] theorem Blk.modPort_modEv (n : Nat) (f : Port → Port) : (b.modPort n f).modEv = b.modEv := rfl
@[simp] theorem Blk.modPort_evSeq (n : Nat) (f : Port → Port) : (b.modPort n f).evSeq = b.evSeq := rfl

@[simp] theorem Blk.modWin_out (n : Nat) (f : Win → Win) : (b.modWin n f).out = b.out := rfl
@[simp] theorem Blk.modWin_freeCtr (n : Nat) (f : Win → Win) : (b.modWin n f).freeCtr = b.freeCtr := rfl
@[simp] theorem Blk.modWin_sevMin (n : Nat) (f : Win → Win) : (b.modWin n f).sevMin = b.sevMin := rfl
@[simp] theorem Blk.modWin_now (n : Nat) (f : Win → Win) : (b.modWin n f).now = b.now := rfl
@[simp] theorem Blk.modWin_pend (n : Nat) (f : Win → Win) : (b.modWin n f).pend = b.pend := rfl
@[simp] theorem Blk.modWin_pwr (n : Nat) (f : Win → Win) : (b.modWin n f).pwr = b.pwr := rfl
@[simp] theorem Blk.modWin_tide (n : Nat) (f : Win → Win) : (b.modWin n f).tide = b.tide := rfl
@[simp] theorem Blk.modWin_xing (n : Nat) (f : Win → Win) : (b.modWin n f).xing = b.xing := rfl
@[simp] theorem Blk.modWin_pan (n : Nat) (f : Win → Win) : (b.modWin n f).pan = b.pan := rfl
@[simp] theorem Blk.modWin_mc (n : Nat) (f : Win → Win) : (b.modWin n f).mc = b.mc := rfl
@[simp] theorem Blk.modWin_repairs (n : Nat) (f : Win → Win) : (b.modWin n f).repairs = b.repairs := rfl
@[simp] theorem Blk.modWin_slu (n : Nat) (f : Win → Win) : (b.modWin n f).slu = b.slu := rfl
@[simp] theorem Blk.modWin_arbs (n : Nat) (f : Win → Win) : (b.modWin n f).arbs = b.arbs := rfl
@[simp] theorem Blk.modWin_ctxs (n : Nat) (f : Win → Win) : (b.modWin n f).ctxs = b.ctxs := rfl
@[simp] theorem Blk.modWin_me (n : Nat) (f : Win → Win) : (b.modWin n f).me = b.me := rfl
@[simp] theorem Blk.modWin_ve (n : Nat) (f : Win → Win) : (b.modWin n f).ve = b.ve := rfl
@[simp] theorem Blk.modWin_rk (n : Nat) (f : Win → Win) : (b.modWin n f).rk = b.rk := rfl
@[simp] theorem Blk.modWin_strm (n : Nat) (f : Win → Win) : (b.modWin n f).strm = b.strm := rfl
@[simp] theorem Blk.modWin_recs (n : Nat) (f : Win → Win) : (b.modWin n f).recs = b.recs := rfl
@[simp] theorem Blk.modWin_held (n : Nat) (f : Win → Win) : (b.modWin n f).held = b.held := rfl
@[simp] theorem Blk.modWin_recFull (n : Nat) (f : Win → Win) : (b.modWin n f).recFull = b.recFull := rfl
@[simp] theorem Blk.modWin_wins (n : Nat) (f : Win → Win) : (b.modWin n f).wins = b.wins.set n (f (b.winOf n)) := rfl
@[simp] theorem Blk.modWin_ports (n : Nat) (f : Win → Win) : (b.modWin n f).ports = b.ports := rfl
@[simp] theorem Blk.modWin_colls (n : Nat) (f : Win → Win) : (b.modWin n f).colls = b.colls := rfl
@[simp] theorem Blk.modWin_ces (n : Nat) (f : Win → Win) : (b.modWin n f).ces = b.ces := rfl
@[simp] theorem Blk.modWin_heldShards (n : Nat) (f : Win → Win) : (b.modWin n f).heldShards = b.heldShards := rfl
@[simp] theorem Blk.modWin_rst (n : Nat) (f : Win → Win) : (b.modWin n f).rst = b.rst := rfl
@[simp] theorem Blk.modWin_sec (n : Nat) (f : Win → Win) : (b.modWin n f).sec = b.sec := rfl
@[simp] theorem Blk.modWin_store (n : Nat) (f : Win → Win) : (b.modWin n f).store = b.store := rfl
@[simp] theorem Blk.modWin_mgt (n : Nat) (f : Win → Win) : (b.modWin n f).mgt = b.mgt := rfl
@[simp] theorem Blk.modWin_mon (n : Nat) (f : Win → Win) : (b.modWin n f).mon = b.mon := rfl
@[simp] theorem Blk.modWin_tst (n : Nat) (f : Win → Win) : (b.modWin n f).tst = b.tst := rfl
@[simp] theorem Blk.modWin_spare (n : Nat) (f : Win → Win) : (b.modWin n f).spare = b.spare := rfl
@[simp] theorem Blk.modWin_cfg (n : Nat) (f : Win → Win) : (b.modWin n f).cfg = b.cfg := rfl
@[simp] theorem Blk.modWin_modEv (n : Nat) (f : Win → Win) : (b.modWin n f).modEv = b.modEv := rfl
@[simp] theorem Blk.modWin_evSeq (n : Nat) (f : Win → Win) : (b.modWin n f).evSeq = b.evSeq := rfl

@[simp] theorem Blk.modCe_out (n : Nat) (f : Ce → Ce) : (b.modCe n f).out = b.out := rfl
@[simp] theorem Blk.modCe_freeCtr (n : Nat) (f : Ce → Ce) : (b.modCe n f).freeCtr = b.freeCtr := rfl
@[simp] theorem Blk.modCe_sevMin (n : Nat) (f : Ce → Ce) : (b.modCe n f).sevMin = b.sevMin := rfl
@[simp] theorem Blk.modCe_now (n : Nat) (f : Ce → Ce) : (b.modCe n f).now = b.now := rfl
@[simp] theorem Blk.modCe_pend (n : Nat) (f : Ce → Ce) : (b.modCe n f).pend = b.pend := rfl
@[simp] theorem Blk.modCe_pwr (n : Nat) (f : Ce → Ce) : (b.modCe n f).pwr = b.pwr := rfl
@[simp] theorem Blk.modCe_tide (n : Nat) (f : Ce → Ce) : (b.modCe n f).tide = b.tide := rfl
@[simp] theorem Blk.modCe_xing (n : Nat) (f : Ce → Ce) : (b.modCe n f).xing = b.xing := rfl
@[simp] theorem Blk.modCe_pan (n : Nat) (f : Ce → Ce) : (b.modCe n f).pan = b.pan := rfl
@[simp] theorem Blk.modCe_mc (n : Nat) (f : Ce → Ce) : (b.modCe n f).mc = b.mc := rfl
@[simp] theorem Blk.modCe_repairs (n : Nat) (f : Ce → Ce) : (b.modCe n f).repairs = b.repairs := rfl
@[simp] theorem Blk.modCe_slu (n : Nat) (f : Ce → Ce) : (b.modCe n f).slu = b.slu := rfl
@[simp] theorem Blk.modCe_arbs (n : Nat) (f : Ce → Ce) : (b.modCe n f).arbs = b.arbs := rfl
@[simp] theorem Blk.modCe_ctxs (n : Nat) (f : Ce → Ce) : (b.modCe n f).ctxs = b.ctxs := rfl
@[simp] theorem Blk.modCe_me (n : Nat) (f : Ce → Ce) : (b.modCe n f).me = b.me := rfl
@[simp] theorem Blk.modCe_ve (n : Nat) (f : Ce → Ce) : (b.modCe n f).ve = b.ve := rfl
@[simp] theorem Blk.modCe_rk (n : Nat) (f : Ce → Ce) : (b.modCe n f).rk = b.rk := rfl
@[simp] theorem Blk.modCe_strm (n : Nat) (f : Ce → Ce) : (b.modCe n f).strm = b.strm := rfl
@[simp] theorem Blk.modCe_recs (n : Nat) (f : Ce → Ce) : (b.modCe n f).recs = b.recs := rfl
@[simp] theorem Blk.modCe_held (n : Nat) (f : Ce → Ce) : (b.modCe n f).held = b.held := rfl
@[simp] theorem Blk.modCe_recFull (n : Nat) (f : Ce → Ce) : (b.modCe n f).recFull = b.recFull := rfl
@[simp] theorem Blk.modCe_wins (n : Nat) (f : Ce → Ce) : (b.modCe n f).wins = b.wins := rfl
@[simp] theorem Blk.modCe_ports (n : Nat) (f : Ce → Ce) : (b.modCe n f).ports = b.ports := rfl
@[simp] theorem Blk.modCe_colls (n : Nat) (f : Ce → Ce) : (b.modCe n f).colls = b.colls := rfl
@[simp] theorem Blk.modCe_ces (n : Nat) (f : Ce → Ce) : (b.modCe n f).ces = b.ces.set n (f (b.ceOf n)) := rfl
@[simp] theorem Blk.modCe_heldShards (n : Nat) (f : Ce → Ce) : (b.modCe n f).heldShards = b.heldShards := rfl
@[simp] theorem Blk.modCe_rst (n : Nat) (f : Ce → Ce) : (b.modCe n f).rst = b.rst := rfl
@[simp] theorem Blk.modCe_sec (n : Nat) (f : Ce → Ce) : (b.modCe n f).sec = b.sec := rfl
@[simp] theorem Blk.modCe_store (n : Nat) (f : Ce → Ce) : (b.modCe n f).store = b.store := rfl
@[simp] theorem Blk.modCe_mgt (n : Nat) (f : Ce → Ce) : (b.modCe n f).mgt = b.mgt := rfl
@[simp] theorem Blk.modCe_mon (n : Nat) (f : Ce → Ce) : (b.modCe n f).mon = b.mon := rfl
@[simp] theorem Blk.modCe_tst (n : Nat) (f : Ce → Ce) : (b.modCe n f).tst = b.tst := rfl
@[simp] theorem Blk.modCe_spare (n : Nat) (f : Ce → Ce) : (b.modCe n f).spare = b.spare := rfl
@[simp] theorem Blk.modCe_cfg (n : Nat) (f : Ce → Ce) : (b.modCe n f).cfg = b.cfg := rfl
@[simp] theorem Blk.modCe_modEv (n : Nat) (f : Ce → Ce) : (b.modCe n f).modEv = b.modEv := rfl
@[simp] theorem Blk.modCe_evSeq (n : Nat) (f : Ce → Ce) : (b.modCe n f).evSeq = b.evSeq := rfl

@[simp] theorem Blk.modXing_out (p : Pan) (f : Crossing → Crossing) : (b.modXing p f).out = b.out := rfl
@[simp] theorem Blk.modXing_freeCtr (p : Pan) (f : Crossing → Crossing) : (b.modXing p f).freeCtr = b.freeCtr := rfl
@[simp] theorem Blk.modXing_sevMin (p : Pan) (f : Crossing → Crossing) : (b.modXing p f).sevMin = b.sevMin := rfl
@[simp] theorem Blk.modXing_now (p : Pan) (f : Crossing → Crossing) : (b.modXing p f).now = b.now := rfl
@[simp] theorem Blk.modXing_pend (p : Pan) (f : Crossing → Crossing) : (b.modXing p f).pend = b.pend := rfl
@[simp] theorem Blk.modXing_pwr (p : Pan) (f : Crossing → Crossing) : (b.modXing p f).pwr = b.pwr := rfl
@[simp] theorem Blk.modXing_tide (p : Pan) (f : Crossing → Crossing) : (b.modXing p f).tide = b.tide := rfl
@[simp] theorem Blk.modXing_xing (p : Pan) (f : Crossing → Crossing) : (b.modXing p f).xing = b.xing.set p (f (b.xingOf p)) := rfl
@[simp] theorem Blk.modXing_pan (p : Pan) (f : Crossing → Crossing) : (b.modXing p f).pan = b.pan := rfl
@[simp] theorem Blk.modXing_mc (p : Pan) (f : Crossing → Crossing) : (b.modXing p f).mc = b.mc := rfl
@[simp] theorem Blk.modXing_repairs (p : Pan) (f : Crossing → Crossing) : (b.modXing p f).repairs = b.repairs := rfl
@[simp] theorem Blk.modXing_slu (p : Pan) (f : Crossing → Crossing) : (b.modXing p f).slu = b.slu := rfl
@[simp] theorem Blk.modXing_arbs (p : Pan) (f : Crossing → Crossing) : (b.modXing p f).arbs = b.arbs := rfl
@[simp] theorem Blk.modXing_ctxs (p : Pan) (f : Crossing → Crossing) : (b.modXing p f).ctxs = b.ctxs := rfl
@[simp] theorem Blk.modXing_me (p : Pan) (f : Crossing → Crossing) : (b.modXing p f).me = b.me := rfl
@[simp] theorem Blk.modXing_ve (p : Pan) (f : Crossing → Crossing) : (b.modXing p f).ve = b.ve := rfl
@[simp] theorem Blk.modXing_rk (p : Pan) (f : Crossing → Crossing) : (b.modXing p f).rk = b.rk := rfl
@[simp] theorem Blk.modXing_strm (p : Pan) (f : Crossing → Crossing) : (b.modXing p f).strm = b.strm := rfl
@[simp] theorem Blk.modXing_recs (p : Pan) (f : Crossing → Crossing) : (b.modXing p f).recs = b.recs := rfl
@[simp] theorem Blk.modXing_held (p : Pan) (f : Crossing → Crossing) : (b.modXing p f).held = b.held := rfl
@[simp] theorem Blk.modXing_recFull (p : Pan) (f : Crossing → Crossing) : (b.modXing p f).recFull = b.recFull := rfl
@[simp] theorem Blk.modXing_wins (p : Pan) (f : Crossing → Crossing) : (b.modXing p f).wins = b.wins := rfl
@[simp] theorem Blk.modXing_ports (p : Pan) (f : Crossing → Crossing) : (b.modXing p f).ports = b.ports := rfl
@[simp] theorem Blk.modXing_colls (p : Pan) (f : Crossing → Crossing) : (b.modXing p f).colls = b.colls := rfl
@[simp] theorem Blk.modXing_ces (p : Pan) (f : Crossing → Crossing) : (b.modXing p f).ces = b.ces := rfl
@[simp] theorem Blk.modXing_heldShards (p : Pan) (f : Crossing → Crossing) : (b.modXing p f).heldShards = b.heldShards := rfl
@[simp] theorem Blk.modXing_rst (p : Pan) (f : Crossing → Crossing) : (b.modXing p f).rst = b.rst := rfl
@[simp] theorem Blk.modXing_sec (p : Pan) (f : Crossing → Crossing) : (b.modXing p f).sec = b.sec := rfl
@[simp] theorem Blk.modXing_store (p : Pan) (f : Crossing → Crossing) : (b.modXing p f).store = b.store := rfl
@[simp] theorem Blk.modXing_mgt (p : Pan) (f : Crossing → Crossing) : (b.modXing p f).mgt = b.mgt := rfl
@[simp] theorem Blk.modXing_mon (p : Pan) (f : Crossing → Crossing) : (b.modXing p f).mon = b.mon := rfl
@[simp] theorem Blk.modXing_tst (p : Pan) (f : Crossing → Crossing) : (b.modXing p f).tst = b.tst := rfl
@[simp] theorem Blk.modXing_spare (p : Pan) (f : Crossing → Crossing) : (b.modXing p f).spare = b.spare := rfl
@[simp] theorem Blk.modXing_cfg (p : Pan) (f : Crossing → Crossing) : (b.modXing p f).cfg = b.cfg := rfl
@[simp] theorem Blk.modXing_modEv (p : Pan) (f : Crossing → Crossing) : (b.modXing p f).modEv = b.modEv := rfl
@[simp] theorem Blk.modXing_evSeq (p : Pan) (f : Crossing → Crossing) : (b.modXing p f).evSeq = b.evSeq := rfl

@[simp] theorem Blk.modArb_out (a : ArbId) (f : Arb → Arb) : (b.modArb a f).out = b.out := rfl
@[simp] theorem Blk.modArb_freeCtr (a : ArbId) (f : Arb → Arb) : (b.modArb a f).freeCtr = b.freeCtr := rfl
@[simp] theorem Blk.modArb_sevMin (a : ArbId) (f : Arb → Arb) : (b.modArb a f).sevMin = b.sevMin := rfl
@[simp] theorem Blk.modArb_now (a : ArbId) (f : Arb → Arb) : (b.modArb a f).now = b.now := rfl
@[simp] theorem Blk.modArb_pend (a : ArbId) (f : Arb → Arb) : (b.modArb a f).pend = b.pend := rfl
@[simp] theorem Blk.modArb_pwr (a : ArbId) (f : Arb → Arb) : (b.modArb a f).pwr = b.pwr := rfl
@[simp] theorem Blk.modArb_tide (a : ArbId) (f : Arb → Arb) : (b.modArb a f).tide = b.tide := rfl
@[simp] theorem Blk.modArb_xing (a : ArbId) (f : Arb → Arb) : (b.modArb a f).xing = b.xing := rfl
@[simp] theorem Blk.modArb_pan (a : ArbId) (f : Arb → Arb) : (b.modArb a f).pan = b.pan := rfl
@[simp] theorem Blk.modArb_mc (a : ArbId) (f : Arb → Arb) : (b.modArb a f).mc = b.mc := rfl
@[simp] theorem Blk.modArb_repairs (a : ArbId) (f : Arb → Arb) : (b.modArb a f).repairs = b.repairs := rfl
@[simp] theorem Blk.modArb_slu (a : ArbId) (f : Arb → Arb) : (b.modArb a f).slu = b.slu := rfl
@[simp] theorem Blk.modArb_arbs (a : ArbId) (f : Arb → Arb) : (b.modArb a f).arbs = b.arbs.set a.key (f (b.arbOf a)) := rfl
@[simp] theorem Blk.modArb_ctxs (a : ArbId) (f : Arb → Arb) : (b.modArb a f).ctxs = b.ctxs := rfl
@[simp] theorem Blk.modArb_me (a : ArbId) (f : Arb → Arb) : (b.modArb a f).me = b.me := rfl
@[simp] theorem Blk.modArb_ve (a : ArbId) (f : Arb → Arb) : (b.modArb a f).ve = b.ve := rfl
@[simp] theorem Blk.modArb_rk (a : ArbId) (f : Arb → Arb) : (b.modArb a f).rk = b.rk := rfl
@[simp] theorem Blk.modArb_strm (a : ArbId) (f : Arb → Arb) : (b.modArb a f).strm = b.strm := rfl
@[simp] theorem Blk.modArb_recs (a : ArbId) (f : Arb → Arb) : (b.modArb a f).recs = b.recs := rfl
@[simp] theorem Blk.modArb_held (a : ArbId) (f : Arb → Arb) : (b.modArb a f).held = b.held := rfl
@[simp] theorem Blk.modArb_recFull (a : ArbId) (f : Arb → Arb) : (b.modArb a f).recFull = b.recFull := rfl
@[simp] theorem Blk.modArb_wins (a : ArbId) (f : Arb → Arb) : (b.modArb a f).wins = b.wins := rfl
@[simp] theorem Blk.modArb_ports (a : ArbId) (f : Arb → Arb) : (b.modArb a f).ports = b.ports := rfl
@[simp] theorem Blk.modArb_colls (a : ArbId) (f : Arb → Arb) : (b.modArb a f).colls = b.colls := rfl
@[simp] theorem Blk.modArb_ces (a : ArbId) (f : Arb → Arb) : (b.modArb a f).ces = b.ces := rfl
@[simp] theorem Blk.modArb_heldShards (a : ArbId) (f : Arb → Arb) : (b.modArb a f).heldShards = b.heldShards := rfl
@[simp] theorem Blk.modArb_rst (a : ArbId) (f : Arb → Arb) : (b.modArb a f).rst = b.rst := rfl
@[simp] theorem Blk.modArb_sec (a : ArbId) (f : Arb → Arb) : (b.modArb a f).sec = b.sec := rfl
@[simp] theorem Blk.modArb_store (a : ArbId) (f : Arb → Arb) : (b.modArb a f).store = b.store := rfl
@[simp] theorem Blk.modArb_mgt (a : ArbId) (f : Arb → Arb) : (b.modArb a f).mgt = b.mgt := rfl
@[simp] theorem Blk.modArb_mon (a : ArbId) (f : Arb → Arb) : (b.modArb a f).mon = b.mon := rfl
@[simp] theorem Blk.modArb_tst (a : ArbId) (f : Arb → Arb) : (b.modArb a f).tst = b.tst := rfl
@[simp] theorem Blk.modArb_spare (a : ArbId) (f : Arb → Arb) : (b.modArb a f).spare = b.spare := rfl
@[simp] theorem Blk.modArb_cfg (a : ArbId) (f : Arb → Arb) : (b.modArb a f).cfg = b.cfg := rfl
@[simp] theorem Blk.modArb_modEv (a : ArbId) (f : Arb → Arb) : (b.modArb a f).modEv = b.modEv := rfl
@[simp] theorem Blk.modArb_evSeq (a : ArbId) (f : Arb → Arb) : (b.modArb a f).evSeq = b.evSeq := rfl

@[simp] theorem Blk.request_out (a : ArbId) (r : Req) : (b.request a r).out = b.out := rfl
@[simp] theorem Blk.request_freeCtr (a : ArbId) (r : Req) : (b.request a r).freeCtr = b.freeCtr := rfl
@[simp] theorem Blk.request_sevMin (a : ArbId) (r : Req) : (b.request a r).sevMin = b.sevMin := rfl
@[simp] theorem Blk.request_now (a : ArbId) (r : Req) : (b.request a r).now = b.now := rfl
@[simp] theorem Blk.request_pend (a : ArbId) (r : Req) : (b.request a r).pend = b.pend := rfl
@[simp] theorem Blk.request_pwr (a : ArbId) (r : Req) : (b.request a r).pwr = b.pwr := rfl
@[simp] theorem Blk.request_tide (a : ArbId) (r : Req) : (b.request a r).tide = b.tide := rfl
@[simp] theorem Blk.request_xing (a : ArbId) (r : Req) : (b.request a r).xing = b.xing := rfl
@[simp] theorem Blk.request_pan (a : ArbId) (r : Req) : (b.request a r).pan = b.pan := rfl
@[simp] theorem Blk.request_mc (a : ArbId) (r : Req) : (b.request a r).mc = b.mc := rfl
@[simp] theorem Blk.request_repairs (a : ArbId) (r : Req) : (b.request a r).repairs = b.repairs := rfl
@[simp] theorem Blk.request_slu (a : ArbId) (r : Req) : (b.request a r).slu = b.slu := rfl
@[simp] theorem Blk.request_ctxs (a : ArbId) (r : Req) : (b.request a r).ctxs = b.ctxs := rfl
@[simp] theorem Blk.request_me (a : ArbId) (r : Req) : (b.request a r).me = b.me := rfl
@[simp] theorem Blk.request_ve (a : ArbId) (r : Req) : (b.request a r).ve = b.ve := rfl
@[simp] theorem Blk.request_rk (a : ArbId) (r : Req) : (b.request a r).rk = b.rk := rfl
@[simp] theorem Blk.request_strm (a : ArbId) (r : Req) : (b.request a r).strm = b.strm := rfl
@[simp] theorem Blk.request_recs (a : ArbId) (r : Req) : (b.request a r).recs = b.recs := rfl
@[simp] theorem Blk.request_held (a : ArbId) (r : Req) : (b.request a r).held = b.held := rfl
@[simp] theorem Blk.request_recFull (a : ArbId) (r : Req) : (b.request a r).recFull = b.recFull := rfl
@[simp] theorem Blk.request_wins (a : ArbId) (r : Req) : (b.request a r).wins = b.wins := rfl
@[simp] theorem Blk.request_ports (a : ArbId) (r : Req) : (b.request a r).ports = b.ports := rfl
@[simp] theorem Blk.request_colls (a : ArbId) (r : Req) : (b.request a r).colls = b.colls := rfl
@[simp] theorem Blk.request_ces (a : ArbId) (r : Req) : (b.request a r).ces = b.ces := rfl
@[simp] theorem Blk.request_heldShards (a : ArbId) (r : Req) : (b.request a r).heldShards = b.heldShards := rfl
@[simp] theorem Blk.request_rst (a : ArbId) (r : Req) : (b.request a r).rst = b.rst := rfl
@[simp] theorem Blk.request_sec (a : ArbId) (r : Req) : (b.request a r).sec = b.sec := rfl
@[simp] theorem Blk.request_store (a : ArbId) (r : Req) : (b.request a r).store = b.store := rfl
@[simp] theorem Blk.request_mgt (a : ArbId) (r : Req) : (b.request a r).mgt = b.mgt := rfl
@[simp] theorem Blk.request_mon (a : ArbId) (r : Req) : (b.request a r).mon = b.mon := rfl
@[simp] theorem Blk.request_tst (a : ArbId) (r : Req) : (b.request a r).tst = b.tst := rfl
@[simp] theorem Blk.request_spare (a : ArbId) (r : Req) : (b.request a r).spare = b.spare := rfl
@[simp] theorem Blk.request_cfg (a : ArbId) (r : Req) : (b.request a r).cfg = b.cfg := rfl
@[simp] theorem Blk.request_modEv (a : ArbId) (r : Req) : (b.request a r).modEv = b.modEv := rfl
@[simp] theorem Blk.request_evSeq (a : ArbId) (r : Req) : (b.request a r).evSeq = b.evSeq := rfl

@[simp] theorem Blk.modTide_out (f : TideUnit → TideUnit) : (b.modTide f).out = b.out := rfl
@[simp] theorem Blk.modTide_freeCtr (f : TideUnit → TideUnit) : (b.modTide f).freeCtr = b.freeCtr := rfl
@[simp] theorem Blk.modTide_sevMin (f : TideUnit → TideUnit) : (b.modTide f).sevMin = b.sevMin := rfl
@[simp] theorem Blk.modTide_now (f : TideUnit → TideUnit) : (b.modTide f).now = b.now := rfl
@[simp] theorem Blk.modTide_pend (f : TideUnit → TideUnit) : (b.modTide f).pend = b.pend := rfl
@[simp] theorem Blk.modTide_pwr (f : TideUnit → TideUnit) : (b.modTide f).pwr = b.pwr := rfl
@[simp] theorem Blk.modTide_tide (f : TideUnit → TideUnit) : (b.modTide f).tide = f b.tide := rfl
@[simp] theorem Blk.modTide_xing (f : TideUnit → TideUnit) : (b.modTide f).xing = b.xing := rfl
@[simp] theorem Blk.modTide_pan (f : TideUnit → TideUnit) : (b.modTide f).pan = b.pan := rfl
@[simp] theorem Blk.modTide_mc (f : TideUnit → TideUnit) : (b.modTide f).mc = b.mc := rfl
@[simp] theorem Blk.modTide_repairs (f : TideUnit → TideUnit) : (b.modTide f).repairs = b.repairs := rfl
@[simp] theorem Blk.modTide_slu (f : TideUnit → TideUnit) : (b.modTide f).slu = b.slu := rfl
@[simp] theorem Blk.modTide_arbs (f : TideUnit → TideUnit) : (b.modTide f).arbs = b.arbs := rfl
@[simp] theorem Blk.modTide_ctxs (f : TideUnit → TideUnit) : (b.modTide f).ctxs = b.ctxs := rfl
@[simp] theorem Blk.modTide_me (f : TideUnit → TideUnit) : (b.modTide f).me = b.me := rfl
@[simp] theorem Blk.modTide_ve (f : TideUnit → TideUnit) : (b.modTide f).ve = b.ve := rfl
@[simp] theorem Blk.modTide_rk (f : TideUnit → TideUnit) : (b.modTide f).rk = b.rk := rfl
@[simp] theorem Blk.modTide_strm (f : TideUnit → TideUnit) : (b.modTide f).strm = b.strm := rfl
@[simp] theorem Blk.modTide_recs (f : TideUnit → TideUnit) : (b.modTide f).recs = b.recs := rfl
@[simp] theorem Blk.modTide_held (f : TideUnit → TideUnit) : (b.modTide f).held = b.held := rfl
@[simp] theorem Blk.modTide_recFull (f : TideUnit → TideUnit) : (b.modTide f).recFull = b.recFull := rfl
@[simp] theorem Blk.modTide_wins (f : TideUnit → TideUnit) : (b.modTide f).wins = b.wins := rfl
@[simp] theorem Blk.modTide_ports (f : TideUnit → TideUnit) : (b.modTide f).ports = b.ports := rfl
@[simp] theorem Blk.modTide_colls (f : TideUnit → TideUnit) : (b.modTide f).colls = b.colls := rfl
@[simp] theorem Blk.modTide_ces (f : TideUnit → TideUnit) : (b.modTide f).ces = b.ces := rfl
@[simp] theorem Blk.modTide_heldShards (f : TideUnit → TideUnit) : (b.modTide f).heldShards = b.heldShards := rfl
@[simp] theorem Blk.modTide_rst (f : TideUnit → TideUnit) : (b.modTide f).rst = b.rst := rfl
@[simp] theorem Blk.modTide_sec (f : TideUnit → TideUnit) : (b.modTide f).sec = b.sec := rfl
@[simp] theorem Blk.modTide_store (f : TideUnit → TideUnit) : (b.modTide f).store = b.store := rfl
@[simp] theorem Blk.modTide_mgt (f : TideUnit → TideUnit) : (b.modTide f).mgt = b.mgt := rfl
@[simp] theorem Blk.modTide_mon (f : TideUnit → TideUnit) : (b.modTide f).mon = b.mon := rfl
@[simp] theorem Blk.modTide_tst (f : TideUnit → TideUnit) : (b.modTide f).tst = b.tst := rfl
@[simp] theorem Blk.modTide_spare (f : TideUnit → TideUnit) : (b.modTide f).spare = b.spare := rfl
@[simp] theorem Blk.modTide_cfg (f : TideUnit → TideUnit) : (b.modTide f).cfg = b.cfg := rfl
@[simp] theorem Blk.modTide_modEv (f : TideUnit → TideUnit) : (b.modTide f).modEv = b.modEv := rfl
@[simp] theorem Blk.modTide_evSeq (f : TideUnit → TideUnit) : (b.modTide f).evSeq = b.evSeq := rfl

@[simp] theorem Blk.modRst_out (f : RstSt → RstSt) : (b.modRst f).out = b.out := rfl
@[simp] theorem Blk.modRst_freeCtr (f : RstSt → RstSt) : (b.modRst f).freeCtr = b.freeCtr := rfl
@[simp] theorem Blk.modRst_sevMin (f : RstSt → RstSt) : (b.modRst f).sevMin = b.sevMin := rfl
@[simp] theorem Blk.modRst_now (f : RstSt → RstSt) : (b.modRst f).now = b.now := rfl
@[simp] theorem Blk.modRst_pend (f : RstSt → RstSt) : (b.modRst f).pend = b.pend := rfl
@[simp] theorem Blk.modRst_pwr (f : RstSt → RstSt) : (b.modRst f).pwr = b.pwr := rfl
@[simp] theorem Blk.modRst_tide (f : RstSt → RstSt) : (b.modRst f).tide = b.tide := rfl
@[simp] theorem Blk.modRst_xing (f : RstSt → RstSt) : (b.modRst f).xing = b.xing := rfl
@[simp] theorem Blk.modRst_pan (f : RstSt → RstSt) : (b.modRst f).pan = b.pan := rfl
@[simp] theorem Blk.modRst_mc (f : RstSt → RstSt) : (b.modRst f).mc = b.mc := rfl
@[simp] theorem Blk.modRst_repairs (f : RstSt → RstSt) : (b.modRst f).repairs = b.repairs := rfl
@[simp] theorem Blk.modRst_slu (f : RstSt → RstSt) : (b.modRst f).slu = b.slu := rfl
@[simp] theorem Blk.modRst_arbs (f : RstSt → RstSt) : (b.modRst f).arbs = b.arbs := rfl
@[simp] theorem Blk.modRst_ctxs (f : RstSt → RstSt) : (b.modRst f).ctxs = b.ctxs := rfl
@[simp] theorem Blk.modRst_me (f : RstSt → RstSt) : (b.modRst f).me = b.me := rfl
@[simp] theorem Blk.modRst_ve (f : RstSt → RstSt) : (b.modRst f).ve = b.ve := rfl
@[simp] theorem Blk.modRst_rk (f : RstSt → RstSt) : (b.modRst f).rk = b.rk := rfl
@[simp] theorem Blk.modRst_strm (f : RstSt → RstSt) : (b.modRst f).strm = b.strm := rfl
@[simp] theorem Blk.modRst_recs (f : RstSt → RstSt) : (b.modRst f).recs = b.recs := rfl
@[simp] theorem Blk.modRst_held (f : RstSt → RstSt) : (b.modRst f).held = b.held := rfl
@[simp] theorem Blk.modRst_recFull (f : RstSt → RstSt) : (b.modRst f).recFull = b.recFull := rfl
@[simp] theorem Blk.modRst_wins (f : RstSt → RstSt) : (b.modRst f).wins = b.wins := rfl
@[simp] theorem Blk.modRst_ports (f : RstSt → RstSt) : (b.modRst f).ports = b.ports := rfl
@[simp] theorem Blk.modRst_colls (f : RstSt → RstSt) : (b.modRst f).colls = b.colls := rfl
@[simp] theorem Blk.modRst_ces (f : RstSt → RstSt) : (b.modRst f).ces = b.ces := rfl
@[simp] theorem Blk.modRst_heldShards (f : RstSt → RstSt) : (b.modRst f).heldShards = b.heldShards := rfl
@[simp] theorem Blk.modRst_rst (f : RstSt → RstSt) : (b.modRst f).rst = f b.rst := rfl
@[simp] theorem Blk.modRst_sec (f : RstSt → RstSt) : (b.modRst f).sec = b.sec := rfl
@[simp] theorem Blk.modRst_store (f : RstSt → RstSt) : (b.modRst f).store = b.store := rfl
@[simp] theorem Blk.modRst_mgt (f : RstSt → RstSt) : (b.modRst f).mgt = b.mgt := rfl
@[simp] theorem Blk.modRst_mon (f : RstSt → RstSt) : (b.modRst f).mon = b.mon := rfl
@[simp] theorem Blk.modRst_tst (f : RstSt → RstSt) : (b.modRst f).tst = b.tst := rfl
@[simp] theorem Blk.modRst_spare (f : RstSt → RstSt) : (b.modRst f).spare = b.spare := rfl
@[simp] theorem Blk.modRst_cfg (f : RstSt → RstSt) : (b.modRst f).cfg = b.cfg := rfl
@[simp] theorem Blk.modRst_modEv (f : RstSt → RstSt) : (b.modRst f).modEv = b.modEv := rfl
@[simp] theorem Blk.modRst_evSeq (f : RstSt → RstSt) : (b.modRst f).evSeq = b.evSeq := rfl

@[simp] theorem Blk.modSec_out (f : SecSt → SecSt) : (b.modSec f).out = b.out := rfl
@[simp] theorem Blk.modSec_freeCtr (f : SecSt → SecSt) : (b.modSec f).freeCtr = b.freeCtr := rfl
@[simp] theorem Blk.modSec_sevMin (f : SecSt → SecSt) : (b.modSec f).sevMin = b.sevMin := rfl
@[simp] theorem Blk.modSec_now (f : SecSt → SecSt) : (b.modSec f).now = b.now := rfl
@[simp] theorem Blk.modSec_pend (f : SecSt → SecSt) : (b.modSec f).pend = b.pend := rfl
@[simp] theorem Blk.modSec_pwr (f : SecSt → SecSt) : (b.modSec f).pwr = b.pwr := rfl
@[simp] theorem Blk.modSec_tide (f : SecSt → SecSt) : (b.modSec f).tide = b.tide := rfl
@[simp] theorem Blk.modSec_xing (f : SecSt → SecSt) : (b.modSec f).xing = b.xing := rfl
@[simp] theorem Blk.modSec_pan (f : SecSt → SecSt) : (b.modSec f).pan = b.pan := rfl
@[simp] theorem Blk.modSec_mc (f : SecSt → SecSt) : (b.modSec f).mc = b.mc := rfl
@[simp] theorem Blk.modSec_repairs (f : SecSt → SecSt) : (b.modSec f).repairs = b.repairs := rfl
@[simp] theorem Blk.modSec_slu (f : SecSt → SecSt) : (b.modSec f).slu = b.slu := rfl
@[simp] theorem Blk.modSec_arbs (f : SecSt → SecSt) : (b.modSec f).arbs = b.arbs := rfl
@[simp] theorem Blk.modSec_ctxs (f : SecSt → SecSt) : (b.modSec f).ctxs = b.ctxs := rfl
@[simp] theorem Blk.modSec_me (f : SecSt → SecSt) : (b.modSec f).me = b.me := rfl
@[simp] theorem Blk.modSec_ve (f : SecSt → SecSt) : (b.modSec f).ve = b.ve := rfl
@[simp] theorem Blk.modSec_rk (f : SecSt → SecSt) : (b.modSec f).rk = b.rk := rfl
@[simp] theorem Blk.modSec_strm (f : SecSt → SecSt) : (b.modSec f).strm = b.strm := rfl
@[simp] theorem Blk.modSec_recs (f : SecSt → SecSt) : (b.modSec f).recs = b.recs := rfl
@[simp] theorem Blk.modSec_held (f : SecSt → SecSt) : (b.modSec f).held = b.held := rfl
@[simp] theorem Blk.modSec_recFull (f : SecSt → SecSt) : (b.modSec f).recFull = b.recFull := rfl
@[simp] theorem Blk.modSec_wins (f : SecSt → SecSt) : (b.modSec f).wins = b.wins := rfl
@[simp] theorem Blk.modSec_ports (f : SecSt → SecSt) : (b.modSec f).ports = b.ports := rfl
@[simp] theorem Blk.modSec_colls (f : SecSt → SecSt) : (b.modSec f).colls = b.colls := rfl
@[simp] theorem Blk.modSec_ces (f : SecSt → SecSt) : (b.modSec f).ces = b.ces := rfl
@[simp] theorem Blk.modSec_heldShards (f : SecSt → SecSt) : (b.modSec f).heldShards = b.heldShards := rfl
@[simp] theorem Blk.modSec_rst (f : SecSt → SecSt) : (b.modSec f).rst = b.rst := rfl
@[simp] theorem Blk.modSec_sec (f : SecSt → SecSt) : (b.modSec f).sec = f b.sec := rfl
@[simp] theorem Blk.modSec_store (f : SecSt → SecSt) : (b.modSec f).store = b.store := rfl
@[simp] theorem Blk.modSec_mgt (f : SecSt → SecSt) : (b.modSec f).mgt = b.mgt := rfl
@[simp] theorem Blk.modSec_mon (f : SecSt → SecSt) : (b.modSec f).mon = b.mon := rfl
@[simp] theorem Blk.modSec_tst (f : SecSt → SecSt) : (b.modSec f).tst = b.tst := rfl
@[simp] theorem Blk.modSec_spare (f : SecSt → SecSt) : (b.modSec f).spare = b.spare := rfl
@[simp] theorem Blk.modSec_cfg (f : SecSt → SecSt) : (b.modSec f).cfg = b.cfg := rfl
@[simp] theorem Blk.modSec_modEv (f : SecSt → SecSt) : (b.modSec f).modEv = b.modEv := rfl
@[simp] theorem Blk.modSec_evSeq (f : SecSt → SecSt) : (b.modSec f).evSeq = b.evSeq := rfl

@[simp] theorem Blk.modMgt_out (f : MgtSt → MgtSt) : (b.modMgt f).out = b.out := rfl
@[simp] theorem Blk.modMgt_freeCtr (f : MgtSt → MgtSt) : (b.modMgt f).freeCtr = b.freeCtr := rfl
@[simp] theorem Blk.modMgt_sevMin (f : MgtSt → MgtSt) : (b.modMgt f).sevMin = b.sevMin := rfl
@[simp] theorem Blk.modMgt_now (f : MgtSt → MgtSt) : (b.modMgt f).now = b.now := rfl
@[simp] theorem Blk.modMgt_pend (f : MgtSt → MgtSt) : (b.modMgt f).pend = b.pend := rfl
@[simp] theorem Blk.modMgt_pwr (f : MgtSt → MgtSt) : (b.modMgt f).pwr = b.pwr := rfl
@[simp] theorem Blk.modMgt_tide (f : MgtSt → MgtSt) : (b.modMgt f).tide = b.tide := rfl
@[simp] theorem Blk.modMgt_xing (f : MgtSt → MgtSt) : (b.modMgt f).xing = b.xing := rfl
@[simp] theorem Blk.modMgt_pan (f : MgtSt → MgtSt) : (b.modMgt f).pan = b.pan := rfl
@[simp] theorem Blk.modMgt_mc (f : MgtSt → MgtSt) : (b.modMgt f).mc = b.mc := rfl
@[simp] theorem Blk.modMgt_repairs (f : MgtSt → MgtSt) : (b.modMgt f).repairs = b.repairs := rfl
@[simp] theorem Blk.modMgt_slu (f : MgtSt → MgtSt) : (b.modMgt f).slu = b.slu := rfl
@[simp] theorem Blk.modMgt_arbs (f : MgtSt → MgtSt) : (b.modMgt f).arbs = b.arbs := rfl
@[simp] theorem Blk.modMgt_ctxs (f : MgtSt → MgtSt) : (b.modMgt f).ctxs = b.ctxs := rfl
@[simp] theorem Blk.modMgt_me (f : MgtSt → MgtSt) : (b.modMgt f).me = b.me := rfl
@[simp] theorem Blk.modMgt_ve (f : MgtSt → MgtSt) : (b.modMgt f).ve = b.ve := rfl
@[simp] theorem Blk.modMgt_rk (f : MgtSt → MgtSt) : (b.modMgt f).rk = b.rk := rfl
@[simp] theorem Blk.modMgt_strm (f : MgtSt → MgtSt) : (b.modMgt f).strm = b.strm := rfl
@[simp] theorem Blk.modMgt_recs (f : MgtSt → MgtSt) : (b.modMgt f).recs = b.recs := rfl
@[simp] theorem Blk.modMgt_held (f : MgtSt → MgtSt) : (b.modMgt f).held = b.held := rfl
@[simp] theorem Blk.modMgt_recFull (f : MgtSt → MgtSt) : (b.modMgt f).recFull = b.recFull := rfl
@[simp] theorem Blk.modMgt_wins (f : MgtSt → MgtSt) : (b.modMgt f).wins = b.wins := rfl
@[simp] theorem Blk.modMgt_ports (f : MgtSt → MgtSt) : (b.modMgt f).ports = b.ports := rfl
@[simp] theorem Blk.modMgt_colls (f : MgtSt → MgtSt) : (b.modMgt f).colls = b.colls := rfl
@[simp] theorem Blk.modMgt_ces (f : MgtSt → MgtSt) : (b.modMgt f).ces = b.ces := rfl
@[simp] theorem Blk.modMgt_heldShards (f : MgtSt → MgtSt) : (b.modMgt f).heldShards = b.heldShards := rfl
@[simp] theorem Blk.modMgt_rst (f : MgtSt → MgtSt) : (b.modMgt f).rst = b.rst := rfl
@[simp] theorem Blk.modMgt_sec (f : MgtSt → MgtSt) : (b.modMgt f).sec = b.sec := rfl
@[simp] theorem Blk.modMgt_store (f : MgtSt → MgtSt) : (b.modMgt f).store = b.store := rfl
@[simp] theorem Blk.modMgt_mgt (f : MgtSt → MgtSt) : (b.modMgt f).mgt = f b.mgt := rfl
@[simp] theorem Blk.modMgt_mon (f : MgtSt → MgtSt) : (b.modMgt f).mon = b.mon := rfl
@[simp] theorem Blk.modMgt_tst (f : MgtSt → MgtSt) : (b.modMgt f).tst = b.tst := rfl
@[simp] theorem Blk.modMgt_spare (f : MgtSt → MgtSt) : (b.modMgt f).spare = b.spare := rfl
@[simp] theorem Blk.modMgt_cfg (f : MgtSt → MgtSt) : (b.modMgt f).cfg = b.cfg := rfl
@[simp] theorem Blk.modMgt_modEv (f : MgtSt → MgtSt) : (b.modMgt f).modEv = b.modEv := rfl
@[simp] theorem Blk.modMgt_evSeq (f : MgtSt → MgtSt) : (b.modMgt f).evSeq = b.evSeq := rfl

@[simp] theorem Blk.modMon_out (f : MonSt → MonSt) : (b.modMon f).out = b.out := rfl
@[simp] theorem Blk.modMon_freeCtr (f : MonSt → MonSt) : (b.modMon f).freeCtr = b.freeCtr := rfl
@[simp] theorem Blk.modMon_sevMin (f : MonSt → MonSt) : (b.modMon f).sevMin = b.sevMin := rfl
@[simp] theorem Blk.modMon_now (f : MonSt → MonSt) : (b.modMon f).now = b.now := rfl
@[simp] theorem Blk.modMon_pend (f : MonSt → MonSt) : (b.modMon f).pend = b.pend := rfl
@[simp] theorem Blk.modMon_pwr (f : MonSt → MonSt) : (b.modMon f).pwr = b.pwr := rfl
@[simp] theorem Blk.modMon_tide (f : MonSt → MonSt) : (b.modMon f).tide = b.tide := rfl
@[simp] theorem Blk.modMon_xing (f : MonSt → MonSt) : (b.modMon f).xing = b.xing := rfl
@[simp] theorem Blk.modMon_pan (f : MonSt → MonSt) : (b.modMon f).pan = b.pan := rfl
@[simp] theorem Blk.modMon_mc (f : MonSt → MonSt) : (b.modMon f).mc = b.mc := rfl
@[simp] theorem Blk.modMon_repairs (f : MonSt → MonSt) : (b.modMon f).repairs = b.repairs := rfl
@[simp] theorem Blk.modMon_slu (f : MonSt → MonSt) : (b.modMon f).slu = b.slu := rfl
@[simp] theorem Blk.modMon_arbs (f : MonSt → MonSt) : (b.modMon f).arbs = b.arbs := rfl
@[simp] theorem Blk.modMon_ctxs (f : MonSt → MonSt) : (b.modMon f).ctxs = b.ctxs := rfl
@[simp] theorem Blk.modMon_me (f : MonSt → MonSt) : (b.modMon f).me = b.me := rfl
@[simp] theorem Blk.modMon_ve (f : MonSt → MonSt) : (b.modMon f).ve = b.ve := rfl
@[simp] theorem Blk.modMon_rk (f : MonSt → MonSt) : (b.modMon f).rk = b.rk := rfl
@[simp] theorem Blk.modMon_strm (f : MonSt → MonSt) : (b.modMon f).strm = b.strm := rfl
@[simp] theorem Blk.modMon_recs (f : MonSt → MonSt) : (b.modMon f).recs = b.recs := rfl
@[simp] theorem Blk.modMon_held (f : MonSt → MonSt) : (b.modMon f).held = b.held := rfl
@[simp] theorem Blk.modMon_recFull (f : MonSt → MonSt) : (b.modMon f).recFull = b.recFull := rfl
@[simp] theorem Blk.modMon_wins (f : MonSt → MonSt) : (b.modMon f).wins = b.wins := rfl
@[simp] theorem Blk.modMon_ports (f : MonSt → MonSt) : (b.modMon f).ports = b.ports := rfl
@[simp] theorem Blk.modMon_colls (f : MonSt → MonSt) : (b.modMon f).colls = b.colls := rfl
@[simp] theorem Blk.modMon_ces (f : MonSt → MonSt) : (b.modMon f).ces = b.ces := rfl
@[simp] theorem Blk.modMon_heldShards (f : MonSt → MonSt) : (b.modMon f).heldShards = b.heldShards := rfl
@[simp] theorem Blk.modMon_rst (f : MonSt → MonSt) : (b.modMon f).rst = b.rst := rfl
@[simp] theorem Blk.modMon_sec (f : MonSt → MonSt) : (b.modMon f).sec = b.sec := rfl
@[simp] theorem Blk.modMon_store (f : MonSt → MonSt) : (b.modMon f).store = b.store := rfl
@[simp] theorem Blk.modMon_mgt (f : MonSt → MonSt) : (b.modMon f).mgt = b.mgt := rfl
@[simp] theorem Blk.modMon_mon (f : MonSt → MonSt) : (b.modMon f).mon = f b.mon := rfl
@[simp] theorem Blk.modMon_tst (f : MonSt → MonSt) : (b.modMon f).tst = b.tst := rfl
@[simp] theorem Blk.modMon_spare (f : MonSt → MonSt) : (b.modMon f).spare = b.spare := rfl
@[simp] theorem Blk.modMon_cfg (f : MonSt → MonSt) : (b.modMon f).cfg = b.cfg := rfl
@[simp] theorem Blk.modMon_modEv (f : MonSt → MonSt) : (b.modMon f).modEv = b.modEv := rfl
@[simp] theorem Blk.modMon_evSeq (f : MonSt → MonSt) : (b.modMon f).evSeq = b.evSeq := rfl

@[simp] theorem Blk.modSlu_out (f : Sluice → Sluice) : (b.modSlu f).out = b.out := rfl
@[simp] theorem Blk.modSlu_freeCtr (f : Sluice → Sluice) : (b.modSlu f).freeCtr = b.freeCtr := rfl
@[simp] theorem Blk.modSlu_sevMin (f : Sluice → Sluice) : (b.modSlu f).sevMin = b.sevMin := rfl
@[simp] theorem Blk.modSlu_now (f : Sluice → Sluice) : (b.modSlu f).now = b.now := rfl
@[simp] theorem Blk.modSlu_pend (f : Sluice → Sluice) : (b.modSlu f).pend = b.pend := rfl
@[simp] theorem Blk.modSlu_pwr (f : Sluice → Sluice) : (b.modSlu f).pwr = b.pwr := rfl
@[simp] theorem Blk.modSlu_tide (f : Sluice → Sluice) : (b.modSlu f).tide = b.tide := rfl
@[simp] theorem Blk.modSlu_xing (f : Sluice → Sluice) : (b.modSlu f).xing = b.xing := rfl
@[simp] theorem Blk.modSlu_pan (f : Sluice → Sluice) : (b.modSlu f).pan = b.pan := rfl
@[simp] theorem Blk.modSlu_mc (f : Sluice → Sluice) : (b.modSlu f).mc = b.mc := rfl
@[simp] theorem Blk.modSlu_repairs (f : Sluice → Sluice) : (b.modSlu f).repairs = b.repairs := rfl
@[simp] theorem Blk.modSlu_slu (f : Sluice → Sluice) : (b.modSlu f).slu = f b.slu := rfl
@[simp] theorem Blk.modSlu_arbs (f : Sluice → Sluice) : (b.modSlu f).arbs = b.arbs := rfl
@[simp] theorem Blk.modSlu_ctxs (f : Sluice → Sluice) : (b.modSlu f).ctxs = b.ctxs := rfl
@[simp] theorem Blk.modSlu_me (f : Sluice → Sluice) : (b.modSlu f).me = b.me := rfl
@[simp] theorem Blk.modSlu_ve (f : Sluice → Sluice) : (b.modSlu f).ve = b.ve := rfl
@[simp] theorem Blk.modSlu_rk (f : Sluice → Sluice) : (b.modSlu f).rk = b.rk := rfl
@[simp] theorem Blk.modSlu_strm (f : Sluice → Sluice) : (b.modSlu f).strm = b.strm := rfl
@[simp] theorem Blk.modSlu_recs (f : Sluice → Sluice) : (b.modSlu f).recs = b.recs := rfl
@[simp] theorem Blk.modSlu_held (f : Sluice → Sluice) : (b.modSlu f).held = b.held := rfl
@[simp] theorem Blk.modSlu_recFull (f : Sluice → Sluice) : (b.modSlu f).recFull = b.recFull := rfl
@[simp] theorem Blk.modSlu_wins (f : Sluice → Sluice) : (b.modSlu f).wins = b.wins := rfl
@[simp] theorem Blk.modSlu_ports (f : Sluice → Sluice) : (b.modSlu f).ports = b.ports := rfl
@[simp] theorem Blk.modSlu_colls (f : Sluice → Sluice) : (b.modSlu f).colls = b.colls := rfl
@[simp] theorem Blk.modSlu_ces (f : Sluice → Sluice) : (b.modSlu f).ces = b.ces := rfl
@[simp] theorem Blk.modSlu_heldShards (f : Sluice → Sluice) : (b.modSlu f).heldShards = b.heldShards := rfl
@[simp] theorem Blk.modSlu_rst (f : Sluice → Sluice) : (b.modSlu f).rst = b.rst := rfl
@[simp] theorem Blk.modSlu_sec (f : Sluice → Sluice) : (b.modSlu f).sec = b.sec := rfl
@[simp] theorem Blk.modSlu_store (f : Sluice → Sluice) : (b.modSlu f).store = b.store := rfl
@[simp] theorem Blk.modSlu_mgt (f : Sluice → Sluice) : (b.modSlu f).mgt = b.mgt := rfl
@[simp] theorem Blk.modSlu_mon (f : Sluice → Sluice) : (b.modSlu f).mon = b.mon := rfl
@[simp] theorem Blk.modSlu_tst (f : Sluice → Sluice) : (b.modSlu f).tst = b.tst := rfl
@[simp] theorem Blk.modSlu_spare (f : Sluice → Sluice) : (b.modSlu f).spare = b.spare := rfl
@[simp] theorem Blk.modSlu_cfg (f : Sluice → Sluice) : (b.modSlu f).cfg = b.cfg := rfl
@[simp] theorem Blk.modSlu_modEv (f : Sluice → Sluice) : (b.modSlu f).modEv = b.modEv := rfl
@[simp] theorem Blk.modSlu_evSeq (f : Sluice → Sluice) : (b.modSlu f).evSeq = b.evSeq := rfl

@[simp] theorem Blk.modSpare_out (f : SpareSt → SpareSt) : (b.modSpare f).out = b.out := rfl
@[simp] theorem Blk.modSpare_freeCtr (f : SpareSt → SpareSt) : (b.modSpare f).freeCtr = b.freeCtr := rfl
@[simp] theorem Blk.modSpare_sevMin (f : SpareSt → SpareSt) : (b.modSpare f).sevMin = b.sevMin := rfl
@[simp] theorem Blk.modSpare_now (f : SpareSt → SpareSt) : (b.modSpare f).now = b.now := rfl
@[simp] theorem Blk.modSpare_pend (f : SpareSt → SpareSt) : (b.modSpare f).pend = b.pend := rfl
@[simp] theorem Blk.modSpare_pwr (f : SpareSt → SpareSt) : (b.modSpare f).pwr = b.pwr := rfl
@[simp] theorem Blk.modSpare_tide (f : SpareSt → SpareSt) : (b.modSpare f).tide = b.tide := rfl
@[simp] theorem Blk.modSpare_xing (f : SpareSt → SpareSt) : (b.modSpare f).xing = b.xing := rfl
@[simp] theorem Blk.modSpare_pan (f : SpareSt → SpareSt) : (b.modSpare f).pan = b.pan := rfl
@[simp] theorem Blk.modSpare_mc (f : SpareSt → SpareSt) : (b.modSpare f).mc = b.mc := rfl
@[simp] theorem Blk.modSpare_repairs (f : SpareSt → SpareSt) : (b.modSpare f).repairs = b.repairs := rfl
@[simp] theorem Blk.modSpare_slu (f : SpareSt → SpareSt) : (b.modSpare f).slu = b.slu := rfl
@[simp] theorem Blk.modSpare_arbs (f : SpareSt → SpareSt) : (b.modSpare f).arbs = b.arbs := rfl
@[simp] theorem Blk.modSpare_ctxs (f : SpareSt → SpareSt) : (b.modSpare f).ctxs = b.ctxs := rfl
@[simp] theorem Blk.modSpare_me (f : SpareSt → SpareSt) : (b.modSpare f).me = b.me := rfl
@[simp] theorem Blk.modSpare_ve (f : SpareSt → SpareSt) : (b.modSpare f).ve = b.ve := rfl
@[simp] theorem Blk.modSpare_rk (f : SpareSt → SpareSt) : (b.modSpare f).rk = b.rk := rfl
@[simp] theorem Blk.modSpare_strm (f : SpareSt → SpareSt) : (b.modSpare f).strm = b.strm := rfl
@[simp] theorem Blk.modSpare_recs (f : SpareSt → SpareSt) : (b.modSpare f).recs = b.recs := rfl
@[simp] theorem Blk.modSpare_held (f : SpareSt → SpareSt) : (b.modSpare f).held = b.held := rfl
@[simp] theorem Blk.modSpare_recFull (f : SpareSt → SpareSt) : (b.modSpare f).recFull = b.recFull := rfl
@[simp] theorem Blk.modSpare_wins (f : SpareSt → SpareSt) : (b.modSpare f).wins = b.wins := rfl
@[simp] theorem Blk.modSpare_ports (f : SpareSt → SpareSt) : (b.modSpare f).ports = b.ports := rfl
@[simp] theorem Blk.modSpare_colls (f : SpareSt → SpareSt) : (b.modSpare f).colls = b.colls := rfl
@[simp] theorem Blk.modSpare_ces (f : SpareSt → SpareSt) : (b.modSpare f).ces = b.ces := rfl
@[simp] theorem Blk.modSpare_heldShards (f : SpareSt → SpareSt) : (b.modSpare f).heldShards = b.heldShards := rfl
@[simp] theorem Blk.modSpare_rst (f : SpareSt → SpareSt) : (b.modSpare f).rst = b.rst := rfl
@[simp] theorem Blk.modSpare_sec (f : SpareSt → SpareSt) : (b.modSpare f).sec = b.sec := rfl
@[simp] theorem Blk.modSpare_store (f : SpareSt → SpareSt) : (b.modSpare f).store = b.store := rfl
@[simp] theorem Blk.modSpare_mgt (f : SpareSt → SpareSt) : (b.modSpare f).mgt = b.mgt := rfl
@[simp] theorem Blk.modSpare_mon (f : SpareSt → SpareSt) : (b.modSpare f).mon = b.mon := rfl
@[simp] theorem Blk.modSpare_tst (f : SpareSt → SpareSt) : (b.modSpare f).tst = b.tst := rfl
@[simp] theorem Blk.modSpare_spare (f : SpareSt → SpareSt) : (b.modSpare f).spare = f b.spare := rfl
@[simp] theorem Blk.modSpare_cfg (f : SpareSt → SpareSt) : (b.modSpare f).cfg = b.cfg := rfl
@[simp] theorem Blk.modSpare_modEv (f : SpareSt → SpareSt) : (b.modSpare f).modEv = b.modEv := rfl
@[simp] theorem Blk.modSpare_evSeq (f : SpareSt → SpareSt) : (b.modSpare f).evSeq = b.evSeq := rfl

@[simp] theorem Blk.send_out (o : Out) : (b.send o).out = o :: b.out := rfl
@[simp] theorem Blk.send_freeCtr (o : Out) : (b.send o).freeCtr = b.freeCtr := rfl
@[simp] theorem Blk.send_sevMin (o : Out) : (b.send o).sevMin = b.sevMin := rfl
@[simp] theorem Blk.send_now (o : Out) : (b.send o).now = b.now := rfl
@[simp] theorem Blk.send_pend (o : Out) : (b.send o).pend = b.pend := rfl
@[simp] theorem Blk.send_pwr (o : Out) : (b.send o).pwr = b.pwr := rfl
@[simp] theorem Blk.send_tide (o : Out) : (b.send o).tide = b.tide := rfl
@[simp] theorem Blk.send_xing (o : Out) : (b.send o).xing = b.xing := rfl
@[simp] theorem Blk.send_pan (o : Out) : (b.send o).pan = b.pan := rfl
@[simp] theorem Blk.send_mc (o : Out) : (b.send o).mc = b.mc := rfl
@[simp] theorem Blk.send_repairs (o : Out) : (b.send o).repairs = b.repairs := rfl
@[simp] theorem Blk.send_slu (o : Out) : (b.send o).slu = b.slu := rfl
@[simp] theorem Blk.send_arbs (o : Out) : (b.send o).arbs = b.arbs := rfl
@[simp] theorem Blk.send_ctxs (o : Out) : (b.send o).ctxs = b.ctxs := rfl
@[simp] theorem Blk.send_me (o : Out) : (b.send o).me = b.me := rfl
@[simp] theorem Blk.send_ve (o : Out) : (b.send o).ve = b.ve := rfl
@[simp] theorem Blk.send_rk (o : Out) : (b.send o).rk = b.rk := rfl
@[simp] theorem Blk.send_strm (o : Out) : (b.send o).strm = b.strm := rfl
@[simp] theorem Blk.send_recs (o : Out) : (b.send o).recs = b.recs := rfl
@[simp] theorem Blk.send_held (o : Out) : (b.send o).held = b.held := rfl
@[simp] theorem Blk.send_recFull (o : Out) : (b.send o).recFull = b.recFull := rfl
@[simp] theorem Blk.send_wins (o : Out) : (b.send o).wins = b.wins := rfl
@[simp] theorem Blk.send_ports (o : Out) : (b.send o).ports = b.ports := rfl
@[simp] theorem Blk.send_colls (o : Out) : (b.send o).colls = b.colls := rfl
@[simp] theorem Blk.send_ces (o : Out) : (b.send o).ces = b.ces := rfl
@[simp] theorem Blk.send_heldShards (o : Out) : (b.send o).heldShards = b.heldShards := rfl
@[simp] theorem Blk.send_rst (o : Out) : (b.send o).rst = b.rst := rfl
@[simp] theorem Blk.send_sec (o : Out) : (b.send o).sec = b.sec := rfl
@[simp] theorem Blk.send_store (o : Out) : (b.send o).store = b.store := rfl
@[simp] theorem Blk.send_mgt (o : Out) : (b.send o).mgt = b.mgt := rfl
@[simp] theorem Blk.send_mon (o : Out) : (b.send o).mon = b.mon := rfl
@[simp] theorem Blk.send_tst (o : Out) : (b.send o).tst = b.tst := rfl
@[simp] theorem Blk.send_spare (o : Out) : (b.send o).spare = b.spare := rfl
@[simp] theorem Blk.send_cfg (o : Out) : (b.send o).cfg = b.cfg := rfl
@[simp] theorem Blk.send_modEv (o : Out) : (b.send o).modEv = b.modEv := rfl
@[simp] theorem Blk.send_evSeq (o : Out) : (b.send o).evSeq = b.evSeq := rfl

@[simp] theorem Blk.spend_out : (b.spend).out = b.out := rfl
@[simp] theorem Blk.spend_freeCtr : (b.spend).freeCtr = b.freeCtr + 1 := rfl
@[simp] theorem Blk.spend_sevMin : (b.spend).sevMin = b.sevMin := rfl
@[simp] theorem Blk.spend_now : (b.spend).now = b.now := rfl
@[simp] theorem Blk.spend_pend : (b.spend).pend = b.pend := rfl
@[simp] theorem Blk.spend_pwr : (b.spend).pwr = b.pwr := rfl
@[simp] theorem Blk.spend_tide : (b.spend).tide = b.tide := rfl
@[simp] theorem Blk.spend_xing : (b.spend).xing = b.xing := rfl
@[simp] theorem Blk.spend_pan : (b.spend).pan = b.pan := rfl
@[simp] theorem Blk.spend_mc : (b.spend).mc = b.mc := rfl
@[simp] theorem Blk.spend_repairs : (b.spend).repairs = b.repairs := rfl
@[simp] theorem Blk.spend_slu : (b.spend).slu = b.slu := rfl
@[simp] theorem Blk.spend_arbs : (b.spend).arbs = b.arbs := rfl
@[simp] theorem Blk.spend_ctxs : (b.spend).ctxs = b.ctxs := rfl
@[simp] theorem Blk.spend_me : (b.spend).me = b.me := rfl
@[simp] theorem Blk.spend_ve : (b.spend).ve = b.ve := rfl
@[simp] theorem Blk.spend_rk : (b.spend).rk = b.rk := rfl
@[simp] theorem Blk.spend_strm : (b.spend).strm = b.strm := rfl
@[simp] theorem Blk.spend_recs : (b.spend).recs = b.recs := rfl
@[simp] theorem Blk.spend_held : (b.spend).held = b.held := rfl
@[simp] theorem Blk.spend_recFull : (b.spend).recFull = b.recFull := rfl
@[simp] theorem Blk.spend_wins : (b.spend).wins = b.wins := rfl
@[simp] theorem Blk.spend_ports : (b.spend).ports = b.ports := rfl
@[simp] theorem Blk.spend_colls : (b.spend).colls = b.colls := rfl
@[simp] theorem Blk.spend_ces : (b.spend).ces = b.ces := rfl
@[simp] theorem Blk.spend_heldShards : (b.spend).heldShards = b.heldShards := rfl
@[simp] theorem Blk.spend_rst : (b.spend).rst = b.rst := rfl
@[simp] theorem Blk.spend_sec : (b.spend).sec = b.sec := rfl
@[simp] theorem Blk.spend_store : (b.spend).store = b.store := rfl
@[simp] theorem Blk.spend_mgt : (b.spend).mgt = b.mgt := rfl
@[simp] theorem Blk.spend_mon : (b.spend).mon = b.mon := rfl
@[simp] theorem Blk.spend_tst : (b.spend).tst = b.tst := rfl
@[simp] theorem Blk.spend_spare : (b.spend).spare = b.spare := rfl
@[simp] theorem Blk.spend_cfg : (b.spend).cfg = b.cfg := rfl
@[simp] theorem Blk.spend_modEv : (b.spend).modEv = b.modEv := rfl
@[simp] theorem Blk.spend_evSeq : (b.spend).evSeq = b.evSeq := rfl

end Sys2Proof.Machine
end

