-- ==== Sys2Proof/Laws/Events.lean ====
section
/-! SUPPORT. Raising an event writes only event records on their way out (R241 to R243, R364). -/
namespace Sys2Proof.Machine
open Sys2Proof

theorem EventsOnly.refl (b : Blk) : EventsOnly b b := ⟨fun _ => rfl, fun _ _ => rfl, rfl⟩

theorem EventsOnly.trans {a b c : Blk} (h : EventsOnly a b) (k : EventsOnly b c) : EventsOnly a c := by
  refine ⟨fun n => ?_, fun x hx => (k.arb x hx).trans (h.arb x hx), ?_⟩
  · rw [k.ctx n, h.ctx n]
  · have e := k.rest
    rw [h.rest] at e
    exact e

/-- Numbers of arbiters differ. -/
theorem ArbId.key_ne_eventPath (a : ArbId) (h : a ≠ .eventPath) : a.key ≠ ArbId.eventPath.key := by
  cases a <;> simp only [ArbId.key, ne_eq] <;> first | omega | exact absurd rfl h

theorem EventsOnly.setBucket (b : Blk) (key : Nat) (k : Bucket) : EventsOnly b (b.setBucket key k) := by
  unfold Blk.setBucket
  split
  · exact ⟨fun _ => rfl, fun _ _ => rfl, rfl⟩
  · refine ⟨fun n => ?_, fun _ _ => rfl, rfl⟩
    by_cases e : n = key
    · subst e; simp [Blk.ctx, Blk.modCtx, Blk.setCtx]
    · simp [Blk.ctx, Blk.modCtx, Blk.setCtx, Tbl.get_set_other _ _ _ _ _ e]

/-- A context's counts of records. -/
theorem EventsOnly.counts (b : Blk) (key : Nat) (f : Ctx → Ctx)
    (hf : ∀ c, f c = { c with sent := (f c).sent, merged := (f c).merged, dropped := (f c).dropped }) : EventsOnly b (b.modCtx key f) := by
  refine ⟨fun n => ?_, fun _ _ => rfl, rfl⟩
  by_cases e : n = key
  · subst e
    have h := hf (b.ctxs.get {} n)
    simp only [Blk.ctx, Blk.modCtx, Blk.setCtx, Tbl.get_set_same]
    rw [h]
  · simp [Blk.ctx, Blk.modCtx, Blk.setCtx, Tbl.get_set_other _ _ _ _ _ e]

theorem EventsOnly.request (b : Blk) (r : Req) : EventsOnly b (b.request .eventPath r) := by
  refine ⟨fun _ => rfl, fun x hx => ?_, rfl⟩
  simp [Blk.arbOf, Blk.request, Blk.modArb, Tbl.get_set_other _ _ _ _ _ (ArbId.key_ne_eventPath x hx)]

theorem EventsOnly.mirror (b : Blk) (r : EventRec) : EventsOnly b (b.mirror r) := by
  unfold Blk.mirror
  split
  · exact .refl b
  · refine ⟨fun _ => rfl, fun _ _ => rfl, ?_⟩
    simp only [Blk.modMgt]
    split <;> rfl

theorem EventsOnly.bootHold (b : Blk) (r : EventRec) : EventsOnly b (b.bootHold r) := by
  refine (EventsOnly.mirror b r).trans ?_
  refine ⟨fun _ => rfl, fun _ _ => rfl, ?_⟩
  simp only [Blk.bootHold, Blk.modSec]
  split <;> rfl

theorem EventsOnly.release (b : Blk) (key : Nat) (r : EventRec) : EventsOnly b (b.release key r) := by
  unfold Blk.release
  dsimp only
  refine (EventsOnly.setBucket b key { b.bucket key with gap := false }).trans (EventsOnly.trans ?_ (EventsOnly.request _ _))
  split
  · exact .refl _
  · exact EventsOnly.counts _ _ _ fun _ => rfl

theorem EventsOnly.holdRec (b : Blk) (key : Nat) (r : EventRec) : EventsOnly b (b.holdRec key r) := by
  unfold Blk.holdRec
  dsimp only
  split
  · split
    · exact EventsOnly.setBucket _ _ _
    · exact (EventsOnly.setBucket _ _ _).trans (EventsOnly.counts _ _ _ fun _ => rfl)
  · split
    · exact EventsOnly.setBucket _ _ _
    · split
      · exact EventsOnly.setBucket _ _ _
      · exact (EventsOnly.setBucket _ _ _).trans (EventsOnly.counts _ _ _ fun _ => rfl)

theorem EventsOnly.offer (b : Blk) (key : Nat) (r : EventRec) : EventsOnly b (b.offer key r) := by
  unfold Blk.offer
  dsimp only
  repeat' split
  · exact .release _ _ _
  · exact .holdRec _ _ _
  · exact .holdRec _ _ _
  · exact (EventsOnly.setBucket _ _ _).trans (.release _ _ _)

theorem EventsOnly.foldl {α : Type} (f : Blk → α → Blk) (hf : ∀ b a, EventsOnly b (f b a)) (l : List α) : ∀ b, EventsOnly b (l.foldl f b) := by
  induction l with
  | nil => exact .refl
  | cons a l ih => exact fun b => (hf b a).trans (ih _)

theorem EventsOnly.hold (b : Blk) (u g : Bool) (l : List EventRec) : EventsOnly b (b.modSec fun x => { x with sinkUp := u, hold := l, holdGap := g }) :=
  ⟨fun _ => rfl, fun _ _ => rfl, rfl⟩

theorem EventsOnly.sinkFlush (b : Blk) : EventsOnly b b.sinkFlush := by
  unfold Blk.sinkFlush
  split
  · exact .refl b
  · dsimp only
    refine EventsOnly.trans (EventsOnly.trans (EventsOnly.setBucket b moduleCtx { b.modEv with gap := b.modEv.gap || b.sec.holdGap }) ?_) (EventsOnly.foldl _ (fun b r => .offer _ _ _) _ _)
    exact EventsOnly.hold _ _ _ _

/-- Raising an event writes event records and nothing else. -/
theorem EventsOnly.raiseSev (b : Blk) (sev code ctx : Nat) (pan : Pan) (detail : Nat) : EventsOnly b (b.raiseSev sev code ctx pan detail) := by
  unfold Blk.raiseSev
  dsimp only
  split
  · exact (EventsOnly.sinkFlush b).trans (.offer _ _ _)
  · exact (EventsOnly.sinkFlush b).trans (.bootHold _ _)

theorem EventsOnly.raise (b : Blk) (code ctx : Nat) (pan : Pan) (detail : Nat) : EventsOnly b (b.raise code ctx pan detail) := .raiseSev _ _ _ _ _ _
theorem EventsOnly.raiseMod (b : Blk) (code detail : Nat) : EventsOnly b (b.raiseMod code detail) := .raise _ _ _ _ _

theorem EventsOnly.refill (b : Blk) (key : Nat) : EventsOnly b (b.refill key) := by
  unfold Blk.refill
  dsimp only
  exact (EventsOnly.setBucket _ _ _).trans (EventsOnly.foldl _ (fun b r => .release _ _ _) _ _)

/-- A block update under a raised event: the state becomes the updated block, but for event records. -/
theorem Becomes.raise (s : State) (b : Blk) (code ctx : Nat) (pan : Pan) (detail : Nat) : Becomes s (s.setB (b.raise code ctx pan detail)) b :=
  ⟨rfl, rfl, .raise _ _ _ _ _⟩

theorem Becomes.raiseMod (s : State) (b : Blk) (code detail : Nat) : Becomes s (s.setB (b.raiseMod code detail)) b := ⟨rfl, rfl, .raiseMod _ _ _⟩

theorem Becomes.setB (s : State) (b : Blk) : Becomes s (s.setB b) b := ⟨rfl, rfl, .refl b⟩

/-- A fold whose steps leave a reading of the block leaves it. -/
theorem Blk.foldl_field {α β : Type} (g : Blk → β) (f : Blk → α → Blk) (h : ∀ b a, g (f b a) = g b) (l : List α) : ∀ b, g (l.foldl f b) = g b := by
  induction l with
  | nil => exact fun _ => rfl
  | cons a l ih => exact fun b => (ih _).trans (h b a)

/-! ### Field by field -/

theorem EventsOnly.out {a b : Blk} (h : EventsOnly a b) : b.out = a.out := by rw [h.rest]
theorem EventsOnly.freeCtr {a b : Blk} (h : EventsOnly a b) : b.freeCtr = a.freeCtr := by rw [h.rest]
theorem EventsOnly.now {a b : Blk} (h : EventsOnly a b) : b.now = a.now := by rw [h.rest]
theorem EventsOnly.pend {a b : Blk} (h : EventsOnly a b) : b.pend = a.pend := by rw [h.rest]
theorem EventsOnly.pwr {a b : Blk} (h : EventsOnly a b) : b.pwr = a.pwr := by rw [h.rest]
theorem EventsOnly.tide {a b : Blk} (h : EventsOnly a b) : b.tide = a.tide := by rw [h.rest]
theorem EventsOnly.xing {a b : Blk} (h : EventsOnly a b) : b.xing = a.xing := by rw [h.rest]
theorem EventsOnly.pan {a b : Blk} (h : EventsOnly a b) : b.pan = a.pan := by rw [h.rest]
theorem EventsOnly.mc {a b : Blk} (h : EventsOnly a b) : b.mc = a.mc := by rw [h.rest]
theorem EventsOnly.repairs {a b : Blk} (h : EventsOnly a b) : b.repairs = a.repairs := by rw [h.rest]
theorem EventsOnly.slu {a b : Blk} (h : EventsOnly a b) : b.slu = a.slu := by rw [h.rest]
theorem EventsOnly.me {a b : Blk} (h : EventsOnly a b) : b.me = a.me := by rw [h.rest]
theorem EventsOnly.ve {a b : Blk} (h : EventsOnly a b) : b.ve = a.ve := by rw [h.rest]
theorem EventsOnly.rk {a b : Blk} (h : EventsOnly a b) : b.rk = a.rk := by rw [h.rest]
theorem EventsOnly.strm {a b : Blk} (h : EventsOnly a b) : b.strm = a.strm := by rw [h.rest]
theorem EventsOnly.recs {a b : Blk} (h : EventsOnly a b) : b.recs = a.recs := by rw [h.rest]
theorem EventsOnly.held {a b : Blk} (h : EventsOnly a b) : b.held = a.held := by rw [h.rest]
theorem EventsOnly.recFull {a b : Blk} (h : EventsOnly a b) : b.recFull = a.recFull := by rw [h.rest]
theorem EventsOnly.wins {a b : Blk} (h : EventsOnly a b) : b.wins = a.wins := by rw [h.rest]
theorem EventsOnly.ports {a b : Blk} (h : EventsOnly a b) : b.ports = a.ports := by rw [h.rest]
theorem EventsOnly.colls {a b : Blk} (h : EventsOnly a b) : b.colls = a.colls := by rw [h.rest]
theorem EventsOnly.ces {a b : Blk} (h : EventsOnly a b) : b.ces = a.ces := by rw [h.rest]
theorem EventsOnly.heldShards {a b : Blk} (h : EventsOnly a b) : b.heldShards = a.heldShards := by rw [h.rest]
theorem EventsOnly.rst {a b : Blk} (h : EventsOnly a b) : b.rst = a.rst := by rw [h.rest]
theorem EventsOnly.store {a b : Blk} (h : EventsOnly a b) : b.store = a.store := by rw [h.rest]
theorem EventsOnly.mon {a b : Blk} (h : EventsOnly a b) : b.mon = a.mon := by rw [h.rest]
theorem EventsOnly.tst {a b : Blk} (h : EventsOnly a b) : b.tst = a.tst := by rw [h.rest]
theorem EventsOnly.spare {a b : Blk} (h : EventsOnly a b) : b.spare = a.spare := by rw [h.rest]
theorem EventsOnly.cfg {a b : Blk} (h : EventsOnly a b) : b.cfg = a.cfg := by rw [h.rest]
theorem EventsOnly.evSeq {a b : Blk} (h : EventsOnly a b) : b.evSeq = a.evSeq := by rw [h.rest]

@[simp] theorem Blk.raiseSev_out (b : Blk) (sev code ctx : Nat) (pan : Pan) (d : Nat) : (b.raiseSev sev code ctx pan d).out = b.out := (EventsOnly.raiseSev _ _ _ _ _ _).out
@[simp] theorem Blk.raiseSev_freeCtr (b : Blk) (sev code ctx : Nat) (pan : Pan) (d : Nat) : (b.raiseSev sev code ctx pan d).freeCtr = b.freeCtr := (EventsOnly.raiseSev _ _ _ _ _ _).freeCtr
@[simp] theorem Blk.raiseSev_now (b : Blk) (sev code ctx : Nat) (pan : Pan) (d : Nat) : (b.raiseSev sev code ctx pan d).now = b.now := (EventsOnly.raiseSev _ _ _ _ _ _).now
@[simp] theorem Blk.raiseSev_pend (b : Blk) (sev code ctx : Nat) (pan : Pan) (d : Nat) : (b.raiseSev sev code ctx pan d).pend = b.pend := (EventsOnly.raiseSev _ _ _ _ _ _).pend
@[simp] theorem Blk.raiseSev_pwr (b : Blk) (sev code ctx : Nat) (pan : Pan) (d : Nat) : (b.raiseSev sev code ctx pan d).pwr = b.pwr := (EventsOnly.raiseSev _ _ _ _ _ _).pwr
@[simp] theorem Blk.raiseSev_tide (b : Blk) (sev code ctx : Nat) (pan : Pan) (d : Nat) : (b.raiseSev sev code ctx pan d).tide = b.tide := (EventsOnly.raiseSev _ _ _ _ _ _).tide
@[simp] theorem Blk.raiseSev_xing (b : Blk) (sev code ctx : Nat) (pan : Pan) (d : Nat) : (b.raiseSev sev code ctx pan d).xing = b.xing := (EventsOnly.raiseSev _ _ _ _ _ _).xing
@[simp] theorem Blk.raiseSev_pan (b : Blk) (sev code ctx : Nat) (pan : Pan) (d : Nat) : (b.raiseSev sev code ctx pan d).pan = b.pan := (EventsOnly.raiseSev _ _ _ _ _ _).pan
@[simp] theorem Blk.raiseSev_mc (b : Blk) (sev code ctx : Nat) (pan : Pan) (d : Nat) : (b.raiseSev sev code ctx pan d).mc = b.mc := (EventsOnly.raiseSev _ _ _ _ _ _).mc
@[simp] theorem Blk.raiseSev_repairs (b : Blk) (sev code ctx : Nat) (pan : Pan) (d : Nat) : (b.raiseSev sev code ctx pan d).repairs = b.repairs := (EventsOnly.raiseSev _ _ _ _ _ _).repairs
@[simp] theorem Blk.raiseSev_slu (b : Blk) (sev code ctx : Nat) (pan : Pan) (d : Nat) : (b.raiseSev sev code ctx pan d).slu = b.slu := (EventsOnly.raiseSev _ _ _ _ _ _).slu
@[simp] theorem Blk.raiseSev_me (b : Blk) (sev code ctx : Nat) (pan : Pan) (d : Nat) : (b.raiseSev sev code ctx pan d).me = b.me := (EventsOnly.raiseSev _ _ _ _ _ _).me
@[simp] theorem Blk.raiseSev_ve (b : Blk) (sev code ctx : Nat) (pan : Pan) (d : Nat) : (b.raiseSev sev code ctx pan d).ve = b.ve := (EventsOnly.raiseSev _ _ _ _ _ _).ve
@[simp] theorem Blk.raiseSev_rk (b : Blk) (sev code ctx : Nat) (pan : Pan) (d : Nat) : (b.raiseSev sev code ctx pan d).rk = b.rk := (EventsOnly.raiseSev _ _ _ _ _ _).rk
@[simp] theorem Blk.raiseSev_strm (b : Blk) (sev code ctx : Nat) (pan : Pan) (d : Nat) : (b.raiseSev sev code ctx pan d).strm = b.strm := (EventsOnly.raiseSev _ _ _ _ _ _).strm
@[simp] theorem Blk.raiseSev_recs (b : Blk) (sev code ctx : Nat) (pan : Pan) (d : Nat) : (b.raiseSev sev code ctx pan d).recs = b.recs := (EventsOnly.raiseSev _ _ _ _ _ _).recs
@[simp] theorem Blk.raiseSev_held (b : Blk) (sev code ctx : Nat) (pan : Pan) (d : Nat) : (b.raiseSev sev code ctx pan d).held = b.held := (EventsOnly.raiseSev _ _ _ _ _ _).held
@[simp] theorem Blk.raiseSev_recFull (b : Blk) (sev code ctx : Nat) (pan : Pan) (d : Nat) : (b.raiseSev sev code ctx pan d).recFull = b.recFull := (EventsOnly.raiseSev _ _ _ _ _ _).recFull
@[simp] theorem Blk.raiseSev_wins (b : Blk) (sev code ctx : Nat) (pan : Pan) (d : Nat) : (b.raiseSev sev code ctx pan d).wins = b.wins := (EventsOnly.raiseSev _ _ _ _ _ _).wins
@[simp] theorem Blk.raiseSev_ports (b : Blk) (sev code ctx : Nat) (pan : Pan) (d : Nat) : (b.raiseSev sev code ctx pan d).ports = b.ports := (EventsOnly.raiseSev _ _ _ _ _ _).ports
@[simp] theorem Blk.raiseSev_colls (b : Blk) (sev code ctx : Nat) (pan : Pan) (d : Nat) : (b.raiseSev sev code ctx pan d).colls = b.colls := (EventsOnly.raiseSev _ _ _ _ _ _).colls
@[simp] theorem Blk.raiseSev_ces (b : Blk) (sev code ctx : Nat) (pan : Pan) (d : Nat) : (b.raiseSev sev code ctx pan d).ces = b.ces := (EventsOnly.raiseSev _ _ _ _ _ _).ces
@[simp] theorem Blk.raiseSev_heldShards (b : Blk) (sev code ctx : Nat) (pan : Pan) (d : Nat) : (b.raiseSev sev code ctx pan d).heldShards = b.heldShards := (EventsOnly.raiseSev _ _ _ _ _ _).heldShards
@[simp] theorem Blk.raiseSev_rst (b : Blk) (sev code ctx : Nat) (pan : Pan) (d : Nat) : (b.raiseSev sev code ctx pan d).rst = b.rst := (EventsOnly.raiseSev _ _ _ _ _ _).rst
@[simp] theorem Blk.raiseSev_store (b : Blk) (sev code ctx : Nat) (pan : Pan) (d : Nat) : (b.raiseSev sev code ctx pan d).store = b.store := (EventsOnly.raiseSev _ _ _ _ _ _).store
@[simp] theorem Blk.raiseSev_mon (b : Blk) (sev code ctx : Nat) (pan : Pan) (d : Nat) : (b.raiseSev sev code ctx pan d).mon = b.mon := (EventsOnly.raiseSev _ _ _ _ _ _).mon
@[simp] theorem Blk.raiseSev_tst (b : Blk) (sev code ctx : Nat) (pan : Pan) (d : Nat) : (b.raiseSev sev code ctx pan d).tst = b.tst := (EventsOnly.raiseSev _ _ _ _ _ _).tst
@[simp] theorem Blk.raiseSev_spare (b : Blk) (sev code ctx : Nat) (pan : Pan) (d : Nat) : (b.raiseSev sev code ctx pan d).spare = b.spare := (EventsOnly.raiseSev _ _ _ _ _ _).spare
@[simp] theorem Blk.raiseSev_cfg (b : Blk) (sev code ctx : Nat) (pan : Pan) (d : Nat) : (b.raiseSev sev code ctx pan d).cfg = b.cfg := (EventsOnly.raiseSev _ _ _ _ _ _).cfg
@[simp] theorem Blk.raiseSev_evSeq (b : Blk) (sev code ctx : Nat) (pan : Pan) (d : Nat) : (b.raiseSev sev code ctx pan d).evSeq = b.evSeq := (EventsOnly.raiseSev _ _ _ _ _ _).evSeq
@[simp] theorem Blk.raiseSev_ctx_st (b : Blk) (sev code ctx : Nat) (pan : Pan) (d : Nat) (n : Nat) : ((b.raiseSev sev code ctx pan d).ctx n).st = (b.ctx n).st := by rw [(EventsOnly.raiseSev _ _ _ _ _ _).ctx n]
@[simp] theorem Blk.raiseSev_ctx_qos (b : Blk) (sev code ctx : Nat) (pan : Pan) (d : Nat) (n : Nat) : ((b.raiseSev sev code ctx pan d).ctx n).qos = (b.ctx n).qos := by rw [(EventsOnly.raiseSev _ _ _ _ _ _).ctx n]
@[simp] theorem Blk.raiseSev_ctx_rec_ (b : Blk) (sev code ctx : Nat) (pan : Pan) (d : Nat) (n : Nat) : ((b.raiseSev sev code ctx pan d).ctx n).rec_ = (b.ctx n).rec_ := by rw [(EventsOnly.raiseSev _ _ _ _ _ _).ctx n]
@[simp] theorem Blk.raiseSev_ctx_tdStep (b : Blk) (sev code ctx : Nat) (pan : Pan) (d : Nat) (n : Nat) : ((b.raiseSev sev code ctx pan d).ctx n).tdStep = (b.ctx n).tdStep := by rw [(EventsOnly.raiseSev _ _ _ _ _ _).ctx n]
@[simp] theorem Blk.raiseSev_ctx_tdReason (b : Blk) (sev code ctx : Nat) (pan : Pan) (d : Nat) (n : Nat) : ((b.raiseSev sev code ctx pan d).ctx n).tdReason = (b.ctx n).tdReason := by rw [(EventsOnly.raiseSev _ _ _ _ _ _).ctx n]
@[simp] theorem Blk.raiseSev_ctx_tdStart (b : Blk) (sev code ctx : Nat) (pan : Pan) (d : Nat) (n : Nat) : ((b.raiseSev sev code ctx pan d).ctx n).tdStart = (b.ctx n).tdStart := by rw [(EventsOnly.raiseSev _ _ _ _ _ _).ctx n]
@[simp] theorem Blk.raiseSev_ctx_quarEnd (b : Blk) (sev code ctx : Nat) (pan : Pan) (d : Nat) (n : Nat) : ((b.raiseSev sev code ctx pan d).ctx n).quarEnd = (b.ctx n).quarEnd := by rw [(EventsOnly.raiseSev _ _ _ _ _ _).ctx n]
@[simp] theorem Blk.raiseSev_ctx_next (b : Blk) (sev code ctx : Nat) (pan : Pan) (d : Nat) (n : Nat) : ((b.raiseSev sev code ctx pan d).ctx n).next = (b.ctx n).next := by rw [(EventsOnly.raiseSev _ _ _ _ _ _).ctx n]
@[simp] theorem Blk.raiseSev_ctx_schedNext (b : Blk) (sev code ctx : Nat) (pan : Pan) (d : Nat) (n : Nat) : ((b.raiseSev sev code ctx pan d).ctx n).schedNext = (b.ctx n).schedNext := by rw [(EventsOnly.raiseSev _ _ _ _ _ _).ctx n]
@[simp] theorem Blk.raiseSev_ctx_offNext (b : Blk) (sev code ctx : Nat) (pan : Pan) (d : Nat) (n : Nat) : ((b.raiseSev sev code ctx pan d).ctx n).offNext = (b.ctx n).offNext := by rw [(EventsOnly.raiseSev _ _ _ _ _ _).ctx n]
@[simp] theorem Blk.raiseSev_ctx_fault (b : Blk) (sev code ctx : Nat) (pan : Pan) (d : Nat) (n : Nat) : ((b.raiseSev sev code ctx pan d).ctx n).fault = (b.ctx n).fault := by rw [(EventsOnly.raiseSev _ _ _ _ _ _).ctx n]
@[simp] theorem Blk.raiseSev_ctx_lateDrop (b : Blk) (sev code ctx : Nat) (pan : Pan) (d : Nat) (n : Nat) : ((b.raiseSev sev code ctx pan d).ctx n).lateDrop = (b.ctx n).lateDrop := by rw [(EventsOnly.raiseSev _ _ _ _ _ _).ctx n]
@[simp] theorem Blk.raiseSev_ctx_lateAll (b : Blk) (sev code ctx : Nat) (pan : Pan) (d : Nat) (n : Nat) : ((b.raiseSev sev code ctx pan d).ctx n).lateAll = (b.ctx n).lateAll := by rw [(EventsOnly.raiseSev _ _ _ _ _ _).ctx n]
@[simp] theorem Blk.raiseSev_ctx_tdUs (b : Blk) (sev code ctx : Nat) (pan : Pan) (d : Nat) (n : Nat) : ((b.raiseSev sev code ctx pan d).ctx n).tdUs = (b.ctx n).tdUs := by rw [(EventsOnly.raiseSev _ _ _ _ _ _).ctx n]
@[simp] theorem Blk.raiseSev_ctx_seq (b : Blk) (sev code ctx : Nat) (pan : Pan) (d : Nat) (n : Nat) : ((b.raiseSev sev code ctx pan d).ctx n).seq = (b.ctx n).seq := by rw [(EventsOnly.raiseSev _ _ _ _ _ _).ctx n]
@[simp] theorem Blk.raiseSev_ctx_open_ (b : Blk) (sev code ctx : Nat) (pan : Pan) (d : Nat) (n : Nat) : ((b.raiseSev sev code ctx pan d).ctx n).open_ = (b.ctx n).open_ := by rw [(EventsOnly.raiseSev _ _ _ _ _ _).ctx n]
@[simp] theorem Blk.raiseSev_ctx_handles (b : Blk) (sev code ctx : Nat) (pan : Pan) (d : Nat) (n : Nat) : ((b.raiseSev sev code ctx pan d).ctx n).handles = (b.ctx n).handles := by rw [(EventsOnly.raiseSev _ _ _ _ _ _).ctx n]
@[simp] theorem Blk.raiseSev_ctx_step (b : Blk) (sev code ctx : Nat) (pan : Pan) (d : Nat) (n : Nat) : ((b.raiseSev sev code ctx pan d).ctx n).step = (b.ctx n).step := by rw [(EventsOnly.raiseSev _ _ _ _ _ _).ctx n]
@[simp] theorem Blk.raiseSev_ctx_pos (b : Blk) (sev code ctx : Nat) (pan : Pan) (d : Nat) (n : Nat) : ((b.raiseSev sev code ctx pan d).ctx n).pos = (b.ctx n).pos := by rw [(EventsOnly.raiseSev _ _ _ _ _ _).ctx n]
@[simp] theorem Blk.raiseSev_ctx_flags (b : Blk) (sev code ctx : Nat) (pan : Pan) (d : Nat) (n : Nat) : ((b.raiseSev sev code ctx pan d).ctx n).flags = (b.ctx n).flags := by rw [(EventsOnly.raiseSev _ _ _ _ _ _).ctx n]
@[simp] theorem Blk.raiseSev_ctx_regions (b : Blk) (sev code ctx : Nat) (pan : Pan) (d : Nat) (n : Nat) : ((b.raiseSev sev code ctx pan d).ctx n).regions = (b.ctx n).regions := by rw [(EventsOnly.raiseSev _ _ _ _ _ _).ctx n]
@[simp] theorem Blk.raiseSev_ctx_phase (b : Blk) (sev code ctx : Nat) (pan : Pan) (d : Nat) (n : Nat) : ((b.raiseSev sev code ctx pan d).ctx n).phase = (b.ctx n).phase := by rw [(EventsOnly.raiseSev _ _ _ _ _ _).ctx n]
@[simp] theorem Blk.raiseSev_ctx_gen (b : Blk) (sev code ctx : Nat) (pan : Pan) (d : Nat) (n : Nat) : ((b.raiseSev sev code ctx pan d).ctx n).gen = (b.ctx n).gen := by rw [(EventsOnly.raiseSev _ _ _ _ _ _).ctx n]
@[simp] theorem Blk.raiseSev_ctx_learn (b : Blk) (sev code ctx : Nat) (pan : Pan) (d : Nat) (n : Nat) : ((b.raiseSev sev code ctx pan d).ctx n).learn = (b.ctx n).learn := by rw [(EventsOnly.raiseSev _ _ _ _ _ _).ctx n]
@[simp] theorem Blk.raiseSev_ctx_genEnd (b : Blk) (sev code ctx : Nat) (pan : Pan) (d : Nat) (n : Nat) : ((b.raiseSev sev code ctx pan d).ctx n).genEnd = (b.ctx n).genEnd := by rw [(EventsOnly.raiseSev _ _ _ _ _ _).ctx n]
@[simp] theorem Blk.raiseSev_ctx_barrier (b : Blk) (sev code ctx : Nat) (pan : Pan) (d : Nat) (n : Nat) : ((b.raiseSev sev code ctx pan d).ctx n).barrier = (b.ctx n).barrier := by rw [(EventsOnly.raiseSev _ _ _ _ _ _).ctx n]
@[simp] theorem Blk.raiseSev_ctx_learnAt (b : Blk) (sev code ctx : Nat) (pan : Pan) (d : Nat) (n : Nat) : ((b.raiseSev sev code ctx pan d).ctx n).learnAt = (b.ctx n).learnAt := by rw [(EventsOnly.raiseSev _ _ _ _ _ _).ctx n]
@[simp] theorem Blk.raiseSev_ctx_learnLate (b : Blk) (sev code ctx : Nat) (pan : Pan) (d : Nat) (n : Nat) : ((b.raiseSev sev code ctx pan d).ctx n).learnLate = (b.ctx n).learnLate := by rw [(EventsOnly.raiseSev _ _ _ _ _ _).ctx n]
@[simp] theorem Blk.raiseSev_ctx_buf0 (b : Blk) (sev code ctx : Nat) (pan : Pan) (d : Nat) (n : Nat) : ((b.raiseSev sev code ctx pan d).ctx n).buf0 = (b.ctx n).buf0 := by rw [(EventsOnly.raiseSev _ _ _ _ _ _).ctx n]
@[simp] theorem Blk.raiseSev_ctx_buf1 (b : Blk) (sev code ctx : Nat) (pan : Pan) (d : Nat) (n : Nat) : ((b.raiseSev sev code ctx pan d).ctx n).buf1 = (b.ctx n).buf1 := by rw [(EventsOnly.raiseSev _ _ _ _ _ _).ctx n]
@[simp] theorem Blk.raiseSev_ctx_waitTides (b : Blk) (sev code ctx : Nat) (pan : Pan) (d : Nat) (n : Nat) : ((b.raiseSev sev code ctx pan d).ctx n).waitTides = (b.ctx n).waitTides := by rw [(EventsOnly.raiseSev _ _ _ _ _ _).ctx n]
@[simp] theorem Blk.raiseSev_ctx_pairWaitRaised (b : Blk) (sev code ctx : Nat) (pan : Pan) (d : Nat) (n : Nat) : ((b.raiseSev sev code ctx pan d).ctx n).pairWaitRaised = (b.ctx n).pairWaitRaised := by rw [(EventsOnly.raiseSev _ _ _ _ _ _).ctx n]
@[simp] theorem Blk.raiseSev_ctx_refused (b : Blk) (sev code ctx : Nat) (pan : Pan) (d : Nat) (n : Nat) : ((b.raiseSev sev code ctx pan d).ctx n).refused = (b.ctx n).refused := by rw [(EventsOnly.raiseSev _ _ _ _ _ _).ctx n]
@[simp] theorem Blk.raiseSev_ctx_loads (b : Blk) (sev code ctx : Nat) (pan : Pan) (d : Nat) (n : Nat) : ((b.raiseSev sev code ctx pan d).ctx n).loads = (b.ctx n).loads := by rw [(EventsOnly.raiseSev _ _ _ _ _ _).ctx n]
@[simp] theorem Blk.raiseSev_ctx_created (b : Blk) (sev code ctx : Nat) (pan : Pan) (d : Nat) (n : Nat) : ((b.raiseSev sev code ctx pan d).ctx n).created = (b.ctx n).created := by rw [(EventsOnly.raiseSev _ _ _ _ _ _).ctx n]
@[simp] theorem Blk.raiseSev_ctx_epoch (b : Blk) (sev code ctx : Nat) (pan : Pan) (d : Nat) (n : Nat) : ((b.raiseSev sev code ctx pan d).ctx n).epoch = (b.ctx n).epoch := by rw [(EventsOnly.raiseSev _ _ _ _ _ _).ctx n]
@[simp] theorem Blk.raiseSev_ctx_collSeq (b : Blk) (sev code ctx : Nat) (pan : Pan) (d : Nat) (n : Nat) : ((b.raiseSev sev code ctx pan d).ctx n).collSeq = (b.ctx n).collSeq := by rw [(EventsOnly.raiseSev _ _ _ _ _ _).ctx n]
@[simp] theorem Blk.raiseSev_ctx_draws (b : Blk) (sev code ctx : Nat) (pan : Pan) (d : Nat) (n : Nat) : ((b.raiseSev sev code ctx pan d).ctx n).draws = (b.ctx n).draws := by rw [(EventsOnly.raiseSev _ _ _ _ _ _).ctx n]
@[simp] theorem Blk.raiseSev_ctx_layer (b : Blk) (sev code ctx : Nat) (pan : Pan) (d : Nat) (n : Nat) : ((b.raiseSev sev code ctx pan d).ctx n).layer = (b.ctx n).layer := by rw [(EventsOnly.raiseSev _ _ _ _ _ _).ctx n]
@[simp] theorem Blk.raiseSev_ctx_dir (b : Blk) (sev code ctx : Nat) (pan : Pan) (d : Nat) (n : Nat) : ((b.raiseSev sev code ctx pan d).ctx n).dir = (b.ctx n).dir := by rw [(EventsOnly.raiseSev _ _ _ _ _ _).ctx n]
@[simp] theorem Blk.raiseSev_ctx_off (b : Blk) (sev code ctx : Nat) (pan : Pan) (d : Nat) (n : Nat) : ((b.raiseSev sev code ctx pan d).ctx n).off = (b.ctx n).off := by rw [(EventsOnly.raiseSev _ _ _ _ _ _).ctx n]
@[simp] theorem Blk.raiseSev_ctx_returning (b : Blk) (sev code ctx : Nat) (pan : Pan) (d : Nat) (n : Nat) : ((b.raiseSev sev code ctx pan d).ctx n).returning = (b.ctx n).returning := by rw [(EventsOnly.raiseSev _ _ _ _ _ _).ctx n]
@[simp] theorem Blk.raiseSev_ctx_hrv (b : Blk) (sev code ctx : Nat) (pan : Pan) (d : Nat) (n : Nat) : ((b.raiseSev sev code ctx pan d).ctx n).hrv = (b.ctx n).hrv := by rw [(EventsOnly.raiseSev _ _ _ _ _ _).ctx n]
@[simp] theorem Blk.raiseSev_ctx_queues (b : Blk) (sev code ctx : Nat) (pan : Pan) (d : Nat) (n : Nat) : ((b.raiseSev sev code ctx pan d).ctx n).queues = (b.ctx n).queues := by rw [(EventsOnly.raiseSev _ _ _ _ _ _).ctx n]
@[simp] theorem Blk.raiseSev_sec_bootState (b : Blk) (sev code ctx : Nat) (pan : Pan) (d : Nat) : (b.raiseSev sev code ctx pan d).sec.bootState = b.sec.bootState := by rw [(EventsOnly.raiseSev _ _ _ _ _ _).rest]
@[simp] theorem Blk.raiseSev_sec_booting (b : Blk) (sev code ctx : Nat) (pan : Pan) (d : Nat) : (b.raiseSev sev code ctx pan d).sec.booting = b.sec.booting := by rw [(EventsOnly.raiseSev _ _ _ _ _ _).rest]
@[simp] theorem Blk.raiseSev_sec_configured (b : Blk) (sev code ctx : Nat) (pan : Pan) (d : Nat) : (b.raiseSev sev code ctx pan d).sec.configured = b.sec.configured := by rw [(EventsOnly.raiseSev _ _ _ _ _ _).rest]
@[simp] theorem Blk.raiseSev_sec_ready (b : Blk) (sev code ctx : Nat) (pan : Pan) (d : Nat) : (b.raiseSev sev code ctx pan d).sec.ready = b.sec.ready := by rw [(EventsOnly.raiseSev _ _ _ _ _ _).rest]
@[simp] theorem Blk.raiseSev_sec_recovery (b : Blk) (sev code ctx : Nat) (pan : Pan) (d : Nat) : (b.raiseSev sev code ctx pan d).sec.recovery = b.sec.recovery := by rw [(EventsOnly.raiseSev _ _ _ _ _ _).rest]
@[simp] theorem Blk.raiseSev_sec_bootLate (b : Blk) (sev code ctx : Nat) (pan : Pan) (d : Nat) : (b.raiseSev sev code ctx pan d).sec.bootLate = b.sec.bootLate := by rw [(EventsOnly.raiseSev _ _ _ _ _ _).rest]
@[simp] theorem Blk.raiseSev_sec_slot (b : Blk) (sev code ctx : Nat) (pan : Pan) (d : Nat) : (b.raiseSev sev code ctx pan d).sec.slot = b.sec.slot := by rw [(EventsOnly.raiseSev _ _ _ _ _ _).rest]
@[simp] theorem Blk.raiseSev_sec_fallback (b : Blk) (sev code ctx : Nat) (pan : Pan) (d : Nat) : (b.raiseSev sev code ctx pan d).sec.fallback = b.sec.fallback := by rw [(EventsOnly.raiseSev _ _ _ _ _ _).rest]
@[simp] theorem Blk.raiseSev_sec_unlock (b : Blk) (sev code ctx : Nat) (pan : Pan) (d : Nat) : (b.raiseSev sev code ctx pan d).sec.unlock = b.sec.unlock := by rw [(EventsOnly.raiseSev _ _ _ _ _ _).rest]
@[simp] theorem Blk.raiseSev_sec_unlockNext (b : Blk) (sev code ctx : Nat) (pan : Pan) (d : Nat) : (b.raiseSev sev code ctx pan d).sec.unlockNext = b.sec.unlockNext := by rw [(EventsOnly.raiseSev _ _ _ _ _ _).rest]
@[simp] theorem Blk.raiseSev_sec_rootHash (b : Blk) (sev code ctx : Nat) (pan : Pan) (d : Nat) : (b.raiseSev sev code ctx pan d).sec.rootHash = b.sec.rootHash := by rw [(EventsOnly.raiseSev _ _ _ _ _ _).rest]
@[simp] theorem Blk.raiseSev_sec_ownerHash (b : Blk) (sev code ctx : Nat) (pan : Pan) (d : Nat) : (b.raiseSev sev code ctx pan d).sec.ownerHash = b.sec.ownerHash := by rw [(EventsOnly.raiseSev _ _ _ _ _ _).rest]
@[simp] theorem Blk.raiseSev_sec_romSha (b : Blk) (sev code ctx : Nat) (pan : Pan) (d : Nat) : (b.raiseSev sev code ctx pan d).sec.romSha = b.sec.romSha := by rw [(EventsOnly.raiseSev _ _ _ _ _ _).rest]
@[simp] theorem Blk.raiseSev_sec_imageKey (b : Blk) (sev code ctx : Nat) (pan : Pan) (d : Nat) : (b.raiseSev sev code ctx pan d).sec.imageKey = b.sec.imageKey := by rw [(EventsOnly.raiseSev _ _ _ _ _ _).rest]
@[simp] theorem Blk.raiseSev_sec_serial (b : Blk) (sev code ctx : Nat) (pan : Pan) (d : Nat) : (b.raiseSev sev code ctx pan d).sec.serial = b.sec.serial := by rw [(EventsOnly.raiseSev _ _ _ _ _ _).rest]
@[simp] theorem Blk.raiseSev_sec_minSvn (b : Blk) (sev code ctx : Nat) (pan : Pan) (d : Nat) : (b.raiseSev sev code ctx pan d).sec.minSvn = b.sec.minSvn := by rw [(EventsOnly.raiseSev _ _ _ _ _ _).rest]
@[simp] theorem Blk.raiseSev_sec_svn (b : Blk) (sev code ctx : Nat) (pan : Pan) (d : Nat) : (b.raiseSev sev code ctx pan d).sec.svn = b.sec.svn := by rw [(EventsOnly.raiseSev _ _ _ _ _ _).rest]
@[simp] theorem Blk.raiseSev_sec_slot0 (b : Blk) (sev code ctx : Nat) (pan : Pan) (d : Nat) : (b.raiseSev sev code ctx pan d).sec.slot0 = b.sec.slot0 := by rw [(EventsOnly.raiseSev _ _ _ _ _ _).rest]
@[simp] theorem Blk.raiseSev_sec_slot1 (b : Blk) (sev code ctx : Nat) (pan : Pan) (d : Nat) : (b.raiseSev sev code ctx pan d).sec.slot1 = b.sec.slot1 := by rw [(EventsOnly.raiseSev _ _ _ _ _ _).rest]
@[simp] theorem Blk.raiseSev_sec_select (b : Blk) (sev code ctx : Nat) (pan : Pan) (d : Nat) : (b.raiseSev sev code ctx pan d).sec.select = b.sec.select := by rw [(EventsOnly.raiseSev _ _ _ _ _ _).rest]
@[simp] theorem Blk.raiseSev_sec_switchPend (b : Blk) (sev code ctx : Nat) (pan : Pan) (d : Nat) : (b.raiseSev sev code ctx pan d).sec.switchPend = b.sec.switchPend := by rw [(EventsOnly.raiseSev _ _ _ _ _ _).rest]
@[simp] theorem Blk.raiseSev_sec_switchCfg (b : Blk) (sev code ctx : Nat) (pan : Pan) (d : Nat) : (b.raiseSev sev code ctx pan d).sec.switchCfg = b.sec.switchCfg := by rw [(EventsOnly.raiseSev _ _ _ _ _ _).rest]
@[simp] theorem Blk.raiseSev_sec_authFail (b : Blk) (sev code ctx : Nat) (pan : Pan) (d : Nat) : (b.raiseSev sev code ctx pan d).sec.authFail = b.sec.authFail := by rw [(EventsOnly.raiseSev _ _ _ _ _ _).rest]
@[simp] theorem Blk.raiseSev_sec_tagFail (b : Blk) (sev code ctx : Nat) (pan : Pan) (d : Nat) : (b.raiseSev sev code ctx pan d).sec.tagFail = b.sec.tagFail := by rw [(EventsOnly.raiseSev _ _ _ _ _ _).rest]
@[simp] theorem Blk.raiseSev_sec_glitchVolt (b : Blk) (sev code ctx : Nat) (pan : Pan) (d : Nat) : (b.raiseSev sev code ctx pan d).sec.glitchVolt = b.sec.glitchVolt := by rw [(EventsOnly.raiseSev _ _ _ _ _ _).rest]
@[simp] theorem Blk.raiseSev_sec_glitchClk (b : Blk) (sev code ctx : Nat) (pan : Pan) (d : Nat) : (b.raiseSev sev code ctx pan d).sec.glitchClk = b.sec.glitchClk := by rw [(EventsOnly.raiseSev _ _ _ _ _ _).rest]
@[simp] theorem Blk.raiseSev_sec_glitchPend (b : Blk) (sev code ctx : Nat) (pan : Pan) (d : Nat) : (b.raiseSev sev code ctx pan d).sec.glitchPend = b.sec.glitchPend := by rw [(EventsOnly.raiseSev _ _ _ _ _ _).rest]
@[simp] theorem Blk.raiseSev_sec_reason (b : Blk) (sev code ctx : Nat) (pan : Pan) (d : Nat) : (b.raiseSev sev code ctx pan d).sec.reason = b.sec.reason := by rw [(EventsOnly.raiseSev _ _ _ _ _ _).rest]
@[simp] theorem Blk.raiseSev_sec_dirIndex (b : Blk) (sev code ctx : Nat) (pan : Pan) (d : Nat) : (b.raiseSev sev code ctx pan d).sec.dirIndex = b.sec.dirIndex := by rw [(EventsOnly.raiseSev _ _ _ _ _ _).rest]
@[simp] theorem Blk.raiseSev_sec_bootMs (b : Blk) (sev code ctx : Nat) (pan : Pan) (d : Nat) : (b.raiseSev sev code ctx pan d).sec.bootMs = b.sec.bootMs := by rw [(EventsOnly.raiseSev _ _ _ _ _ _).rest]
@[simp] theorem Blk.raiseSev_sec_report (b : Blk) (sev code ctx : Nat) (pan : Pan) (d : Nat) : (b.raiseSev sev code ctx pan d).sec.report = b.sec.report := by rw [(EventsOnly.raiseSev _ _ _ _ _ _).rest]
@[simp] theorem Blk.raiseSev_sec_sessions (b : Blk) (sev code ctx : Nat) (pan : Pan) (d : Nat) : (b.raiseSev sev code ctx pan d).sec.sessions = b.sec.sessions := by rw [(EventsOnly.raiseSev _ _ _ _ _ _).rest]
@[simp] theorem Blk.raiseSev_sec_tierKeys (b : Blk) (sev code ctx : Nat) (pan : Pan) (d : Nat) : (b.raiseSev sev code ctx pan d).sec.tierKeys = b.sec.tierKeys := by rw [(EventsOnly.raiseSev _ _ _ _ _ _).rest]
@[simp] theorem Blk.raiseSev_mgt_slotId (b : Blk) (sev code ctx : Nat) (pan : Pan) (d : Nat) : (b.raiseSev sev code ctx pan d).mgt.slotId = b.mgt.slotId := by rw [(EventsOnly.raiseSev _ _ _ _ _ _).rest]
@[simp] theorem Blk.raiseSev_mgt_slotBad (b : Blk) (sev code ctx : Nat) (pan : Pan) (d : Nat) : (b.raiseSev sev code ctx pan d).mgt.slotBad = b.mgt.slotBad := by rw [(EventsOnly.raiseSev _ _ _ _ _ _).rest]
@[simp] theorem Blk.raiseSev_mgt_nslot (b : Blk) (sev code ctx : Nat) (pan : Pan) (d : Nat) : (b.raiseSev sev code ctx pan d).mgt.nslot = b.mgt.nslot := by rw [(EventsOnly.raiseSev _ _ _ _ _ _).rest]
@[simp] theorem Blk.raiseSev_mgt_hbK (b : Blk) (sev code ctx : Nat) (pan : Pan) (d : Nat) : (b.raiseSev sev code ctx pan d).mgt.hbK = b.mgt.hbK := by rw [(EventsOnly.raiseSev _ _ _ _ _ _).rest]
@[simp] theorem Blk.raiseSev_mgt_heard (b : Blk) (sev code ctx : Nat) (pan : Pan) (d : Nat) : (b.raiseSev sev code ctx pan d).mgt.heard = b.mgt.heard := by rw [(EventsOnly.raiseSev _ _ _ _ _ _).rest]
@[simp] theorem Blk.raiseSev_mgt_txFrames (b : Blk) (sev code ctx : Nat) (pan : Pan) (d : Nat) : (b.raiseSev sev code ctx pan d).mgt.txFrames = b.mgt.txFrames := by rw [(EventsOnly.raiseSev _ _ _ _ _ _).rest]
@[simp] theorem Blk.raiseSev_mgt_txDiscard (b : Blk) (sev code ctx : Nat) (pan : Pan) (d : Nat) : (b.raiseSev sev code ctx pan d).mgt.txDiscard = b.mgt.txDiscard := by rw [(EventsOnly.raiseSev _ _ _ _ _ _).rest]
@[simp] theorem Blk.raiseSev_mgt_collisions (b : Blk) (sev code ctx : Nat) (pan : Pan) (d : Nat) : (b.raiseSev sev code ctx pan d).mgt.collisions = b.mgt.collisions := by rw [(EventsOnly.raiseSev _ _ _ _ _ _).rest]
@[simp] theorem Blk.raiseSev_mgt_excessive (b : Blk) (sev code ctx : Nat) (pan : Pan) (d : Nat) : (b.raiseSev sev code ctx pan d).mgt.excessive = b.mgt.excessive := by rw [(EventsOnly.raiseSev _ _ _ _ _ _).rest]
@[simp] theorem Blk.raiseSev_mgt_late (b : Blk) (sev code ctx : Nat) (pan : Pan) (d : Nat) : (b.raiseSev sev code ctx pan d).mgt.late = b.mgt.late := by rw [(EventsOnly.raiseSev _ _ _ _ _ _).rest]
@[simp] theorem Blk.raiseSev_mgt_rxFrames (b : Blk) (sev code ctx : Nat) (pan : Pan) (d : Nat) : (b.raiseSev sev code ctx pan d).mgt.rxFrames = b.mgt.rxFrames := by rw [(EventsOnly.raiseSev _ _ _ _ _ _).rest]
@[simp] theorem Blk.raiseSev_mgt_fcsErr (b : Blk) (sev code ctx : Nat) (pan : Pan) (d : Nat) : (b.raiseSev sev code ctx pan d).mgt.fcsErr = b.mgt.fcsErr := by rw [(EventsOnly.raiseSev _ _ _ _ _ _).rest]
@[simp] theorem Blk.raiseSev_mgt_underrun (b : Blk) (sev code ctx : Nat) (pan : Pan) (d : Nat) : (b.raiseSev sev code ctx pan d).mgt.underrun = b.mgt.underrun := by rw [(EventsOnly.raiseSev _ _ _ _ _ _).rest]
@[simp] theorem Blk.raiseSev_mgt_txThresh (b : Blk) (sev code ctx : Nat) (pan : Pan) (d : Nat) : (b.raiseSev sev code ctx pan d).mgt.txThresh = b.mgt.txThresh := by rw [(EventsOnly.raiseSev _ _ _ _ _ _).rest]
@[simp] theorem Blk.raiseSev_mgt_badFrame (b : Blk) (sev code ctx : Nat) (pan : Pan) (d : Nat) : (b.raiseSev sev code ctx pan d).mgt.badFrame = b.mgt.badFrame := by rw [(EventsOnly.raiseSev _ _ _ _ _ _).rest]
@[simp] theorem Blk.raiseSev_mgt_jamTides (b : Blk) (sev code ctx : Nat) (pan : Pan) (d : Nat) : (b.raiseSev sev code ctx pan d).mgt.jamTides = b.mgt.jamTides := by rw [(EventsOnly.raiseSev _ _ _ _ _ _).rest]
@[simp] theorem Blk.raiseSev_mgt_posConflict (b : Blk) (sev code ctx : Nat) (pan : Pan) (d : Nat) : (b.raiseSev sev code ctx pan d).mgt.posConflict = b.mgt.posConflict := by rw [(EventsOnly.raiseSev _ _ _ _ _ _).rest]
@[simp] theorem Blk.raiseSev_mgt_jammed (b : Blk) (sev code ctx : Nat) (pan : Pan) (d : Nat) : (b.raiseSev sev code ctx pan d).mgt.jammed = b.mgt.jammed := by rw [(EventsOnly.raiseSev _ _ _ _ _ _).rest]
@[simp] theorem Blk.raiseSev_mgt_jamNow (b : Blk) (sev code ctx : Nat) (pan : Pan) (d : Nat) : (b.raiseSev sev code ctx pan d).mgt.jamNow = b.mgt.jamNow := by rw [(EventsOnly.raiseSev _ _ _ _ _ _).rest]
@[simp] theorem Blk.raiseSev_mgt_queue (b : Blk) (sev code ctx : Nat) (pan : Pan) (d : Nat) : (b.raiseSev sev code ctx pan d).mgt.queue = b.mgt.queue := by rw [(EventsOnly.raiseSev _ _ _ _ _ _).rest]
@[simp] theorem Blk.raiseSev_mgt_sending (b : Blk) (sev code ctx : Nat) (pan : Pan) (d : Nat) : (b.raiseSev sev code ctx pan d).mgt.sending = b.mgt.sending := by rw [(EventsOnly.raiseSev _ _ _ _ _ _).rest]
@[simp] theorem Blk.raiseSev_mgt_txEnd (b : Blk) (sev code ctx : Nat) (pan : Pan) (d : Nat) : (b.raiseSev sev code ctx pan d).mgt.txEnd = b.mgt.txEnd := by rw [(EventsOnly.raiseSev _ _ _ _ _ _).rest]
@[simp] theorem Blk.raiseSev_mgt_hbTide (b : Blk) (sev code ctx : Nat) (pan : Pan) (d : Nat) : (b.raiseSev sev code ctx pan d).mgt.hbTide = b.mgt.hbTide := by rw [(EventsOnly.raiseSev _ _ _ _ _ _).rest]
@[simp] theorem Blk.raiseSev_mgt_hbVal (b : Blk) (sev code ctx : Nat) (pan : Pan) (d : Nat) : (b.raiseSev sev code ctx pan d).mgt.hbVal = b.mgt.hbVal := by rw [(EventsOnly.raiseSev _ _ _ _ _ _).rest]
@[simp] theorem Blk.raiseSev_mgt_hbStatus (b : Blk) (sev code ctx : Nat) (pan : Pan) (d : Nat) : (b.raiseSev sev code ctx pan d).mgt.hbStatus = b.mgt.hbStatus := by rw [(EventsOnly.raiseSev _ _ _ _ _ _).rest]
@[simp] theorem Blk.raiseSev_mgt_jamIn (b : Blk) (sev code ctx : Nat) (pan : Pan) (d : Nat) : (b.raiseSev sev code ctx pan d).mgt.jamIn = b.mgt.jamIn := by rw [(EventsOnly.raiseSev _ _ _ _ _ _).rest]
@[simp] theorem Blk.raiseSev_mgt_backoff (b : Blk) (sev code ctx : Nat) (pan : Pan) (d : Nat) : (b.raiseSev sev code ctx pan d).mgt.backoff = b.mgt.backoff := by rw [(EventsOnly.raiseSev _ _ _ _ _ _).rest]
@[simp] theorem Blk.raiseSev_mgt_parts (b : Blk) (sev code ctx : Nat) (pan : Pan) (d : Nat) : (b.raiseSev sev code ctx pan d).mgt.parts = b.mgt.parts := by rw [(EventsOnly.raiseSev _ _ _ _ _ _).rest]
@[simp] theorem Blk.raiseSev_mgt_peers (b : Blk) (sev code ctx : Nat) (pan : Pan) (d : Nat) : (b.raiseSev sev code ctx pan d).mgt.peers = b.mgt.peers := by rw [(EventsOnly.raiseSev _ _ _ _ _ _).rest]

@[simp] theorem Blk.raise_out (b : Blk) (code ctx : Nat) (pan : Pan) (d : Nat) : (b.raise code ctx pan d).out = b.out := (EventsOnly.raise _ _ _ _ _).out
@[simp] theorem Blk.raise_freeCtr (b : Blk) (code ctx : Nat) (pan : Pan) (d : Nat) : (b.raise code ctx pan d).freeCtr = b.freeCtr := (EventsOnly.raise _ _ _ _ _).freeCtr
@[simp] theorem Blk.raise_now (b : Blk) (code ctx : Nat) (pan : Pan) (d : Nat) : (b.raise code ctx pan d).now = b.now := (EventsOnly.raise _ _ _ _ _).now
@[simp] theorem Blk.raise_pend (b : Blk) (code ctx : Nat) (pan : Pan) (d : Nat) : (b.raise code ctx pan d).pend = b.pend := (EventsOnly.raise _ _ _ _ _).pend
@[simp] theorem Blk.raise_pwr (b : Blk) (code ctx : Nat) (pan : Pan) (d : Nat) : (b.raise code ctx pan d).pwr = b.pwr := (EventsOnly.raise _ _ _ _ _).pwr
@[simp] theorem Blk.raise_tide (b : Blk) (code ctx : Nat) (pan : Pan) (d : Nat) : (b.raise code ctx pan d).tide = b.tide := (EventsOnly.raise _ _ _ _ _).tide
@[simp] theorem Blk.raise_xing (b : Blk) (code ctx : Nat) (pan : Pan) (d : Nat) : (b.raise code ctx pan d).xing = b.xing := (EventsOnly.raise _ _ _ _ _).xing
@[simp] theorem Blk.raise_pan (b : Blk) (code ctx : Nat) (pan : Pan) (d : Nat) : (b.raise code ctx pan d).pan = b.pan := (EventsOnly.raise _ _ _ _ _).pan
@[simp] theorem Blk.raise_mc (b : Blk) (code ctx : Nat) (pan : Pan) (d : Nat) : (b.raise code ctx pan d).mc = b.mc := (EventsOnly.raise _ _ _ _ _).mc
@[simp] theorem Blk.raise_repairs (b : Blk) (code ctx : Nat) (pan : Pan) (d : Nat) : (b.raise code ctx pan d).repairs = b.repairs := (EventsOnly.raise _ _ _ _ _).repairs
@[simp] theorem Blk.raise_slu (b : Blk) (code ctx : Nat) (pan : Pan) (d : Nat) : (b.raise code ctx pan d).slu = b.slu := (EventsOnly.raise _ _ _ _ _).slu
@[simp] theorem Blk.raise_me (b : Blk) (code ctx : Nat) (pan : Pan) (d : Nat) : (b.raise code ctx pan d).me = b.me := (EventsOnly.raise _ _ _ _ _).me
@[simp] theorem Blk.raise_ve (b : Blk) (code ctx : Nat) (pan : Pan) (d : Nat) : (b.raise code ctx pan d).ve = b.ve := (EventsOnly.raise _ _ _ _ _).ve
@[simp] theorem Blk.raise_rk (b : Blk) (code ctx : Nat) (pan : Pan) (d : Nat) : (b.raise code ctx pan d).rk = b.rk := (EventsOnly.raise _ _ _ _ _).rk
@[simp] theorem Blk.raise_strm (b : Blk) (code ctx : Nat) (pan : Pan) (d : Nat) : (b.raise code ctx pan d).strm = b.strm := (EventsOnly.raise _ _ _ _ _).strm
@[simp] theorem Blk.raise_recs (b : Blk) (code ctx : Nat) (pan : Pan) (d : Nat) : (b.raise code ctx pan d).recs = b.recs := (EventsOnly.raise _ _ _ _ _).recs
@[simp] theorem Blk.raise_held (b : Blk) (code ctx : Nat) (pan : Pan) (d : Nat) : (b.raise code ctx pan d).held = b.held := (EventsOnly.raise _ _ _ _ _).held
@[simp] theorem Blk.raise_recFull (b : Blk) (code ctx : Nat) (pan : Pan) (d : Nat) : (b.raise code ctx pan d).recFull = b.recFull := (EventsOnly.raise _ _ _ _ _).recFull
@[simp] theorem Blk.raise_wins (b : Blk) (code ctx : Nat) (pan : Pan) (d : Nat) : (b.raise code ctx pan d).wins = b.wins := (EventsOnly.raise _ _ _ _ _).wins
@[simp] theorem Blk.raise_ports (b : Blk) (code ctx : Nat) (pan : Pan) (d : Nat) : (b.raise code ctx pan d).ports = b.ports := (EventsOnly.raise _ _ _ _ _).ports
@[simp] theorem Blk.raise_colls (b : Blk) (code ctx : Nat) (pan : Pan) (d : Nat) : (b.raise code ctx pan d).colls = b.colls := (EventsOnly.raise _ _ _ _ _).colls
@[simp] theorem Blk.raise_ces (b : Blk) (code ctx : Nat) (pan : Pan) (d : Nat) : (b.raise code ctx pan d).ces = b.ces := (EventsOnly.raise _ _ _ _ _).ces
@[simp] theorem Blk.raise_heldShards (b : Blk) (code ctx : Nat) (pan : Pan) (d : Nat) : (b.raise code ctx pan d).heldShards = b.heldShards := (EventsOnly.raise _ _ _ _ _).heldShards
@[simp] theorem Blk.raise_rst (b : Blk) (code ctx : Nat) (pan : Pan) (d : Nat) : (b.raise code ctx pan d).rst = b.rst := (EventsOnly.raise _ _ _ _ _).rst
@[simp] theorem Blk.raise_store (b : Blk) (code ctx : Nat) (pan : Pan) (d : Nat) : (b.raise code ctx pan d).store = b.store := (EventsOnly.raise _ _ _ _ _).store
@[simp] theorem Blk.raise_mon (b : Blk) (code ctx : Nat) (pan : Pan) (d : Nat) : (b.raise code ctx pan d).mon = b.mon := (EventsOnly.raise _ _ _ _ _).mon
@[simp] theorem Blk.raise_tst (b : Blk) (code ctx : Nat) (pan : Pan) (d : Nat) : (b.raise code ctx pan d).tst = b.tst := (EventsOnly.raise _ _ _ _ _).tst
@[simp] theorem Blk.raise_spare (b : Blk) (code ctx : Nat) (pan : Pan) (d : Nat) : (b.raise code ctx pan d).spare = b.spare := (EventsOnly.raise _ _ _ _ _).spare
@[simp] theorem Blk.raise_cfg (b : Blk) (code ctx : Nat) (pan : Pan) (d : Nat) : (b.raise code ctx pan d).cfg = b.cfg := (EventsOnly.raise _ _ _ _ _).cfg
@[simp] theorem Blk.raise_evSeq (b : Blk) (code ctx : Nat) (pan : Pan) (d : Nat) : (b.raise code ctx pan d).evSeq = b.evSeq := (EventsOnly.raise _ _ _ _ _).evSeq
@[simp] theorem Blk.raise_ctx_st (b : Blk) (code ctx : Nat) (pan : Pan) (d : Nat) (n : Nat) : ((b.raise code ctx pan d).ctx n).st = (b.ctx n).st := by rw [(EventsOnly.raise _ _ _ _ _).ctx n]
@[simp] theorem Blk.raise_ctx_qos (b : Blk) (code ctx : Nat) (pan : Pan) (d : Nat) (n : Nat) : ((b.raise code ctx pan d).ctx n).qos = (b.ctx n).qos := by rw [(EventsOnly.raise _ _ _ _ _).ctx n]
@[simp] theorem Blk.raise_ctx_rec_ (b : Blk) (code ctx : Nat) (pan : Pan) (d : Nat) (n : Nat) : ((b.raise code ctx pan d).ctx n).rec_ = (b.ctx n).rec_ := by rw [(EventsOnly.raise _ _ _ _ _).ctx n]
@[simp] theorem Blk.raise_ctx_tdStep (b : Blk) (code ctx : Nat) (pan : Pan) (d : Nat) (n : Nat) : ((b.raise code ctx pan d).ctx n).tdStep = (b.ctx n).tdStep := by rw [(EventsOnly.raise _ _ _ _ _).ctx n]
@[simp] theorem Blk.raise_ctx_tdReason (b : Blk) (code ctx : Nat) (pan : Pan) (d : Nat) (n : Nat) : ((b.raise code ctx pan d).ctx n).tdReason = (b.ctx n).tdReason := by rw [(EventsOnly.raise _ _ _ _ _).ctx n]
@[simp] theorem Blk.raise_ctx_tdStart (b : Blk) (code ctx : Nat) (pan : Pan) (d : Nat) (n : Nat) : ((b.raise code ctx pan d).ctx n).tdStart = (b.ctx n).tdStart := by rw [(EventsOnly.raise _ _ _ _ _).ctx n]
@[simp] theorem Blk.raise_ctx_quarEnd (b : Blk) (code ctx : Nat) (pan : Pan) (d : Nat) (n : Nat) : ((b.raise code ctx pan d).ctx n).quarEnd = (b.ctx n).quarEnd := by rw [(EventsOnly.raise _ _ _ _ _).ctx n]
@[simp] theorem Blk.raise_ctx_next (b : Blk) (code ctx : Nat) (pan : Pan) (d : Nat) (n : Nat) : ((b.raise code ctx pan d).ctx n).next = (b.ctx n).next := by rw [(EventsOnly.raise _ _ _ _ _).ctx n]
@[simp] theorem Blk.raise_ctx_schedNext (b : Blk) (code ctx : Nat) (pan : Pan) (d : Nat) (n : Nat) : ((b.raise code ctx pan d).ctx n).schedNext = (b.ctx n).schedNext := by rw [(EventsOnly.raise _ _ _ _ _).ctx n]
@[simp] theorem Blk.raise_ctx_offNext (b : Blk) (code ctx : Nat) (pan : Pan) (d : Nat) (n : Nat) : ((b.raise code ctx pan d).ctx n).offNext = (b.ctx n).offNext := by rw [(EventsOnly.raise _ _ _ _ _).ctx n]
@[simp] theorem Blk.raise_ctx_fault (b : Blk) (code ctx : Nat) (pan : Pan) (d : Nat) (n : Nat) : ((b.raise code ctx pan d).ctx n).fault = (b.ctx n).fault := by rw [(EventsOnly.raise _ _ _ _ _).ctx n]
@[simp] theorem Blk.raise_ctx_lateDrop (b : Blk) (code ctx : Nat) (pan : Pan) (d : Nat) (n : Nat) : ((b.raise code ctx pan d).ctx n).lateDrop = (b.ctx n).lateDrop := by rw [(EventsOnly.raise _ _ _ _ _).ctx n]
@[simp] theorem Blk.raise_ctx_lateAll (b : Blk) (code ctx : Nat) (pan : Pan) (d : Nat) (n : Nat) : ((b.raise code ctx pan d).ctx n).lateAll = (b.ctx n).lateAll := by rw [(EventsOnly.raise _ _ _ _ _).ctx n]
@[simp] theorem Blk.raise_ctx_tdUs (b : Blk) (code ctx : Nat) (pan : Pan) (d : Nat) (n : Nat) : ((b.raise code ctx pan d).ctx n).tdUs = (b.ctx n).tdUs := by rw [(EventsOnly.raise _ _ _ _ _).ctx n]
@[simp] theorem Blk.raise_ctx_seq (b : Blk) (code ctx : Nat) (pan : Pan) (d : Nat) (n : Nat) : ((b.raise code ctx pan d).ctx n).seq = (b.ctx n).seq := by rw [(EventsOnly.raise _ _ _ _ _).ctx n]
@[simp] theorem Blk.raise_ctx_open_ (b : Blk) (code ctx : Nat) (pan : Pan) (d : Nat) (n : Nat) : ((b.raise code ctx pan d).ctx n).open_ = (b.ctx n).open_ := by rw [(EventsOnly.raise _ _ _ _ _).ctx n]
@[simp] theorem Blk.raise_ctx_handles (b : Blk) (code ctx : Nat) (pan : Pan) (d : Nat) (n : Nat) : ((b.raise code ctx pan d).ctx n).handles = (b.ctx n).handles := by rw [(EventsOnly.raise _ _ _ _ _).ctx n]
@[simp] theorem Blk.raise_ctx_step (b : Blk) (code ctx : Nat) (pan : Pan) (d : Nat) (n : Nat) : ((b.raise code ctx pan d).ctx n).step = (b.ctx n).step := by rw [(EventsOnly.raise _ _ _ _ _).ctx n]
@[simp] theorem Blk.raise_ctx_pos (b : Blk) (code ctx : Nat) (pan : Pan) (d : Nat) (n : Nat) : ((b.raise code ctx pan d).ctx n).pos = (b.ctx n).pos := by rw [(EventsOnly.raise _ _ _ _ _).ctx n]
@[simp] theorem Blk.raise_ctx_flags (b : Blk) (code ctx : Nat) (pan : Pan) (d : Nat) (n : Nat) : ((b.raise code ctx pan d).ctx n).flags = (b.ctx n).flags := by rw [(EventsOnly.raise _ _ _ _ _).ctx n]
@[simp] theorem Blk.raise_ctx_regions (b : Blk) (code ctx : Nat) (pan : Pan) (d : Nat) (n : Nat) : ((b.raise code ctx pan d).ctx n).regions = (b.ctx n).regions := by rw [(EventsOnly.raise _ _ _ _ _).ctx n]
@[simp] theorem Blk.raise_ctx_phase (b : Blk) (code ctx : Nat) (pan : Pan) (d : Nat) (n : Nat) : ((b.raise code ctx pan d).ctx n).phase = (b.ctx n).phase := by rw [(EventsOnly.raise _ _ _ _ _).ctx n]
@[simp] theorem Blk.raise_ctx_gen (b : Blk) (code ctx : Nat) (pan : Pan) (d : Nat) (n : Nat) : ((b.raise code ctx pan d).ctx n).gen = (b.ctx n).gen := by rw [(EventsOnly.raise _ _ _ _ _).ctx n]
@[simp] theorem Blk.raise_ctx_learn (b : Blk) (code ctx : Nat) (pan : Pan) (d : Nat) (n : Nat) : ((b.raise code ctx pan d).ctx n).learn = (b.ctx n).learn := by rw [(EventsOnly.raise _ _ _ _ _).ctx n]
@[simp] theorem Blk.raise_ctx_genEnd (b : Blk) (code ctx : Nat) (pan : Pan) (d : Nat) (n : Nat) : ((b.raise code ctx pan d).ctx n).genEnd = (b.ctx n).genEnd := by rw [(EventsOnly.raise _ _ _ _ _).ctx n]
@[simp] theorem Blk.raise_ctx_barrier (b : Blk) (code ctx : Nat) (pan : Pan) (d : Nat) (n : Nat) : ((b.raise code ctx pan d).ctx n).barrier = (b.ctx n).barrier := by rw [(EventsOnly.raise _ _ _ _ _).ctx n]
@[simp] theorem Blk.raise_ctx_learnAt (b : Blk) (code ctx : Nat) (pan : Pan) (d : Nat) (n : Nat) : ((b.raise code ctx pan d).ctx n).learnAt = (b.ctx n).learnAt := by rw [(EventsOnly.raise _ _ _ _ _).ctx n]
@[simp] theorem Blk.raise_ctx_learnLate (b : Blk) (code ctx : Nat) (pan : Pan) (d : Nat) (n : Nat) : ((b.raise code ctx pan d).ctx n).learnLate = (b.ctx n).learnLate := by rw [(EventsOnly.raise _ _ _ _ _).ctx n]
@[simp] theorem Blk.raise_ctx_buf0 (b : Blk) (code ctx : Nat) (pan : Pan) (d : Nat) (n : Nat) : ((b.raise code ctx pan d).ctx n).buf0 = (b.ctx n).buf0 := by rw [(EventsOnly.raise _ _ _ _ _).ctx n]
@[simp] theorem Blk.raise_ctx_buf1 (b : Blk) (code ctx : Nat) (pan : Pan) (d : Nat) (n : Nat) : ((b.raise code ctx pan d).ctx n).buf1 = (b.ctx n).buf1 := by rw [(EventsOnly.raise _ _ _ _ _).ctx n]
@[simp] theorem Blk.raise_ctx_waitTides (b : Blk) (code ctx : Nat) (pan : Pan) (d : Nat) (n : Nat) : ((b.raise code ctx pan d).ctx n).waitTides = (b.ctx n).waitTides := by rw [(EventsOnly.raise _ _ _ _ _).ctx n]
@[simp] theorem Blk.raise_ctx_pairWaitRaised (b : Blk) (code ctx : Nat) (pan : Pan) (d : Nat) (n : Nat) : ((b.raise code ctx pan d).ctx n).pairWaitRaised = (b.ctx n).pairWaitRaised := by rw [(EventsOnly.raise _ _ _ _ _).ctx n]
@[simp] theorem Blk.raise_ctx_refused (b : Blk) (code ctx : Nat) (pan : Pan) (d : Nat) (n : Nat) : ((b.raise code ctx pan d).ctx n).refused = (b.ctx n).refused := by rw [(EventsOnly.raise _ _ _ _ _).ctx n]
@[simp] theorem Blk.raise_ctx_loads (b : Blk) (code ctx : Nat) (pan : Pan) (d : Nat) (n : Nat) : ((b.raise code ctx pan d).ctx n).loads = (b.ctx n).loads := by rw [(EventsOnly.raise _ _ _ _ _).ctx n]
@[simp] theorem Blk.raise_ctx_created (b : Blk) (code ctx : Nat) (pan : Pan) (d : Nat) (n : Nat) : ((b.raise code ctx pan d).ctx n).created = (b.ctx n).created := by rw [(EventsOnly.raise _ _ _ _ _).ctx n]
@[simp] theorem Blk.raise_ctx_epoch (b : Blk) (code ctx : Nat) (pan : Pan) (d : Nat) (n : Nat) : ((b.raise code ctx pan d).ctx n).epoch = (b.ctx n).epoch := by rw [(EventsOnly.raise _ _ _ _ _).ctx n]
@[simp] theorem Blk.raise_ctx_collSeq (b : Blk) (code ctx : Nat) (pan : Pan) (d : Nat) (n : Nat) : ((b.raise code ctx pan d).ctx n).collSeq = (b.ctx n).collSeq := by rw [(EventsOnly.raise _ _ _ _ _).ctx n]
@[simp] theorem Blk.raise_ctx_draws (b : Blk) (code ctx : Nat) (pan : Pan) (d : Nat) (n : Nat) : ((b.raise code ctx pan d).ctx n).draws = (b.ctx n).draws := by rw [(EventsOnly.raise _ _ _ _ _).ctx n]
@[simp] theorem Blk.raise_ctx_layer (b : Blk) (code ctx : Nat) (pan : Pan) (d : Nat) (n : Nat) : ((b.raise code ctx pan d).ctx n).layer = (b.ctx n).layer := by rw [(EventsOnly.raise _ _ _ _ _).ctx n]
@[simp] theorem Blk.raise_ctx_dir (b : Blk) (code ctx : Nat) (pan : Pan) (d : Nat) (n : Nat) : ((b.raise code ctx pan d).ctx n).dir = (b.ctx n).dir := by rw [(EventsOnly.raise _ _ _ _ _).ctx n]
@[simp] theorem Blk.raise_ctx_off (b : Blk) (code ctx : Nat) (pan : Pan) (d : Nat) (n : Nat) : ((b.raise code ctx pan d).ctx n).off = (b.ctx n).off := by rw [(EventsOnly.raise _ _ _ _ _).ctx n]
@[simp] theorem Blk.raise_ctx_returning (b : Blk) (code ctx : Nat) (pan : Pan) (d : Nat) (n : Nat) : ((b.raise code ctx pan d).ctx n).returning = (b.ctx n).returning := by rw [(EventsOnly.raise _ _ _ _ _).ctx n]
@[simp] theorem Blk.raise_ctx_hrv (b : Blk) (code ctx : Nat) (pan : Pan) (d : Nat) (n : Nat) : ((b.raise code ctx pan d).ctx n).hrv = (b.ctx n).hrv := by rw [(EventsOnly.raise _ _ _ _ _).ctx n]
@[simp] theorem Blk.raise_ctx_queues (b : Blk) (code ctx : Nat) (pan : Pan) (d : Nat) (n : Nat) : ((b.raise code ctx pan d).ctx n).queues = (b.ctx n).queues := by rw [(EventsOnly.raise _ _ _ _ _).ctx n]
@[simp] theorem Blk.raise_sec_bootState (b : Blk) (code ctx : Nat) (pan : Pan) (d : Nat) : (b.raise code ctx pan d).sec.bootState = b.sec.bootState := by rw [(EventsOnly.raise _ _ _ _ _).rest]
@[simp] theorem Blk.raise_sec_booting (b : Blk) (code ctx : Nat) (pan : Pan) (d : Nat) : (b.raise code ctx pan d).sec.booting = b.sec.booting := by rw [(EventsOnly.raise _ _ _ _ _).rest]
@[simp] theorem Blk.raise_sec_configured (b : Blk) (code ctx : Nat) (pan : Pan) (d : Nat) : (b.raise code ctx pan d).sec.configured = b.sec.configured := by rw [(EventsOnly.raise _ _ _ _ _).rest]
@[simp] theorem Blk.raise_sec_ready (b : Blk) (code ctx : Nat) (pan : Pan) (d : Nat) : (b.raise code ctx pan d).sec.ready = b.sec.ready := by rw [(EventsOnly.raise _ _ _ _ _).rest]
@[simp] theorem Blk.raise_sec_recovery (b : Blk) (code ctx : Nat) (pan : Pan) (d : Nat) : (b.raise code ctx pan d).sec.recovery = b.sec.recovery := by rw [(EventsOnly.raise _ _ _ _ _).rest]
@[simp] theorem Blk.raise_sec_bootLate (b : Blk) (code ctx : Nat) (pan : Pan) (d : Nat) : (b.raise code ctx pan d).sec.bootLate = b.sec.bootLate := by rw [(EventsOnly.raise _ _ _ _ _).rest]
@[simp] theorem Blk.raise_sec_slot (b : Blk) (code ctx : Nat) (pan : Pan) (d : Nat) : (b.raise code ctx pan d).sec.slot = b.sec.slot := by rw [(EventsOnly.raise _ _ _ _ _).rest]
@[simp] theorem Blk.raise_sec_fallback (b : Blk) (code ctx : Nat) (pan : Pan) (d : Nat) : (b.raise code ctx pan d).sec.fallback = b.sec.fallback := by rw [(EventsOnly.raise _ _ _ _ _).rest]
@[simp] theorem Blk.raise_sec_unlock (b : Blk) (code ctx : Nat) (pan : Pan) (d : Nat) : (b.raise code ctx pan d).sec.unlock = b.sec.unlock := by rw [(EventsOnly.raise _ _ _ _ _).rest]
@[simp] theorem Blk.raise_sec_unlockNext (b : Blk) (code ctx : Nat) (pan : Pan) (d : Nat) : (b.raise code ctx pan d).sec.unlockNext = b.sec.unlockNext := by rw [(EventsOnly.raise _ _ _ _ _).rest]
@[simp] theorem Blk.raise_sec_rootHash (b : Blk) (code ctx : Nat) (pan : Pan) (d : Nat) : (b.raise code ctx pan d).sec.rootHash = b.sec.rootHash := by rw [(EventsOnly.raise _ _ _ _ _).rest]
@[simp] theorem Blk.raise_sec_ownerHash (b : Blk) (code ctx : Nat) (pan : Pan) (d : Nat) : (b.raise code ctx pan d).sec.ownerHash = b.sec.ownerHash := by rw [(EventsOnly.raise _ _ _ _ _).rest]
@[simp] theorem Blk.raise_sec_romSha (b : Blk) (code ctx : Nat) (pan : Pan) (d : Nat) : (b.raise code ctx pan d).sec.romSha = b.sec.romSha := by rw [(EventsOnly.raise _ _ _ _ _).rest]
@[simp] theorem Blk.raise_sec_imageKey (b : Blk) (code ctx : Nat) (pan : Pan) (d : Nat) : (b.raise code ctx pan d).sec.imageKey = b.sec.imageKey := by rw [(EventsOnly.raise _ _ _ _ _).rest]
@[simp] theorem Blk.raise_sec_serial (b : Blk) (code ctx : Nat) (pan : Pan) (d : Nat) : (b.raise code ctx pan d).sec.serial = b.sec.serial := by rw [(EventsOnly.raise _ _ _ _ _).rest]
@[simp] theorem Blk.raise_sec_minSvn (b : Blk) (code ctx : Nat) (pan : Pan) (d : Nat) : (b.raise code ctx pan d).sec.minSvn = b.sec.minSvn := by rw [(EventsOnly.raise _ _ _ _ _).rest]
@[simp] theorem Blk.raise_sec_svn (b : Blk) (code ctx : Nat) (pan : Pan) (d : Nat) : (b.raise code ctx pan d).sec.svn = b.sec.svn := by rw [(EventsOnly.raise _ _ _ _ _).rest]
@[simp] theorem Blk.raise_sec_slot0 (b : Blk) (code ctx : Nat) (pan : Pan) (d : Nat) : (b.raise code ctx pan d).sec.slot0 = b.sec.slot0 := by rw [(EventsOnly.raise _ _ _ _ _).rest]
@[simp] theorem Blk.raise_sec_slot1 (b : Blk) (code ctx : Nat) (pan : Pan) (d : Nat) : (b.raise code ctx pan d).sec.slot1 = b.sec.slot1 := by rw [(EventsOnly.raise _ _ _ _ _).rest]
@[simp] theorem Blk.raise_sec_select (b : Blk) (code ctx : Nat) (pan : Pan) (d : Nat) : (b.raise code ctx pan d).sec.select = b.sec.select := by rw [(EventsOnly.raise _ _ _ _ _).rest]
@[simp] theorem Blk.raise_sec_switchPend (b : Blk) (code ctx : Nat) (pan : Pan) (d : Nat) : (b.raise code ctx pan d).sec.switchPend = b.sec.switchPend := by rw [(EventsOnly.raise _ _ _ _ _).rest]
@[simp] theorem Blk.raise_sec_switchCfg (b : Blk) (code ctx : Nat) (pan : Pan) (d : Nat) : (b.raise code ctx pan d).sec.switchCfg = b.sec.switchCfg := by rw [(EventsOnly.raise _ _ _ _ _).rest]
@[simp] theorem Blk.raise_sec_authFail (b : Blk) (code ctx : Nat) (pan : Pan) (d : Nat) : (b.raise code ctx pan d).sec.authFail = b.sec.authFail := by rw [(EventsOnly.raise _ _ _ _ _).rest]
@[simp] theorem Blk.raise_sec_tagFail (b : Blk) (code ctx : Nat) (pan : Pan) (d : Nat) : (b.raise code ctx pan d).sec.tagFail = b.sec.tagFail := by rw [(EventsOnly.raise _ _ _ _ _).rest]
@[simp] theorem Blk.raise_sec_glitchVolt (b : Blk) (code ctx : Nat) (pan : Pan) (d : Nat) : (b.raise code ctx pan d).sec.glitchVolt = b.sec.glitchVolt := by rw [(EventsOnly.raise _ _ _ _ _).rest]
@[simp] theorem Blk.raise_sec_glitchClk (b : Blk) (code ctx : Nat) (pan : Pan) (d : Nat) : (b.raise code ctx pan d).sec.glitchClk = b.sec.glitchClk := by rw [(EventsOnly.raise _ _ _ _ _).rest]
@[simp] theorem Blk.raise_sec_glitchPend (b : Blk) (code ctx : Nat) (pan : Pan) (d : Nat) : (b.raise code ctx pan d).sec.glitchPend = b.sec.glitchPend := by rw [(EventsOnly.raise _ _ _ _ _).rest]
@[simp] theorem Blk.raise_sec_reason (b : Blk) (code ctx : Nat) (pan : Pan) (d : Nat) : (b.raise code ctx pan d).sec.reason = b.sec.reason := by rw [(EventsOnly.raise _ _ _ _ _).rest]
@[simp] theorem Blk.raise_sec_dirIndex (b : Blk) (code ctx : Nat) (pan : Pan) (d : Nat) : (b.raise code ctx pan d).sec.dirIndex = b.sec.dirIndex := by rw [(EventsOnly.raise _ _ _ _ _).rest]
@[simp] theorem Blk.raise_sec_bootMs (b : Blk) (code ctx : Nat) (pan : Pan) (d : Nat) : (b.raise code ctx pan d).sec.bootMs = b.sec.bootMs := by rw [(EventsOnly.raise _ _ _ _ _).rest]
@[simp] theorem Blk.raise_sec_report (b : Blk) (code ctx : Nat) (pan : Pan) (d : Nat) : (b.raise code ctx pan d).sec.report = b.sec.report := by rw [(EventsOnly.raise _ _ _ _ _).rest]
@[simp] theorem Blk.raise_sec_sessions (b : Blk) (code ctx : Nat) (pan : Pan) (d : Nat) : (b.raise code ctx pan d).sec.sessions = b.sec.sessions := by rw [(EventsOnly.raise _ _ _ _ _).rest]
@[simp] theorem Blk.raise_sec_tierKeys (b : Blk) (code ctx : Nat) (pan : Pan) (d : Nat) : (b.raise code ctx pan d).sec.tierKeys = b.sec.tierKeys := by rw [(EventsOnly.raise _ _ _ _ _).rest]
@[simp] theorem Blk.raise_mgt_slotId (b : Blk) (code ctx : Nat) (pan : Pan) (d : Nat) : (b.raise code ctx pan d).mgt.slotId = b.mgt.slotId := by rw [(EventsOnly.raise _ _ _ _ _).rest]
@[simp] theorem Blk.raise_mgt_slotBad (b : Blk) (code ctx : Nat) (pan : Pan) (d : Nat) : (b.raise code ctx pan d).mgt.slotBad = b.mgt.slotBad := by rw [(EventsOnly.raise _ _ _ _ _).rest]
@[simp] theorem Blk.raise_mgt_nslot (b : Blk) (code ctx : Nat) (pan : Pan) (d : Nat) : (b.raise code ctx pan d).mgt.nslot = b.mgt.nslot := by rw [(EventsOnly.raise _ _ _ _ _).rest]
@[simp] theorem Blk.raise_mgt_hbK (b : Blk) (code ctx : Nat) (pan : Pan) (d : Nat) : (b.raise code ctx pan d).mgt.hbK = b.mgt.hbK := by rw [(EventsOnly.raise _ _ _ _ _).rest]
@[simp] theorem Blk.raise_mgt_heard (b : Blk) (code ctx : Nat) (pan : Pan) (d : Nat) : (b.raise code ctx pan d).mgt.heard = b.mgt.heard := by rw [(EventsOnly.raise _ _ _ _ _).rest]
@[simp] theorem Blk.raise_mgt_txFrames (b : Blk) (code ctx : Nat) (pan : Pan) (d : Nat) : (b.raise code ctx pan d).mgt.txFrames = b.mgt.txFrames := by rw [(EventsOnly.raise _ _ _ _ _).rest]
@[simp] theorem Blk.raise_mgt_txDiscard (b : Blk) (code ctx : Nat) (pan : Pan) (d : Nat) : (b.raise code ctx pan d).mgt.txDiscard = b.mgt.txDiscard := by rw [(EventsOnly.raise _ _ _ _ _).rest]
@[simp] theorem Blk.raise_mgt_collisions (b : Blk) (code ctx : Nat) (pan : Pan) (d : Nat) : (b.raise code ctx pan d).mgt.collisions = b.mgt.collisions := by rw [(EventsOnly.raise _ _ _ _ _).rest]
@[simp] theorem Blk.raise_mgt_excessive (b : Blk) (code ctx : Nat) (pan : Pan) (d : Nat) : (b.raise code ctx pan d).mgt.excessive = b.mgt.excessive := by rw [(EventsOnly.raise _ _ _ _ _).rest]
@[simp] theorem Blk.raise_mgt_late (b : Blk) (code ctx : Nat) (pan : Pan) (d : Nat) : (b.raise code ctx pan d).mgt.late = b.mgt.late := by rw [(EventsOnly.raise _ _ _ _ _).rest]
@[simp] theorem Blk.raise_mgt_rxFrames (b : Blk) (code ctx : Nat) (pan : Pan) (d : Nat) : (b.raise code ctx pan d).mgt.rxFrames = b.mgt.rxFrames := by rw [(EventsOnly.raise _ _ _ _ _).rest]
@[simp] theorem Blk.raise_mgt_fcsErr (b : Blk) (code ctx : Nat) (pan : Pan) (d : Nat) : (b.raise code ctx pan d).mgt.fcsErr = b.mgt.fcsErr := by rw [(EventsOnly.raise _ _ _ _ _).rest]
@[simp] theorem Blk.raise_mgt_underrun (b : Blk) (code ctx : Nat) (pan : Pan) (d : Nat) : (b.raise code ctx pan d).mgt.underrun = b.mgt.underrun := by rw [(EventsOnly.raise _ _ _ _ _).rest]
@[simp] theorem Blk.raise_mgt_txThresh (b : Blk) (code ctx : Nat) (pan : Pan) (d : Nat) : (b.raise code ctx pan d).mgt.txThresh = b.mgt.txThresh := by rw [(EventsOnly.raise _ _ _ _ _).rest]
@[simp] theorem Blk.raise_mgt_badFrame (b : Blk) (code ctx : Nat) (pan : Pan) (d : Nat) : (b.raise code ctx pan d).mgt.badFrame = b.mgt.badFrame := by rw [(EventsOnly.raise _ _ _ _ _).rest]
@[simp] theorem Blk.raise_mgt_jamTides (b : Blk) (code ctx : Nat) (pan : Pan) (d : Nat) : (b.raise code ctx pan d).mgt.jamTides = b.mgt.jamTides := by rw [(EventsOnly.raise _ _ _ _ _).rest]
@[simp] theorem Blk.raise_mgt_posConflict (b : Blk) (code ctx : Nat) (pan : Pan) (d : Nat) : (b.raise code ctx pan d).mgt.posConflict = b.mgt.posConflict := by rw [(EventsOnly.raise _ _ _ _ _).rest]
@[simp] theorem Blk.raise_mgt_jammed (b : Blk) (code ctx : Nat) (pan : Pan) (d : Nat) : (b.raise code ctx pan d).mgt.jammed = b.mgt.jammed := by rw [(EventsOnly.raise _ _ _ _ _).rest]
@[simp] theorem Blk.raise_mgt_jamNow (b : Blk) (code ctx : Nat) (pan : Pan) (d : Nat) : (b.raise code ctx pan d).mgt.jamNow = b.mgt.jamNow := by rw [(EventsOnly.raise _ _ _ _ _).rest]
@[simp] theorem Blk.raise_mgt_queue (b : Blk) (code ctx : Nat) (pan : Pan) (d : Nat) : (b.raise code ctx pan d).mgt.queue = b.mgt.queue := by rw [(EventsOnly.raise _ _ _ _ _).rest]
@[simp] theorem Blk.raise_mgt_sending (b : Blk) (code ctx : Nat) (pan : Pan) (d : Nat) : (b.raise code ctx pan d).mgt.sending = b.mgt.sending := by rw [(EventsOnly.raise _ _ _ _ _).rest]
@[simp] theorem Blk.raise_mgt_txEnd (b : Blk) (code ctx : Nat) (pan : Pan) (d : Nat) : (b.raise code ctx pan d).mgt.txEnd = b.mgt.txEnd := by rw [(EventsOnly.raise _ _ _ _ _).rest]
@[simp] theorem Blk.raise_mgt_hbTide (b : Blk) (code ctx : Nat) (pan : Pan) (d : Nat) : (b.raise code ctx pan d).mgt.hbTide = b.mgt.hbTide := by rw [(EventsOnly.raise _ _ _ _ _).rest]
@[simp] theorem Blk.raise_mgt_hbVal (b : Blk) (code ctx : Nat) (pan : Pan) (d : Nat) : (b.raise code ctx pan d).mgt.hbVal = b.mgt.hbVal := by rw [(EventsOnly.raise _ _ _ _ _).rest]
@[simp] theorem Blk.raise_mgt_hbStatus (b : Blk) (code ctx : Nat) (pan : Pan) (d : Nat) : (b.raise code ctx pan d).mgt.hbStatus = b.mgt.hbStatus := by rw [(EventsOnly.raise _ _ _ _ _).rest]
@[simp] theorem Blk.raise_mgt_jamIn (b : Blk) (code ctx : Nat) (pan : Pan) (d : Nat) : (b.raise code ctx pan d).mgt.jamIn = b.mgt.jamIn := by rw [(EventsOnly.raise _ _ _ _ _).rest]
@[simp] theorem Blk.raise_mgt_backoff (b : Blk) (code ctx : Nat) (pan : Pan) (d : Nat) : (b.raise code ctx pan d).mgt.backoff = b.mgt.backoff := by rw [(EventsOnly.raise _ _ _ _ _).rest]
@[simp] theorem Blk.raise_mgt_parts (b : Blk) (code ctx : Nat) (pan : Pan) (d : Nat) : (b.raise code ctx pan d).mgt.parts = b.mgt.parts := by rw [(EventsOnly.raise _ _ _ _ _).rest]
@[simp] theorem Blk.raise_mgt_peers (b : Blk) (code ctx : Nat) (pan : Pan) (d : Nat) : (b.raise code ctx pan d).mgt.peers = b.mgt.peers := by rw [(EventsOnly.raise _ _ _ _ _).rest]

@[simp] theorem Blk.raiseMod_out (b : Blk) (code d : Nat) : (b.raiseMod code d).out = b.out := (EventsOnly.raiseMod _ _ _).out
@[simp] theorem Blk.raiseMod_freeCtr (b : Blk) (code d : Nat) : (b.raiseMod code d).freeCtr = b.freeCtr := (EventsOnly.raiseMod _ _ _).freeCtr
@[simp] theorem Blk.raiseMod_now (b : Blk) (code d : Nat) : (b.raiseMod code d).now = b.now := (EventsOnly.raiseMod _ _ _).now
@[simp] theorem Blk.raiseMod_pend (b : Blk) (code d : Nat) : (b.raiseMod code d).pend = b.pend := (EventsOnly.raiseMod _ _ _).pend
@[simp] theorem Blk.raiseMod_pwr (b : Blk) (code d : Nat) : (b.raiseMod code d).pwr = b.pwr := (EventsOnly.raiseMod _ _ _).pwr
@[simp] theorem Blk.raiseMod_tide (b : Blk) (code d : Nat) : (b.raiseMod code d).tide = b.tide := (EventsOnly.raiseMod _ _ _).tide
@[simp] theorem Blk.raiseMod_xing (b : Blk) (code d : Nat) : (b.raiseMod code d).xing = b.xing := (EventsOnly.raiseMod _ _ _).xing
@[simp] theorem Blk.raiseMod_pan (b : Blk) (code d : Nat) : (b.raiseMod code d).pan = b.pan := (EventsOnly.raiseMod _ _ _).pan
@[simp] theorem Blk.raiseMod_mc (b : Blk) (code d : Nat) : (b.raiseMod code d).mc = b.mc := (EventsOnly.raiseMod _ _ _).mc
@[simp] theorem Blk.raiseMod_repairs (b : Blk) (code d : Nat) : (b.raiseMod code d).repairs = b.repairs := (EventsOnly.raiseMod _ _ _).repairs
@[simp] theorem Blk.raiseMod_slu (b : Blk) (code d : Nat) : (b.raiseMod code d).slu = b.slu := (EventsOnly.raiseMod _ _ _).slu
@[simp] theorem Blk.raiseMod_me (b : Blk) (code d : Nat) : (b.raiseMod code d).me = b.me := (EventsOnly.raiseMod _ _ _).me
@[simp] theorem Blk.raiseMod_ve (b : Blk) (code d : Nat) : (b.raiseMod code d).ve = b.ve := (EventsOnly.raiseMod _ _ _).ve
@[simp] theorem Blk.raiseMod_rk (b : Blk) (code d : Nat) : (b.raiseMod code d).rk = b.rk := (EventsOnly.raiseMod _ _ _).rk
@[simp] theorem Blk.raiseMod_strm (b : Blk) (code d : Nat) : (b.raiseMod code d).strm = b.strm := (EventsOnly.raiseMod _ _ _).strm
@[simp] theorem Blk.raiseMod_recs (b : Blk) (code d : Nat) : (b.raiseMod code d).recs = b.recs := (EventsOnly.raiseMod _ _ _).recs
@[simp] theorem Blk.raiseMod_held (b : Blk) (code d : Nat) : (b.raiseMod code d).held = b.held := (EventsOnly.raiseMod _ _ _).held
@[simp] theorem Blk.raiseMod_recFull (b : Blk) (code d : Nat) : (b.raiseMod code d).recFull = b.recFull := (EventsOnly.raiseMod _ _ _).recFull
@[simp] theorem Blk.raiseMod_wins (b : Blk) (code d : Nat) : (b.raiseMod code d).wins = b.wins := (EventsOnly.raiseMod _ _ _).wins
@[simp] theorem Blk.raiseMod_ports (b : Blk) (code d : Nat) : (b.raiseMod code d).ports = b.ports := (EventsOnly.raiseMod _ _ _).ports
@[simp] theorem Blk.raiseMod_colls (b : Blk) (code d : Nat) : (b.raiseMod code d).colls = b.colls := (EventsOnly.raiseMod _ _ _).colls
@[simp] theorem Blk.raiseMod_ces (b : Blk) (code d : Nat) : (b.raiseMod code d).ces = b.ces := (EventsOnly.raiseMod _ _ _).ces
@[simp] theorem Blk.raiseMod_heldShards (b : Blk) (code d : Nat) : (b.raiseMod code d).heldShards = b.heldShards := (EventsOnly.raiseMod _ _ _).heldShards
@[simp] theorem Blk.raiseMod_rst (b : Blk) (code d : Nat) : (b.raiseMod code d).rst = b.rst := (EventsOnly.raiseMod _ _ _).rst
@[simp] theorem Blk.raiseMod_store (b : Blk) (code d : Nat) : (b.raiseMod code d).store = b.store := (EventsOnly.raiseMod _ _ _).store
@[simp] theorem Blk.raiseMod_mon (b : Blk) (code d : Nat) : (b.raiseMod code d).mon = b.mon := (EventsOnly.raiseMod _ _ _).mon
@[simp] theorem Blk.raiseMod_tst (b : Blk) (code d : Nat) : (b.raiseMod code d).tst = b.tst := (EventsOnly.raiseMod _ _ _).tst
@[simp] theorem Blk.raiseMod_spare (b : Blk) (code d : Nat) : (b.raiseMod code d).spare = b.spare := (EventsOnly.raiseMod _ _ _).spare
@[simp] theorem Blk.raiseMod_cfg (b : Blk) (code d : Nat) : (b.raiseMod code d).cfg = b.cfg := (EventsOnly.raiseMod _ _ _).cfg
@[simp] theorem Blk.raiseMod_evSeq (b : Blk) (code d : Nat) : (b.raiseMod code d).evSeq = b.evSeq := (EventsOnly.raiseMod _ _ _).evSeq
@[simp] theorem Blk.raiseMod_ctx_st (b : Blk) (code d : Nat) (n : Nat) : ((b.raiseMod code d).ctx n).st = (b.ctx n).st := by rw [(EventsOnly.raiseMod _ _ _).ctx n]
@[simp] theorem Blk.raiseMod_ctx_qos (b : Blk) (code d : Nat) (n : Nat) : ((b.raiseMod code d).ctx n).qos = (b.ctx n).qos := by rw [(EventsOnly.raiseMod _ _ _).ctx n]
@[simp] theorem Blk.raiseMod_ctx_rec_ (b : Blk) (code d : Nat) (n : Nat) : ((b.raiseMod code d).ctx n).rec_ = (b.ctx n).rec_ := by rw [(EventsOnly.raiseMod _ _ _).ctx n]
@[simp] theorem Blk.raiseMod_ctx_tdStep (b : Blk) (code d : Nat) (n : Nat) : ((b.raiseMod code d).ctx n).tdStep = (b.ctx n).tdStep := by rw [(EventsOnly.raiseMod _ _ _).ctx n]
@[simp] theorem Blk.raiseMod_ctx_tdReason (b : Blk) (code d : Nat) (n : Nat) : ((b.raiseMod code d).ctx n).tdReason = (b.ctx n).tdReason := by rw [(EventsOnly.raiseMod _ _ _).ctx n]
@[simp] theorem Blk.raiseMod_ctx_tdStart (b : Blk) (code d : Nat) (n : Nat) : ((b.raiseMod code d).ctx n).tdStart = (b.ctx n).tdStart := by rw [(EventsOnly.raiseMod _ _ _).ctx n]
@[simp] theorem Blk.raiseMod_ctx_quarEnd (b : Blk) (code d : Nat) (n : Nat) : ((b.raiseMod code d).ctx n).quarEnd = (b.ctx n).quarEnd := by rw [(EventsOnly.raiseMod _ _ _).ctx n]
@[simp] theorem Blk.raiseMod_ctx_next (b : Blk) (code d : Nat) (n : Nat) : ((b.raiseMod code d).ctx n).next = (b.ctx n).next := by rw [(EventsOnly.raiseMod _ _ _).ctx n]
@[simp] theorem Blk.raiseMod_ctx_schedNext (b : Blk) (code d : Nat) (n : Nat) : ((b.raiseMod code d).ctx n).schedNext = (b.ctx n).schedNext := by rw [(EventsOnly.raiseMod _ _ _).ctx n]
@[simp] theorem Blk.raiseMod_ctx_offNext (b : Blk) (code d : Nat) (n : Nat) : ((b.raiseMod code d).ctx n).offNext = (b.ctx n).offNext := by rw [(EventsOnly.raiseMod _ _ _).ctx n]
@[simp] theorem Blk.raiseMod_ctx_fault (b : Blk) (code d : Nat) (n : Nat) : ((b.raiseMod code d).ctx n).fault = (b.ctx n).fault := by rw [(EventsOnly.raiseMod _ _ _).ctx n]
@[simp] theorem Blk.raiseMod_ctx_lateDrop (b : Blk) (code d : Nat) (n : Nat) : ((b.raiseMod code d).ctx n).lateDrop = (b.ctx n).lateDrop := by rw [(EventsOnly.raiseMod _ _ _).ctx n]
@[simp] theorem Blk.raiseMod_ctx_lateAll (b : Blk) (code d : Nat) (n : Nat) : ((b.raiseMod code d).ctx n).lateAll = (b.ctx n).lateAll := by rw [(EventsOnly.raiseMod _ _ _).ctx n]
@[simp] theorem Blk.raiseMod_ctx_tdUs (b : Blk) (code d : Nat) (n : Nat) : ((b.raiseMod code d).ctx n).tdUs = (b.ctx n).tdUs := by rw [(EventsOnly.raiseMod _ _ _).ctx n]
@[simp] theorem Blk.raiseMod_ctx_seq (b : Blk) (code d : Nat) (n : Nat) : ((b.raiseMod code d).ctx n).seq = (b.ctx n).seq := by rw [(EventsOnly.raiseMod _ _ _).ctx n]
@[simp] theorem Blk.raiseMod_ctx_open_ (b : Blk) (code d : Nat) (n : Nat) : ((b.raiseMod code d).ctx n).open_ = (b.ctx n).open_ := by rw [(EventsOnly.raiseMod _ _ _).ctx n]
@[simp] theorem Blk.raiseMod_ctx_handles (b : Blk) (code d : Nat) (n : Nat) : ((b.raiseMod code d).ctx n).handles = (b.ctx n).handles := by rw [(EventsOnly.raiseMod _ _ _).ctx n]
@[simp] theorem Blk.raiseMod_ctx_step (b : Blk) (code d : Nat) (n : Nat) : ((b.raiseMod code d).ctx n).step = (b.ctx n).step := by rw [(EventsOnly.raiseMod _ _ _).ctx n]
@[simp] theorem Blk.raiseMod_ctx_pos (b : Blk) (code d : Nat) (n : Nat) : ((b.raiseMod code d).ctx n).pos = (b.ctx n).pos := by rw [(EventsOnly.raiseMod _ _ _).ctx n]
@[simp] theorem Blk.raiseMod_ctx_flags (b : Blk) (code d : Nat) (n : Nat) : ((b.raiseMod code d).ctx n).flags = (b.ctx n).flags := by rw [(EventsOnly.raiseMod _ _ _).ctx n]
@[simp] theorem Blk.raiseMod_ctx_regions (b : Blk) (code d : Nat) (n : Nat) : ((b.raiseMod code d).ctx n).regions = (b.ctx n).regions := by rw [(EventsOnly.raiseMod _ _ _).ctx n]
@[simp] theorem Blk.raiseMod_ctx_phase (b : Blk) (code d : Nat) (n : Nat) : ((b.raiseMod code d).ctx n).phase = (b.ctx n).phase := by rw [(EventsOnly.raiseMod _ _ _).ctx n]
@[simp] theorem Blk.raiseMod_ctx_gen (b : Blk) (code d : Nat) (n : Nat) : ((b.raiseMod code d).ctx n).gen = (b.ctx n).gen := by rw [(EventsOnly.raiseMod _ _ _).ctx n]
@[simp] theorem Blk.raiseMod_ctx_learn (b : Blk) (code d : Nat) (n : Nat) : ((b.raiseMod code d).ctx n).learn = (b.ctx n).learn := by rw [(EventsOnly.raiseMod _ _ _).ctx n]
@[simp] theorem Blk.raiseMod_ctx_genEnd (b : Blk) (code d : Nat) (n : Nat) : ((b.raiseMod code d).ctx n).genEnd = (b.ctx n).genEnd := by rw [(EventsOnly.raiseMod _ _ _).ctx n]
@[simp] theorem Blk.raiseMod_ctx_barrier (b : Blk) (code d : Nat) (n : Nat) : ((b.raiseMod code d).ctx n).barrier = (b.ctx n).barrier := by rw [(EventsOnly.raiseMod _ _ _).ctx n]
@[simp] theorem Blk.raiseMod_ctx_learnAt (b : Blk) (code d : Nat) (n : Nat) : ((b.raiseMod code d).ctx n).learnAt = (b.ctx n).learnAt := by rw [(EventsOnly.raiseMod _ _ _).ctx n]
@[simp] theorem Blk.raiseMod_ctx_learnLate (b : Blk) (code d : Nat) (n : Nat) : ((b.raiseMod code d).ctx n).learnLate = (b.ctx n).learnLate := by rw [(EventsOnly.raiseMod _ _ _).ctx n]
@[simp] theorem Blk.raiseMod_ctx_buf0 (b : Blk) (code d : Nat) (n : Nat) : ((b.raiseMod code d).ctx n).buf0 = (b.ctx n).buf0 := by rw [(EventsOnly.raiseMod _ _ _).ctx n]
@[simp] theorem Blk.raiseMod_ctx_buf1 (b : Blk) (code d : Nat) (n : Nat) : ((b.raiseMod code d).ctx n).buf1 = (b.ctx n).buf1 := by rw [(EventsOnly.raiseMod _ _ _).ctx n]
@[simp] theorem Blk.raiseMod_ctx_waitTides (b : Blk) (code d : Nat) (n : Nat) : ((b.raiseMod code d).ctx n).waitTides = (b.ctx n).waitTides := by rw [(EventsOnly.raiseMod _ _ _).ctx n]
@[simp] theorem Blk.raiseMod_ctx_pairWaitRaised (b : Blk) (code d : Nat) (n : Nat) : ((b.raiseMod code d).ctx n).pairWaitRaised = (b.ctx n).pairWaitRaised := by rw [(EventsOnly.raiseMod _ _ _).ctx n]
@[simp] theorem Blk.raiseMod_ctx_refused (b : Blk) (code d : Nat) (n : Nat) : ((b.raiseMod code d).ctx n).refused = (b.ctx n).refused := by rw [(EventsOnly.raiseMod _ _ _).ctx n]
@[simp] theorem Blk.raiseMod_ctx_loads (b : Blk) (code d : Nat) (n : Nat) : ((b.raiseMod code d).ctx n).loads = (b.ctx n).loads := by rw [(EventsOnly.raiseMod _ _ _).ctx n]
@[simp] theorem Blk.raiseMod_ctx_created (b : Blk) (code d : Nat) (n : Nat) : ((b.raiseMod code d).ctx n).created = (b.ctx n).created := by rw [(EventsOnly.raiseMod _ _ _).ctx n]
@[simp] theorem Blk.raiseMod_ctx_epoch (b : Blk) (code d : Nat) (n : Nat) : ((b.raiseMod code d).ctx n).epoch = (b.ctx n).epoch := by rw [(EventsOnly.raiseMod _ _ _).ctx n]
@[simp] theorem Blk.raiseMod_ctx_collSeq (b : Blk) (code d : Nat) (n : Nat) : ((b.raiseMod code d).ctx n).collSeq = (b.ctx n).collSeq := by rw [(EventsOnly.raiseMod _ _ _).ctx n]
@[simp] theorem Blk.raiseMod_ctx_draws (b : Blk) (code d : Nat) (n : Nat) : ((b.raiseMod code d).ctx n).draws = (b.ctx n).draws := by rw [(EventsOnly.raiseMod _ _ _).ctx n]
@[simp] theorem Blk.raiseMod_ctx_layer (b : Blk) (code d : Nat) (n : Nat) : ((b.raiseMod code d).ctx n).layer = (b.ctx n).layer := by rw [(EventsOnly.raiseMod _ _ _).ctx n]
@[simp] theorem Blk.raiseMod_ctx_dir (b : Blk) (code d : Nat) (n : Nat) : ((b.raiseMod code d).ctx n).dir = (b.ctx n).dir := by rw [(EventsOnly.raiseMod _ _ _).ctx n]
@[simp] theorem Blk.raiseMod_ctx_off (b : Blk) (code d : Nat) (n : Nat) : ((b.raiseMod code d).ctx n).off = (b.ctx n).off := by rw [(EventsOnly.raiseMod _ _ _).ctx n]
@[simp] theorem Blk.raiseMod_ctx_returning (b : Blk) (code d : Nat) (n : Nat) : ((b.raiseMod code d).ctx n).returning = (b.ctx n).returning := by rw [(EventsOnly.raiseMod _ _ _).ctx n]
@[simp] theorem Blk.raiseMod_ctx_hrv (b : Blk) (code d : Nat) (n : Nat) : ((b.raiseMod code d).ctx n).hrv = (b.ctx n).hrv := by rw [(EventsOnly.raiseMod _ _ _).ctx n]
@[simp] theorem Blk.raiseMod_ctx_queues (b : Blk) (code d : Nat) (n : Nat) : ((b.raiseMod code d).ctx n).queues = (b.ctx n).queues := by rw [(EventsOnly.raiseMod _ _ _).ctx n]
@[simp] theorem Blk.raiseMod_sec_bootState (b : Blk) (code d : Nat) : (b.raiseMod code d).sec.bootState = b.sec.bootState := by rw [(EventsOnly.raiseMod _ _ _).rest]
@[simp] theorem Blk.raiseMod_sec_booting (b : Blk) (code d : Nat) : (b.raiseMod code d).sec.booting = b.sec.booting := by rw [(EventsOnly.raiseMod _ _ _).rest]
@[simp] theorem Blk.raiseMod_sec_configured (b : Blk) (code d : Nat) : (b.raiseMod code d).sec.configured = b.sec.configured := by rw [(EventsOnly.raiseMod _ _ _).rest]
@[simp] theorem Blk.raiseMod_sec_ready (b : Blk) (code d : Nat) : (b.raiseMod code d).sec.ready = b.sec.ready := by rw [(EventsOnly.raiseMod _ _ _).rest]
@[simp] theorem Blk.raiseMod_sec_recovery (b : Blk) (code d : Nat) : (b.raiseMod code d).sec.recovery = b.sec.recovery := by rw [(EventsOnly.raiseMod _ _ _).rest]
@[simp] theorem Blk.raiseMod_sec_bootLate (b : Blk) (code d : Nat) : (b.raiseMod code d).sec.bootLate = b.sec.bootLate := by rw [(EventsOnly.raiseMod _ _ _).rest]
@[simp] theorem Blk.raiseMod_sec_slot (b : Blk) (code d : Nat) : (b.raiseMod code d).sec.slot = b.sec.slot := by rw [(EventsOnly.raiseMod _ _ _).rest]
@[simp] theorem Blk.raiseMod_sec_fallback (b : Blk) (code d : Nat) : (b.raiseMod code d).sec.fallback = b.sec.fallback := by rw [(EventsOnly.raiseMod _ _ _).rest]
@[simp] theorem Blk.raiseMod_sec_unlock (b : Blk) (code d : Nat) : (b.raiseMod code d).sec.unlock = b.sec.unlock := by rw [(EventsOnly.raiseMod _ _ _).rest]
@[simp] theorem Blk.raiseMod_sec_unlockNext (b : Blk) (code d : Nat) : (b.raiseMod code d).sec.unlockNext = b.sec.unlockNext := by rw [(EventsOnly.raiseMod _ _ _).rest]
@[simp] theorem Blk.raiseMod_sec_rootHash (b : Blk) (code d : Nat) : (b.raiseMod code d).sec.rootHash = b.sec.rootHash := by rw [(EventsOnly.raiseMod _ _ _).rest]
@[simp] theorem Blk.raiseMod_sec_ownerHash (b : Blk) (code d : Nat) : (b.raiseMod code d).sec.ownerHash = b.sec.ownerHash := by rw [(EventsOnly.raiseMod _ _ _).rest]
@[simp] theorem Blk.raiseMod_sec_romSha (b : Blk) (code d : Nat) : (b.raiseMod code d).sec.romSha = b.sec.romSha := by rw [(EventsOnly.raiseMod _ _ _).rest]
@[simp] theorem Blk.raiseMod_sec_imageKey (b : Blk) (code d : Nat) : (b.raiseMod code d).sec.imageKey = b.sec.imageKey := by rw [(EventsOnly.raiseMod _ _ _).rest]
@[simp] theorem Blk.raiseMod_sec_serial (b : Blk) (code d : Nat) : (b.raiseMod code d).sec.serial = b.sec.serial := by rw [(EventsOnly.raiseMod _ _ _).rest]
@[simp] theorem Blk.raiseMod_sec_minSvn (b : Blk) (code d : Nat) : (b.raiseMod code d).sec.minSvn = b.sec.minSvn := by rw [(EventsOnly.raiseMod _ _ _).rest]
@[simp] theorem Blk.raiseMod_sec_svn (b : Blk) (code d : Nat) : (b.raiseMod code d).sec.svn = b.sec.svn := by rw [(EventsOnly.raiseMod _ _ _).rest]
@[simp] theorem Blk.raiseMod_sec_slot0 (b : Blk) (code d : Nat) : (b.raiseMod code d).sec.slot0 = b.sec.slot0 := by rw [(EventsOnly.raiseMod _ _ _).rest]
@[simp] theorem Blk.raiseMod_sec_slot1 (b : Blk) (code d : Nat) : (b.raiseMod code d).sec.slot1 = b.sec.slot1 := by rw [(EventsOnly.raiseMod _ _ _).rest]
@[simp] theorem Blk.raiseMod_sec_select (b : Blk) (code d : Nat) : (b.raiseMod code d).sec.select = b.sec.select := by rw [(EventsOnly.raiseMod _ _ _).rest]
@[simp] theorem Blk.raiseMod_sec_switchPend (b : Blk) (code d : Nat) : (b.raiseMod code d).sec.switchPend = b.sec.switchPend := by rw [(EventsOnly.raiseMod _ _ _).rest]
@[simp] theorem Blk.raiseMod_sec_switchCfg (b : Blk) (code d : Nat) : (b.raiseMod code d).sec.switchCfg = b.sec.switchCfg := by rw [(EventsOnly.raiseMod _ _ _).rest]
@[simp] theorem Blk.raiseMod_sec_authFail (b : Blk) (code d : Nat) : (b.raiseMod code d).sec.authFail = b.sec.authFail := by rw [(EventsOnly.raiseMod _ _ _).rest]
@[simp] theorem Blk.raiseMod_sec_tagFail (b : Blk) (code d : Nat) : (b.raiseMod code d).sec.tagFail = b.sec.tagFail := by rw [(EventsOnly.raiseMod _ _ _).rest]
@[simp] theorem Blk.raiseMod_sec_glitchVolt (b : Blk) (code d : Nat) : (b.raiseMod code d).sec.glitchVolt = b.sec.glitchVolt := by rw [(EventsOnly.raiseMod _ _ _).rest]
@[simp] theorem Blk.raiseMod_sec_glitchClk (b : Blk) (code d : Nat) : (b.raiseMod code d).sec.glitchClk = b.sec.glitchClk := by rw [(EventsOnly.raiseMod _ _ _).rest]
@[simp] theorem Blk.raiseMod_sec_glitchPend (b : Blk) (code d : Nat) : (b.raiseMod code d).sec.glitchPend = b.sec.glitchPend := by rw [(EventsOnly.raiseMod _ _ _).rest]
@[simp] theorem Blk.raiseMod_sec_reason (b : Blk) (code d : Nat) : (b.raiseMod code d).sec.reason = b.sec.reason := by rw [(EventsOnly.raiseMod _ _ _).rest]
@[simp] theorem Blk.raiseMod_sec_dirIndex (b : Blk) (code d : Nat) : (b.raiseMod code d).sec.dirIndex = b.sec.dirIndex := by rw [(EventsOnly.raiseMod _ _ _).rest]
@[simp] theorem Blk.raiseMod_sec_bootMs (b : Blk) (code d : Nat) : (b.raiseMod code d).sec.bootMs = b.sec.bootMs := by rw [(EventsOnly.raiseMod _ _ _).rest]
@[simp] theorem Blk.raiseMod_sec_report (b : Blk) (code d : Nat) : (b.raiseMod code d).sec.report = b.sec.report := by rw [(EventsOnly.raiseMod _ _ _).rest]
@[simp] theorem Blk.raiseMod_sec_sessions (b : Blk) (code d : Nat) : (b.raiseMod code d).sec.sessions = b.sec.sessions := by rw [(EventsOnly.raiseMod _ _ _).rest]
@[simp] theorem Blk.raiseMod_sec_tierKeys (b : Blk) (code d : Nat) : (b.raiseMod code d).sec.tierKeys = b.sec.tierKeys := by rw [(EventsOnly.raiseMod _ _ _).rest]
@[simp] theorem Blk.raiseMod_mgt_slotId (b : Blk) (code d : Nat) : (b.raiseMod code d).mgt.slotId = b.mgt.slotId := by rw [(EventsOnly.raiseMod _ _ _).rest]
@[simp] theorem Blk.raiseMod_mgt_slotBad (b : Blk) (code d : Nat) : (b.raiseMod code d).mgt.slotBad = b.mgt.slotBad := by rw [(EventsOnly.raiseMod _ _ _).rest]
@[simp] theorem Blk.raiseMod_mgt_nslot (b : Blk) (code d : Nat) : (b.raiseMod code d).mgt.nslot = b.mgt.nslot := by rw [(EventsOnly.raiseMod _ _ _).rest]
@[simp] theorem Blk.raiseMod_mgt_hbK (b : Blk) (code d : Nat) : (b.raiseMod code d).mgt.hbK = b.mgt.hbK := by rw [(EventsOnly.raiseMod _ _ _).rest]
@[simp] theorem Blk.raiseMod_mgt_heard (b : Blk) (code d : Nat) : (b.raiseMod code d).mgt.heard = b.mgt.heard := by rw [(EventsOnly.raiseMod _ _ _).rest]
@[simp] theorem Blk.raiseMod_mgt_txFrames (b : Blk) (code d : Nat) : (b.raiseMod code d).mgt.txFrames = b.mgt.txFrames := by rw [(EventsOnly.raiseMod _ _ _).rest]
@[simp] theorem Blk.raiseMod_mgt_txDiscard (b : Blk) (code d : Nat) : (b.raiseMod code d).mgt.txDiscard = b.mgt.txDiscard := by rw [(EventsOnly.raiseMod _ _ _).rest]
@[simp] theorem Blk.raiseMod_mgt_collisions (b : Blk) (code d : Nat) : (b.raiseMod code d).mgt.collisions = b.mgt.collisions := by rw [(EventsOnly.raiseMod _ _ _).rest]
@[simp] theorem Blk.raiseMod_mgt_excessive (b : Blk) (code d : Nat) : (b.raiseMod code d).mgt.excessive = b.mgt.excessive := by rw [(EventsOnly.raiseMod _ _ _).rest]
@[simp] theorem Blk.raiseMod_mgt_late (b : Blk) (code d : Nat) : (b.raiseMod code d).mgt.late = b.mgt.late := by rw [(EventsOnly.raiseMod _ _ _).rest]
@[simp] theorem Blk.raiseMod_mgt_rxFrames (b : Blk) (code d : Nat) : (b.raiseMod code d).mgt.rxFrames = b.mgt.rxFrames := by rw [(EventsOnly.raiseMod _ _ _).rest]
@[simp] theorem Blk.raiseMod_mgt_fcsErr (b : Blk) (code d : Nat) : (b.raiseMod code d).mgt.fcsErr = b.mgt.fcsErr := by rw [(EventsOnly.raiseMod _ _ _).rest]
@[simp] theorem Blk.raiseMod_mgt_underrun (b : Blk) (code d : Nat) : (b.raiseMod code d).mgt.underrun = b.mgt.underrun := by rw [(EventsOnly.raiseMod _ _ _).rest]
@[simp] theorem Blk.raiseMod_mgt_txThresh (b : Blk) (code d : Nat) : (b.raiseMod code d).mgt.txThresh = b.mgt.txThresh := by rw [(EventsOnly.raiseMod _ _ _).rest]
@[simp] theorem Blk.raiseMod_mgt_badFrame (b : Blk) (code d : Nat) : (b.raiseMod code d).mgt.badFrame = b.mgt.badFrame := by rw [(EventsOnly.raiseMod _ _ _).rest]
@[simp] theorem Blk.raiseMod_mgt_jamTides (b : Blk) (code d : Nat) : (b.raiseMod code d).mgt.jamTides = b.mgt.jamTides := by rw [(EventsOnly.raiseMod _ _ _).rest]
@[simp] theorem Blk.raiseMod_mgt_posConflict (b : Blk) (code d : Nat) : (b.raiseMod code d).mgt.posConflict = b.mgt.posConflict := by rw [(EventsOnly.raiseMod _ _ _).rest]
@[simp] theorem Blk.raiseMod_mgt_jammed (b : Blk) (code d : Nat) : (b.raiseMod code d).mgt.jammed = b.mgt.jammed := by rw [(EventsOnly.raiseMod _ _ _).rest]
@[simp] theorem Blk.raiseMod_mgt_jamNow (b : Blk) (code d : Nat) : (b.raiseMod code d).mgt.jamNow = b.mgt.jamNow := by rw [(EventsOnly.raiseMod _ _ _).rest]
@[simp] theorem Blk.raiseMod_mgt_queue (b : Blk) (code d : Nat) : (b.raiseMod code d).mgt.queue = b.mgt.queue := by rw [(EventsOnly.raiseMod _ _ _).rest]
@[simp] theorem Blk.raiseMod_mgt_sending (b : Blk) (code d : Nat) : (b.raiseMod code d).mgt.sending = b.mgt.sending := by rw [(EventsOnly.raiseMod _ _ _).rest]
@[simp] theorem Blk.raiseMod_mgt_txEnd (b : Blk) (code d : Nat) : (b.raiseMod code d).mgt.txEnd = b.mgt.txEnd := by rw [(EventsOnly.raiseMod _ _ _).rest]
@[simp] theorem Blk.raiseMod_mgt_hbTide (b : Blk) (code d : Nat) : (b.raiseMod code d).mgt.hbTide = b.mgt.hbTide := by rw [(EventsOnly.raiseMod _ _ _).rest]
@[simp] theorem Blk.raiseMod_mgt_hbVal (b : Blk) (code d : Nat) : (b.raiseMod code d).mgt.hbVal = b.mgt.hbVal := by rw [(EventsOnly.raiseMod _ _ _).rest]
@[simp] theorem Blk.raiseMod_mgt_hbStatus (b : Blk) (code d : Nat) : (b.raiseMod code d).mgt.hbStatus = b.mgt.hbStatus := by rw [(EventsOnly.raiseMod _ _ _).rest]
@[simp] theorem Blk.raiseMod_mgt_jamIn (b : Blk) (code d : Nat) : (b.raiseMod code d).mgt.jamIn = b.mgt.jamIn := by rw [(EventsOnly.raiseMod _ _ _).rest]
@[simp] theorem Blk.raiseMod_mgt_backoff (b : Blk) (code d : Nat) : (b.raiseMod code d).mgt.backoff = b.mgt.backoff := by rw [(EventsOnly.raiseMod _ _ _).rest]
@[simp] theorem Blk.raiseMod_mgt_parts (b : Blk) (code d : Nat) : (b.raiseMod code d).mgt.parts = b.mgt.parts := by rw [(EventsOnly.raiseMod _ _ _).rest]
@[simp] theorem Blk.raiseMod_mgt_peers (b : Blk) (code d : Nat) : (b.raiseMod code d).mgt.peers = b.mgt.peers := by rw [(EventsOnly.raiseMod _ _ _).rest]

theorem EventsOnly.portOf {a b : Blk} (h : EventsOnly a b) (i : Nat) : b.portOf i = a.portOf i := by simp [Blk.portOf, h.ports]
theorem EventsOnly.strmOf {a b : Blk} (h : EventsOnly a b) (i : Nat) : b.strmOf i = a.strmOf i := by simp [Blk.strmOf, h.strm]
theorem EventsOnly.panSt {a b : Blk} (h : EventsOnly a b) (p : Pan) : b.panSt p = a.panSt p := by simp [Blk.panSt, h.pan]

/-! What a command does to the block beside event records is the same whether or not records went before it. -/

theorem EventsOnly.with_out {a b : Blk} (h : EventsOnly a b) (x : List Out) : EventsOnly { a with out := x } { b with out := x } :=
  ⟨h.ctx, h.arb, by rw [h.rest]⟩
theorem EventsOnly.with_freeCtr {a b : Blk} (h : EventsOnly a b) (x : Nat) : EventsOnly { a with freeCtr := x } { b with freeCtr := x } :=
  ⟨h.ctx, h.arb, by rw [h.rest]⟩
theorem EventsOnly.with_now {a b : Blk} (h : EventsOnly a b) (x : Nat) : EventsOnly { a with now := x } { b with now := x } :=
  ⟨h.ctx, h.arb, by rw [h.rest]⟩
theorem EventsOnly.with_pend {a b : Blk} (h : EventsOnly a b) (x : List Pend) : EventsOnly { a with pend := x } { b with pend := x } :=
  ⟨h.ctx, h.arb, by rw [h.rest]⟩
theorem EventsOnly.with_pwr {a b : Blk} (h : EventsOnly a b) (x : Power) : EventsOnly { a with pwr := x } { b with pwr := x } :=
  ⟨h.ctx, h.arb, by rw [h.rest]⟩
theorem EventsOnly.with_tide {a b : Blk} (h : EventsOnly a b) (x : TideUnit) : EventsOnly { a with tide := x } { b with tide := x } :=
  ⟨h.ctx, h.arb, by rw [h.rest]⟩
theorem EventsOnly.with_xing {a b : Blk} (h : EventsOnly a b) (x : Tbl Crossing) : EventsOnly { a with xing := x } { b with xing := x } :=
  ⟨h.ctx, h.arb, by rw [h.rest]⟩
theorem EventsOnly.with_pan {a b : Blk} (h : EventsOnly a b) (x : Tbl PanSt) : EventsOnly { a with pan := x } { b with pan := x } :=
  ⟨h.ctx, h.arb, by rw [h.rest]⟩
theorem EventsOnly.with_mc {a b : Blk} (h : EventsOnly a b) (x : Tbl Mc) : EventsOnly { a with mc := x } { b with mc := x } :=
  ⟨h.ctx, h.arb, by rw [h.rest]⟩
theorem EventsOnly.with_repairs {a b : Blk} (h : EventsOnly a b) (x : List Repair) : EventsOnly { a with repairs := x } { b with repairs := x } :=
  ⟨h.ctx, h.arb, by rw [h.rest]⟩
theorem EventsOnly.with_slu {a b : Blk} (h : EventsOnly a b) (x : Sluice) : EventsOnly { a with slu := x } { b with slu := x } :=
  ⟨h.ctx, h.arb, by rw [h.rest]⟩
theorem EventsOnly.with_me {a b : Blk} (h : EventsOnly a b) (x : Tbl Me) : EventsOnly { a with me := x } { b with me := x } :=
  ⟨h.ctx, h.arb, by rw [h.rest]⟩
theorem EventsOnly.with_ve {a b : Blk} (h : EventsOnly a b) (x : Tbl Ve) : EventsOnly { a with ve := x } { b with ve := x } :=
  ⟨h.ctx, h.arb, by rw [h.rest]⟩
theorem EventsOnly.with_rk {a b : Blk} (h : EventsOnly a b) (x : Tbl Rk) : EventsOnly { a with rk := x } { b with rk := x } :=
  ⟨h.ctx, h.arb, by rw [h.rest]⟩
theorem EventsOnly.with_strm {a b : Blk} (h : EventsOnly a b) (x : Tbl Strm) : EventsOnly { a with strm := x } { b with strm := x } :=
  ⟨h.ctx, h.arb, by rw [h.rest]⟩
theorem EventsOnly.with_recs {a b : Blk} (h : EventsOnly a b) (x : List InRec) : EventsOnly { a with recs := x } { b with recs := x } :=
  ⟨h.ctx, h.arb, by rw [h.rest]⟩
theorem EventsOnly.with_held {a b : Blk} (h : EventsOnly a b) (x : List Held) : EventsOnly { a with held := x } { b with held := x } :=
  ⟨h.ctx, h.arb, by rw [h.rest]⟩
theorem EventsOnly.with_recFull {a b : Blk} (h : EventsOnly a b) (x : Tbl Nat) : EventsOnly { a with recFull := x } { b with recFull := x } :=
  ⟨h.ctx, h.arb, by rw [h.rest]⟩
theorem EventsOnly.with_wins {a b : Blk} (h : EventsOnly a b) (x : Tbl Win) : EventsOnly { a with wins := x } { b with wins := x } :=
  ⟨h.ctx, h.arb, by rw [h.rest]⟩
theorem EventsOnly.with_ports {a b : Blk} (h : EventsOnly a b) (x : Tbl Port) : EventsOnly { a with ports := x } { b with ports := x } :=
  ⟨h.ctx, h.arb, by rw [h.rest]⟩
theorem EventsOnly.with_colls {a b : Blk} (h : EventsOnly a b) (x : List Coll) : EventsOnly { a with colls := x } { b with colls := x } :=
  ⟨h.ctx, h.arb, by rw [h.rest]⟩
theorem EventsOnly.with_ces {a b : Blk} (h : EventsOnly a b) (x : Tbl Ce) : EventsOnly { a with ces := x } { b with ces := x } :=
  ⟨h.ctx, h.arb, by rw [h.rest]⟩
theorem EventsOnly.with_heldShards {a b : Blk} (h : EventsOnly a b) (x : List HeldShard) : EventsOnly { a with heldShards := x } { b with heldShards := x } :=
  ⟨h.ctx, h.arb, by rw [h.rest]⟩
theorem EventsOnly.with_rst {a b : Blk} (h : EventsOnly a b) (x : RstSt) : EventsOnly { a with rst := x } { b with rst := x } :=
  ⟨h.ctx, h.arb, by rw [h.rest]⟩
theorem EventsOnly.with_store {a b : Blk} (h : EventsOnly a b) (x : SealSt) : EventsOnly { a with store := x } { b with store := x } :=
  ⟨h.ctx, h.arb, by rw [h.rest]⟩
theorem EventsOnly.with_mon {a b : Blk} (h : EventsOnly a b) (x : MonSt) : EventsOnly { a with mon := x } { b with mon := x } :=
  ⟨h.ctx, h.arb, by rw [h.rest]⟩
theorem EventsOnly.with_tst {a b : Blk} (h : EventsOnly a b) (x : TstSt) : EventsOnly { a with tst := x } { b with tst := x } :=
  ⟨h.ctx, h.arb, by rw [h.rest]⟩
theorem EventsOnly.with_spare {a b : Blk} (h : EventsOnly a b) (x : SpareSt) : EventsOnly { a with spare := x } { b with spare := x } :=
  ⟨h.ctx, h.arb, by rw [h.rest]⟩
theorem EventsOnly.with_cfg {a b : Blk} (h : EventsOnly a b) (x : Kartile) : EventsOnly { a with cfg := x } { b with cfg := x } :=
  ⟨h.ctx, h.arb, by rw [h.rest]⟩
theorem EventsOnly.with_evSeq {a b : Blk} (h : EventsOnly a b) (x : Tbl Nat) : EventsOnly { a with evSeq := x } { b with evSeq := x } :=
  ⟨h.ctx, h.arb, by rw [h.rest]⟩
theorem EventsOnly.modRst {a b : Blk} (h : EventsOnly a b) (f : RstSt → RstSt) : EventsOnly (a.modRst f) (b.modRst f) := by
  unfold Blk.modRst; rw [h.rst]; exact h.with_rst _
theorem EventsOnly.modTide {a b : Blk} (h : EventsOnly a b) (f : TideUnit → TideUnit) : EventsOnly (a.modTide f) (b.modTide f) := by
  unfold Blk.modTide; rw [h.tide]; exact h.with_tide _
theorem EventsOnly.modMon {a b : Blk} (h : EventsOnly a b) (f : MonSt → MonSt) : EventsOnly (a.modMon f) (b.modMon f) := by
  unfold Blk.modMon; rw [h.mon]; exact h.with_mon _
theorem EventsOnly.modSlu {a b : Blk} (h : EventsOnly a b) (f : Sluice → Sluice) : EventsOnly (a.modSlu f) (b.modSlu f) := by
  unfold Blk.modSlu; rw [h.slu]; exact h.with_slu _
theorem EventsOnly.modSpare {a b : Blk} (h : EventsOnly a b) (f : SpareSt → SpareSt) : EventsOnly (a.modSpare f) (b.modSpare f) := by
  unfold Blk.modSpare; rw [h.spare]; exact h.with_spare _
theorem EventsOnly.modPan {a b : Blk} (h : EventsOnly a b) (i : Pan) (f : PanSt → PanSt) : EventsOnly (a.modPan i f) (b.modPan i f) := by
  simp only [Blk.modPan, Blk.panSt]; rw [h.pan]; exact h.with_pan _
theorem EventsOnly.modMc {a b : Blk} (h : EventsOnly a b) (i : Pan) (f : Mc → Mc) : EventsOnly (a.modMc i f) (b.modMc i f) := by
  simp only [Blk.modMc, Blk.mcOf]; rw [h.mc]; exact h.with_mc _
theorem EventsOnly.modMe {a b : Blk} (h : EventsOnly a b) (i : Nat) (f : Me → Me) : EventsOnly (a.modMe i f) (b.modMe i f) := by
  simp only [Blk.modMe, Blk.meOf]; rw [h.me]; exact h.with_me _
theorem EventsOnly.modVe {a b : Blk} (h : EventsOnly a b) (i : Nat) (f : Ve → Ve) : EventsOnly (a.modVe i f) (b.modVe i f) := by
  simp only [Blk.modVe, Blk.veOf]; rw [h.ve]; exact h.with_ve _
theorem EventsOnly.modRk {a b : Blk} (h : EventsOnly a b) (i : Nat) (f : Rk → Rk) : EventsOnly (a.modRk i f) (b.modRk i f) := by
  simp only [Blk.modRk, Blk.rkOf]; rw [h.rk]; exact h.with_rk _
theorem EventsOnly.modStrm {a b : Blk} (h : EventsOnly a b) (i : Nat) (f : Strm → Strm) : EventsOnly (a.modStrm i f) (b.modStrm i f) := by
  simp only [Blk.modStrm, Blk.setStrm, Blk.strmOf]; rw [h.strm]; exact h.with_strm _
theorem EventsOnly.modPort {a b : Blk} (h : EventsOnly a b) (i : Nat) (f : Port → Port) : EventsOnly (a.modPort i f) (b.modPort i f) := by
  simp only [Blk.modPort, Blk.portOf]; rw [h.ports]; exact h.with_ports _
theorem EventsOnly.modWin {a b : Blk} (h : EventsOnly a b) (i : Nat) (f : Win → Win) : EventsOnly (a.modWin i f) (b.modWin i f) := by
  simp only [Blk.modWin, Blk.winOf]; rw [h.wins]; exact h.with_wins _
theorem EventsOnly.modCe {a b : Blk} (h : EventsOnly a b) (i : Nat) (f : Ce → Ce) : EventsOnly (a.modCe i f) (b.modCe i f) := by
  simp only [Blk.modCe, Blk.ceOf]; rw [h.ces]; exact h.with_ces _
theorem EventsOnly.modXing {a b : Blk} (h : EventsOnly a b) (i : Pan) (f : Crossing → Crossing) : EventsOnly (a.modXing i f) (b.modXing i f) := by
  simp only [Blk.modXing, Blk.xingOf]; rw [h.xing]; exact h.with_xing _
theorem EventsOnly.setSt {a b : Blk} (h : EventsOnly a b) (p : Pan) (x : PState) : EventsOnly (a.setSt p x) (b.setSt p x) := h.modPan _ _
theorem EventsOnly.send {a b : Blk} (h : EventsOnly a b) (x : Out) : EventsOnly (a.send x) (b.send x) := by
  unfold Blk.send; rw [h.out]; exact h.with_out _

end Sys2Proof.Machine
end

