-- ==== Sys2Proof/Laws/Aside.lean ====
section
/-! SUPPORT. What faults, teardowns and aborts leave alone (R244 to R247, R312). -/
namespace Sys2Proof.Machine
open Sys2Proof

theorem Tbl.find_mapV {α : Type} (f : Nat → α → α) (t : Tbl α) (k : Nat) : Tbl.find (Tbl.mapV f t) k = (Tbl.find t k).map (f k) := by
  induction t with
  | nil => rfl
  | cons x t ih =>
    obtain ⟨i, a⟩ := x
    simp only [Tbl.mapV, List.map_cons, Tbl.find] at ih ⊢
    split
    · next h => subst h; rfl
    · exact ih

theorem Tbl.get_mapV {α : Type} (f : Nat → α → α) (t : Tbl α) (d : α) (k : Nat) (h : f k d = d) : Tbl.get (Tbl.mapV f t) d k = f k (Tbl.get t d k) := by
  unfold Tbl.get; rw [Tbl.find_mapV]; cases Tbl.find t k <;> simp [h]

/-- The life of each context is the same. -/
structure SameLife (a b : Blk) : Prop where
  st : ∀ n, (b.ctx n).st = (a.ctx n).st
  fault : ∀ n, (b.ctx n).fault = (a.ctx n).fault
  tdReason : ∀ n, (b.ctx n).tdReason = (a.ctx n).tdReason
  tdStart : ∀ n, (b.ctx n).tdStart = (a.ctx n).tdStart
  tdStep : ∀ n, (b.ctx n).tdStep = (a.ctx n).tdStep
  phase : ∀ n, (b.ctx n).phase = (a.ctx n).phase
  gen : ∀ n, (b.ctx n).gen = (a.ctx n).gen
  learn : ∀ n, (b.ctx n).learn = (a.ctx n).learn

theorem PortAside.refl (p : Port) : PortAside p p := ⟨rfl⟩
theorem PortAside.trans {p q r : Port} (h : PortAside p q) (k : PortAside q r) : PortAside p r := ⟨by
  have e := k.eq; rw [h.eq] at e; exact e⟩

/-- Parts that a change may touch without being seen here, the contexts among them where their records stay. -/
theorem Aside.of_parts (b : Blk) (pend : List Pend) (slu : Sluice) (arbs : Tbl Arb) (me : Tbl Me) (ve : Tbl Ve) (rk : Tbl Rk) (strm : Tbl Strm) (recs : List InRec) (held : List Held)
    (wins : Tbl Win) (colls : List Coll) (ces : Tbl Ce) (hs : List HeldShard) (ctxs : Tbl Ctx) (h : ∀ n, (ctxs.get {} n).rec_ = (b.ctx n).rec_) :
    Aside b { b with pend := pend, slu := slu, arbs := arbs, me := me, ve := ve, rk := rk, strm := strm, recs := recs, held := held, wins := wins, colls := colls, ces := ces, heldShards := hs, ctxs := ctxs } where
  out := ⟨[], rfl⟩
  freeCtr := rfl
  now := rfl
  pwr := rfl
  tide := rfl
  xing := rfl
  mc := rfl
  repairs := rfl
  ports _ := .refl _
  rst := rfl
  store := rfl
  mon := rfl
  tst := rfl
  spare := rfl
  cfg := rfl
  evSeq := rfl
  st _ := rfl
  rec_ := h

theorem Aside.refl (a : Blk) : Aside a a := .of_parts a _ _ _ _ _ _ _ _ _ _ _ _ _ _ fun _ => rfl
theorem Aside.trans {a b c : Blk} (h : Aside a b) (k : Aside b c) : Aside a c where
  out := by obtain ⟨l, e⟩ := h.out; obtain ⟨m, f⟩ := k.out; exact ⟨m ++ l, by rw [f, e, List.append_assoc]⟩
  freeCtr := k.freeCtr.trans h.freeCtr
  now := k.now.trans h.now
  pwr := k.pwr.trans h.pwr
  tide := k.tide.trans h.tide
  xing := k.xing.trans h.xing
  mc := k.mc.trans h.mc
  repairs := k.repairs.trans h.repairs
  ports i := (h.ports i).trans (k.ports i)
  rst := k.rst.trans h.rst
  store := k.store.trans h.store
  mon := k.mon.trans h.mon
  tst := k.tst.trans h.tst
  spare := k.spare.trans h.spare
  cfg := k.cfg.trans h.cfg
  evSeq := k.evSeq.trans h.evSeq
  st n := (k.st n).trans (h.st n)
  rec_ n := (k.rec_ n).trans (h.rec_ n)
theorem SameLife.of_ctxs {a b : Blk} (h : ∀ n, b.ctx n = a.ctx n) : SameLife a b := by constructor <;> intro n <;> rw [h]
theorem SameLife.refl (a : Blk) : SameLife a a := .of_ctxs fun _ => rfl
theorem SameLife.trans {a b c : Blk} (h : SameLife a b) (k : SameLife b c) : SameLife a c :=
  ⟨fun n => (k.st n).trans (h.st n), fun n => (k.fault n).trans (h.fault n), fun n => (k.tdReason n).trans (h.tdReason n), fun n => (k.tdStart n).trans (h.tdStart n), fun n => (k.tdStep n).trans (h.tdStep n), fun n => (k.phase n).trans (h.phase n),
    fun n => (k.gen n).trans (h.gen n), fun n => (k.learn n).trans (h.learn n)⟩
theorem Aside.foldl {α : Type} (f : Blk → α → Blk) (hf : ∀ b a, Aside b (f b a)) (l : List α) : ∀ b, Aside b (l.foldl f b) := by
  induction l with
  | nil => exact Aside.refl
  | cons a l ih => exact fun b => (hf b a).trans (ih _)
theorem SameLife.foldl {α : Type} (f : Blk → α → Blk) (hf : ∀ b a, SameLife b (f b a)) (l : List α) : ∀ b, SameLife b (l.foldl f b) := by
  induction l with
  | nil => exact SameLife.refl
  | cons a l ih => exact fun b => (hf b a).trans (ih _)
theorem EventsOnly.aside {a b : Blk} (h : EventsOnly a b) : Aside a b :=
  ⟨⟨[], h.out⟩, h.freeCtr, h.now, h.pwr, h.tide, h.xing, h.mc, h.repairs, fun i => by unfold Blk.portOf; rw [h.ports]; exact .refl _, h.rst, h.store, h.mon, h.tst, h.spare, h.cfg, h.evSeq, fun p => by rw [h.panSt], fun n => by rw [h.ctx n]⟩
theorem EventsOnly.sameLife {a b : Blk} (h : EventsOnly a b) : SameLife a b :=
  by constructor <;> intro n <;> rw [h.ctx n]

/-- Both at once. -/
structure Quiet (a b : Blk) : Prop where
  aside : Aside a b
  life : SameLife a b

theorem Quiet.refl (a : Blk) : Quiet a a := ⟨.refl a, .refl a⟩
theorem Quiet.trans {a b c : Blk} (h : Quiet a b) (k : Quiet b c) : Quiet a c := ⟨h.aside.trans k.aside, h.life.trans k.life⟩
theorem Quiet.foldl {α : Type} (f : Blk → α → Blk) (hf : ∀ b a, Quiet b (f b a)) (l : List α) (b : Blk) : Quiet b (l.foldl f b) :=
  ⟨.foldl f (fun b a => (hf b a).aside) l b, .foldl f (fun b a => (hf b a).life) l b⟩
theorem EventsOnly.quiet {a b : Blk} (h : EventsOnly a b) : Quiet a b := ⟨h.aside, h.sameLife⟩

/-- Parts that a change may touch without being seen here. -/
theorem Quiet.of_eq (b : Blk) (pend : List Pend) (slu : Sluice) (arbs : Tbl Arb) (me : Tbl Me) (ve : Tbl Ve) (rk : Tbl Rk) (strm : Tbl Strm) (recs : List InRec) (held : List Held)
    (wins : Tbl Win) (colls : List Coll) (ces : Tbl Ce) (hs : List HeldShard) :
    Quiet b { b with pend := pend, slu := slu, arbs := arbs, me := me, ve := ve, rk := rk, strm := strm, recs := recs, held := held, wins := wins, colls := colls, ces := ces, heldShards := hs } :=
  ⟨.of_parts b _ _ _ _ _ _ _ _ _ _ _ _ _ _ fun _ => rfl, .of_ctxs fun _ => rfl⟩

theorem Quiet.issue (b : Blk) (n : Nat) (m : OutMsg) : Quiet b (b.issue n m) := Quiet.of_eq b _ _ _ _ _ _ _ _ _ _ _ _ _
theorem Quiet.setStrm (b : Blk) (n : Nat) (x : Strm) : Quiet b (b.setStrm n x) := Quiet.of_eq b _ _ _ _ _ _ _ _ _ _ _ _ _
theorem Quiet.modCe (b : Blk) (n : Nat) (f : Ce → Ce) : Quiet b (b.modCe n f) := Quiet.of_eq b _ _ _ _ _ _ _ _ _ _ _ _ _
theorem Quiet.modColl (b : Blk) (c g q : Nat) (f : Coll → Coll) : Quiet b (b.modColl c g q f) := Quiet.of_eq b _ _ _ _ _ _ _ _ _ _ _ _ _
theorem Quiet.modWin (b : Blk) (n : Nat) (f : Win → Win) : Quiet b (b.modWin n f) := Quiet.of_eq b _ _ _ _ _ _ _ _ _ _ _ _ _

theorem Quiet.sendCtlRec (b : Blk) (c g q e : Nat) (r : Bool) (m : MemberRec) (x : CtlRec) : Quiet b (b.sendCtlRec c g q e r m x) := by
  unfold Blk.sendCtlRec; split; exact .refl _; exact .issue _ _ _
theorem Quiet.sendCtlAll (b : Blk) (c g q e : Nat) (r : Bool) (x : CtlRec) : Quiet b (b.sendCtlAll c g q e r x) := by
  unfold Blk.sendCtlAll; split; exact .refl _; exact .foldl _ (fun b m => .sendCtlRec _ _ _ _ _ _ _ _) _ _
theorem Quiet.abortOne (b : Blk) (c : Coll) (reason rank : Nat) (tell : Bool) (sev : Nat) : Quiet b (b.abortOne c reason rank tell sev) := by
  unfold Blk.abortOne
  have e (x : Blk) (h : Quiet b x) : Quiet b (match c.engine with
    | some e => x.modCe e fun x => { x with aborts := satInc 16 x.aborts, lastReason := reason }
    | none => x) := by
    split
    · exact h.trans (.modCe _ _ _)
    · exact h
  have k := e { (b.modColl c.ctx c.group c.seq fun x => { x with st := .aborted, reason := reason, got := [], kept := [], waitTide := none, waitAt := none }) with
    heldShards := b.heldShards.filter fun h => !heldFor h c.ctx c.group c.seq } (Quiet.of_eq b _ _ _ _ _ _ _ _ _ _ _ _ _)
  dsimp only
  split
  · exact (k.trans (EventsOnly.raiseSev _ _ _ _ _ _).quiet).trans (.sendCtlAll _ _ _ _ _ _ _)
  · exact k.trans (EventsOnly.raiseSev _ _ _ _ _ _).quiet

/-! Frames that leave (R247, R270, R288). -/

theorem portOf_modPort (b : Blk) (n i : Nat) (f : Port → Port) : (b.modPort n f).portOf i = if i = n then f (b.portOf n) else b.portOf i := Tbl.get_set _ _ _ _ _
theorem Quiet.modPort (b : Blk) (n : Nat) (f : Port → Port) (h : ∀ p, PortAside p (f p)) : Quiet b (b.modPort n f) := by
  refine ⟨{ Aside.refl b with ports := fun i => ?_ }, .of_ctxs fun _ => rfl⟩
  rw [portOf_modPort]
  split
  · next e => rw [e]; exact h _
  · exact .refl _
theorem Quiet.send (b : Blk) (o : Out) : Quiet b (b.send o) :=
  ⟨{ Aside.refl b with out := ⟨[o], rfl⟩ }, .of_ctxs fun _ => rfl⟩
theorem countPn_aside (p : Port) : PortAside p (countPn p) := by
  unfold countPn; split; exact .refl _; split <;> exact ⟨rfl⟩
theorem Quiet.frameOut (b : Blk) (n : Nat) (o : Out) : Quiet b (b.frameOut n o) := by
  unfold Blk.frameOut; split; exact .refl _; exact (Quiet.modPort _ _ _ countPn_aside).trans (.send _ _)
theorem Quiet.setNbr (b : Blk) (n a : Nat) (x : Nbr) : Quiet b (b.setNbr n a x) := .modPort _ _ _ fun _ => ⟨rfl⟩
theorem Quiet.emit (b : Blk) (n a : Nat) (o : Out) : Quiet b (b.emit n a o) := by
  unfold Blk.emit
  split
  · exact (Quiet.setNbr _ _ _ _).trans (.frameOut _ _ _)
  · split
    · exact .setNbr _ _ _ _
    · exact (Quiet.setNbr _ _ _ _).trans (.frameOut _ _ _)
    · exact .frameOut _ _ _
theorem Quiet.sendSky (b : Blk) (n : Nat) (path : Nat × Nat) (p : Packet) : Quiet b (b.sendSky n path p) := .emit _ _ _ _
theorem Quiet.portDrain (b : Blk) (n : Nat) : Quiet b (b.portDrain n) := by
  unfold Blk.portDrain
  split
  · exact .refl _
  · split
    · exact (Quiet.modPort _ _ _ fun _ => ⟨rfl⟩).trans (.foldl _ (fun b (c : Nat × Nat × Packet) => .sendSky b c.1 (n, c.2.1) c.2.2) _ _)
    · split
      · exact .refl _
      · exact (Quiet.modPort _ _ _ fun _ => ⟨rfl⟩).trans (.sendSky _ _ _ _)
theorem Quiet.drainAll (b : Blk) : Quiet b b.drainAll := .foldl _ .portDrain _ _
theorem Quiet.sendData (b : Blk) (n : Nat) (path : Nat × Nat) (p : Packet) : Quiet b (b.sendData n path p) :=
  ((Quiet.sendSky _ _ _ _).trans (.modPort _ _ _ fun _ => ⟨rfl⟩)).trans (.drainAll _)
theorem Quiet.cancelNow (b : Blk) (n first count : Nat) : Quiet b (b.cancelNow n first count) := by
  unfold Blk.cancelNow
  dsimp only
  split
  · exact .setStrm _ _ _
  · exact ((Quiet.setStrm _ _ _).trans (.modPort _ _ _ fun _ => ⟨rfl⟩)).trans (.sendData _ _ _ _)

theorem Quiet.cancelAll (b : Blk) (ctx : Nat) : Quiet b (b.cancelAll ctx) := by
  unfold Blk.cancelAll
  refine .foldl _ (fun b n => .foldl _ (fun b m => ?_) _ _) _ _
  dsimp only
  split
  · exact .setStrm _ _ _
  · exact (Quiet.setStrm _ _ _).trans (.cancelNow _ _ _ _)

theorem Quiet.cancelStep (b : Blk) (ctx : Nat) (f : Bool) : Quiet b (b.cancelStep ctx f) := by
  unfold Blk.cancelStep
  dsimp only
  have k : ∀ l : List Coll, Quiet b (l.foldl (fun b c => b.abortOne c 6 (match b.collGroup c with | some g => b.rankIn g | none => 0) true 3) (b.cancelAll ctx)) :=
    fun l => (Quiet.cancelAll b ctx).trans (Quiet.foldl _ (fun b c => .abortOne b c _ _ _ _) _ _)
  split
  · split
    · exact (k _).trans (.sendCtlAll _ _ _ _ _ _ _)
    · exact k _
  · exact k _

theorem Quiet.revoke (b : Blk) (ctx : Nat) : Quiet b (b.revoke ctx) := by
  unfold Blk.revoke
  refine .trans (.foldl _ (fun b w => ?_) (((b.ctx ctx).rec_.pds.flatMap fun d => d.windows.map (·.winId))) b) (.of_eq _ _ _ _ _ _ _ _ _ _ _ _ _ _)
  split
  · exact .modWin _ _ _
  · exact .refl _

theorem ctx_mapV (b : Blk) (f : Nat → Ctx → Ctx) (n : Nat) (h : f n {} = {}) : Blk.ctx { b with ctxs := b.ctxs.mapV f } n = f n (b.ctx n) := Tbl.get_mapV f b.ctxs {} n h

theorem ctx_setCtx (b : Blk) (n m : Nat) (c : Ctx) : (b.setCtx n c).ctx m = if m = n then c else b.ctx m := Tbl.get_set _ _ _ _ _
theorem ctx_modCtx (b : Blk) (n m : Nat) (f : Ctx → Ctx) : (b.modCtx n f).ctx m = if m = n then f (b.ctx n) else b.ctx m := ctx_setCtx _ _ _ _

/-- What the fence leaves of a context. -/
theorem ctx_fence (b : Blk) (ctx n : Nat) : (b.fence ctx).ctx n = if n = ctx then { b.ctx n with handles := [], open_ := [], loads := [], barrier := false } else b.ctx n :=
  ctx_mapV b (fun n c => if n = ctx then { c with handles := [], open_ := [], loads := [], barrier := false } else c) n (by dsimp only; split <;> rfl)

theorem Quiet.fence (b : Blk) (ctx : Nat) : Quiet b (b.fence ctx) := by
  constructor
  · exact .of_parts b _ _ _ _ _ _ _ _ _ _ _ _ _ _ fun n => by
      have e := ctx_fence b ctx n
      unfold Blk.ctx Blk.fence at e
      dsimp only at e
      rw [e]; split <;> rfl
  · constructor <;> intro n <;> rw [ctx_fence] <;> split <;> rfl

theorem Quiet.modPan_cause (b : Blk) (p : Pan) (x : Nat) : Quiet b (b.modPan p fun y => { y with cause := x }) :=
  ⟨{ Aside.refl b with st := fun q => by simp only [Blk.panSt, Blk.modPan, Tbl.get_set]; split; (next h => rw [h]); rfl }, .of_ctxs fun _ => rfl⟩
theorem Quiet.setCause (b : Blk) (p : Pan) (x : Nat) : Quiet b (b.setCause p x) := .foldl _ (fun b q => .modPan_cause b q x) _ _

theorem Aside.modCtx (b : Blk) (n : Nat) (f : Ctx → Ctx) (h : (f (b.ctx n)).rec_ = (b.ctx n).rec_) : Aside b (b.modCtx n f) :=
  .of_parts b _ _ _ _ _ _ _ _ _ _ _ _ _ _ fun m => by
    change ((b.modCtx n f).ctx m).rec_ = _
    rw [ctx_modCtx]; split; (next k => rw [k]; exact h); rfl

theorem Blk.teardown_tornDown (b : Blk) (ctx : Nat) (reason : TdReason) : TornDown b (b.teardown ctx reason) ctx reason (b.ctx ctx).fault := by
  unfold Blk.teardown
  generalize hd : (b.modCtx ctx fun c => { c with st := .teardown, tdStep := 0, tdReason := reason, tdStart := b.now }) = d
  have q := ((Quiet.fence d ctx).trans (.revoke _ ctx)).trans (.cancelStep _ ctx (decide (reason = .fault)))
  have a1 : Aside b d := by rw [← hd]; exact .modCtx _ _ _ rfl
  dsimp only
  generalize ((d.fence ctx).revoke ctx).cancelStep ctx (decide (reason = .fault)) = e at q
  have w := Quiet.drainAll (e.modCtx ctx fun c => { c with tdStep := 3, phase := .none, gen := none, genPrev := none, learn := none, returning := false })
  refine ⟨((a1.trans q.aside).trans (.modCtx _ _ _ rfl)).trans w.aside, ?_, ?_, ?_, ?_, ?_, ?_, ?_, ?_, ?_⟩
  · rw [w.life.st, ctx_modCtx, if_pos rfl, q.life.st, ← hd, ctx_modCtx, if_pos rfl]
  · rw [w.life.tdStep, ctx_modCtx, if_pos rfl]
  · rw [w.life.tdReason, ctx_modCtx, if_pos rfl, q.life.tdReason, ← hd, ctx_modCtx, if_pos rfl]
  · rw [w.life.tdStart, ctx_modCtx, if_pos rfl, q.life.tdStart, ← hd, ctx_modCtx, if_pos rfl]
  · rw [w.life.phase, ctx_modCtx, if_pos rfl]
  · rw [w.life.gen, ctx_modCtx, if_pos rfl]
  · rw [w.life.learn, ctx_modCtx, if_pos rfl]
  · rw [w.life.fault, ctx_modCtx, if_pos rfl, q.life.fault, ← hd, ctx_modCtx, if_pos rfl]
  · intro n hn
    rw [w.life.st, w.life.fault, w.life.tdStep, ctx_modCtx, if_neg hn, q.life.st, q.life.fault, q.life.tdStep, ← hd, ctx_modCtx, if_neg hn]
    exact ⟨rfl, rfl, rfl⟩

/-- A fault never changes more than a teardown does. -/
theorem Aside.ctxFault (b : Blk) (ctx cause : Nat) (pan : Pan) (seq : Nat) (v : Bool) (addr detail : Nat) : Aside b (b.ctxFault ctx cause pan seq v addr detail) := by
  unfold Blk.ctxFault
  split
  · exact .modCtx _ _ _ rfl
  · exact .refl _
  · exact .refl _
  · exact (((Aside.modCtx b ctx _ rfl).trans (Quiet.setCause _ pan cause).aside).trans (EventsOnly.raise _ _ _ _ _).aside).trans (Blk.teardown_tornDown _ _ _).aside

theorem Blk.ctxFault_first (b : Blk) (ctx cause : Nat) (pan : Pan) (seq : Nat) (v : Bool) (addr detail : Nat)
    (h : ctxLives (b.ctx ctx).st = true) (k : (b.ctx ctx).st ≠ .teardown) :
    TornDown b (b.ctxFault ctx cause pan seq v addr detail) ctx .fault
      { valid := true, cause := cause, pan := b.full pan, seq := seq, pcValid := v, addr := addr % 2 ^ 64, detail := detail % 2 ^ 64 } := by
  unfold Blk.ctxFault
  split
  · next e => exact absurd e k
  · next e => rw [e] at h; cases h
  · next e => rw [e] at h; cases h
  · dsimp only
    generalize hf : ({ valid := true, cause := cause, pan := b.full pan, seq := seq, pcValid := v, addr := addr % 2 ^ 64, detail := detail % 2 ^ 64 } : FaultRec) = f
    generalize hm : b.modCtx ctx (fun c => { c with fault := f }) = m
    have am : Aside b m := by rw [← hm]; exact .modCtx _ _ _ rfl
    have q := (Quiet.setCause m pan cause).trans (EventsOnly.raise _ 0x5002 ctx pan (faultDetail f)).quiet
    have d := Blk.teardown_tornDown ((m.setCause pan cause).raise 0x5002 ctx pan (faultDetail f)) ctx .fault
    refine ⟨(am.trans q.aside).trans d.aside, d.st, d.step, d.why, d.start.trans (q.aside.now.trans am.now), d.phase, d.gen, d.learn, ?_, ?_⟩
    · rw [d.fault, q.life.fault, ← hm, ctx_modCtx, if_pos rfl]
    · intro n hn
      have o := d.others n hn
      rw [o.1, o.2.1, o.2.2, q.life.st, q.life.fault, q.life.tdStep, ← hm, ctx_modCtx, if_neg hn]
      exact ⟨rfl, rfl, rfl⟩

end Sys2Proof.Machine
end

