-- ==== Sys2Proof/Laws/Keeps.lean ====
section
/-! SUPPORT. What every operation over states keeps: the queue of commands, and the canonical form of memory. -/
namespace Sys2Proof.Machine
open Sys2Proof

/-- `t` has the queue of `s`, and memory in its form where `s` has it. -/
structure Keeps (s t : State) : Prop where
  pending : t.pending = s.pending
  wf : memWf s.mem = true → memWf t.mem = true

theorem Keeps.refl (s : State) : Keeps s s := ⟨rfl, id⟩
theorem Keeps.trans {s t u : State} (h : Keeps s t) (k : Keeps t u) : Keeps s u := ⟨k.pending.trans h.pending, fun w => k.wf (h.wf w)⟩
theorem Keeps.setB {s t : State} (b : Blk) (h : Keeps s t) : Keeps s (t.setB b) := ⟨h.pending, h.wf⟩
theorem Keeps.foldl {α : Type} (f : State → α → State) (hf : ∀ s a, Keeps s (f s a)) (l : List α) : ∀ s, Keeps s (l.foldl f s) := by
  induction l with
  | nil => exact Keeps.refl
  | cons a l ih => exact fun s => (hf s a).trans (ih _)

theorem memWrite_foldl_wf {α : Type} (k v : α → Nat) (l : List α) : ∀ m, memWf m = true → memWf (l.foldl (fun m c => memWrite m (k c) (v c)) m) = true := by
  induction l with
  | nil => exact fun _ h => h
  | cons a l ih => exact fun m h => ih _ (memWrite_wf m _ _ h)

theorem memCopyGran_wf (m : List Host.Cell) (ctx g h : Nat) (w : memWf m = true) : memWf (memCopyGran m ctx g h) = true := by
  unfold memCopyGran
  exact memWrite_foldl_wf (fun c : Host.Cell => memKey ctx (h * granBytes) + (c.1 - memKey ctx (g * granBytes))) (fun c => c.2.toNat) _ _ (memZero_wf _ _ _ w)

theorem State.cow_keeps (s : State) (ctx a len : Nat) : Keeps s (s.cow ctx a len) := by
  unfold State.cow
  refine Keeps.foldl _ (fun s g => ?_) _ s
  dsimp only
  split
  · exact Keeps.refl s
  · split
    · exact Keeps.refl s
    · exact ⟨rfl, fun w => memCopyGran_wf _ _ _ _ w⟩

theorem State.cowBlock_keeps (s : State) (ctx a len : Nat) : Keeps s (s.cowBlock ctx a len) := by
  unfold State.cowBlock
  dsimp only
  split
  · exact Keeps.refl s
  · exact (Keeps.refl s).setB _

theorem State.store_keeps (s : State) (ctx a : Nat) (bs : List Nat) : Keeps s (s.store ctx a bs) :=
  (s.cow_keeps ctx a bs.length).trans ⟨rfl, fun w => memWriteBytes_wf _ _ _ w⟩

theorem State.hold_keeps (s : State) (w : Writer) (ctx : Nat) (cs : List (Nat × List Nat)) (u : Nat) : Keeps s (s.hold w ctx cs u) :=
  Keeps.setB _ (Keeps.foldl _ (fun s c => s.cow_keeps ctx c.1 c.2.length) cs s)

theorem State.publish_keeps (s : State) (w : Writer) : Keeps s (s.publish w) := by
  refine ⟨rfl, fun h => ?_⟩
  unfold State.publish
  dsimp only
  generalize s.mem = m at h
  induction s.b.pend.filter (fun p => p.who = w) generalizing m with
  | nil => exact h
  | cons p l ih => exact ih _ (memWrite_foldl_wf (fun x : Nat × BitVec 8 => memKey p.ctx x.1) (fun x => x.2.toNat) _ _ h)

theorem State.zeroCtx_keeps (s : State) (ctx : Nat) : Keeps s (s.zeroCtx ctx) := ⟨rfl, fun w => memZero_wf _ _ _ w⟩
theorem State.zeroGran_keeps (s : State) (ctx g : Nat) : Keeps s (s.zeroGran ctx g) := ⟨rfl, fun w => memZero_wf _ _ _ w⟩
theorem State.clearAll_keeps (s : State) : Keeps s s.clearAll := ⟨rfl, fun _ => rfl⟩

theorem Keeps.cow {s t : State} (ctx a len : Nat) (h : Keeps s t) : Keeps s (t.cow ctx a len) := h.trans (State.cow_keeps t ctx a len)
theorem Keeps.cowBlock {s t : State} (ctx a len : Nat) (h : Keeps s t) : Keeps s (t.cowBlock ctx a len) := h.trans (State.cowBlock_keeps t ctx a len)
theorem Keeps.store {s t : State} (ctx a : Nat) (bs : List Nat) (h : Keeps s t) : Keeps s (t.store ctx a bs) := h.trans (State.store_keeps t ctx a bs)
theorem Keeps.hold {s t : State} (w : Writer) (ctx : Nat) (cs : List (Nat × List Nat)) (u : Nat) (h : Keeps s t) : Keeps s (t.hold w ctx cs u) := h.trans (State.hold_keeps t w ctx cs u)
theorem Keeps.publish {s t : State} (w : Writer) (h : Keeps s t) : Keeps s (t.publish w) := h.trans (State.publish_keeps t w)
theorem Keeps.zeroCtx {s t : State} (ctx : Nat) (h : Keeps s t) : Keeps s (t.zeroCtx ctx) := h.trans (State.zeroCtx_keeps t ctx)
theorem Keeps.clearAll {s t : State} (h : Keeps s t) : Keeps s (t.clearAll) := h.trans (State.clearAll_keeps t)

theorem State.moduleReset_keeps (s : State) (c : Nat) : Keeps s (s.moduleReset c) := by
  unfold State.moduleReset
  try dsimp only
  repeat' with_reducible first | exact Keeps.refl _ | apply Keeps.setB | apply Keeps.clearAll | split
theorem Keeps.moduleReset {s t : State} (c : Nat) (h : Keeps s t) : Keeps s (t.moduleReset c) := h.trans (State.moduleReset_keeps t c)

theorem State.powerOff_keeps (s : State) : Keeps s (s.powerOff) := by
  unfold State.powerOff
  try dsimp only
  repeat' with_reducible first | exact Keeps.refl _ | apply Keeps.setB | apply Keeps.clearAll | split
theorem Keeps.powerOff {s t : State} (h : Keeps s t) : Keeps s (t.powerOff) := h.trans (State.powerOff_keeps t)

theorem State.loadFailed_keeps (s : State) (ctx id ver tensor : Nat) (why : Nat × Nat) : Keeps s (s.loadFailed ctx id ver tensor why) := by
  unfold State.loadFailed
  try dsimp only
  repeat' with_reducible first | exact Keeps.refl _ | apply Keeps.setB | apply Keeps.zeroCtx | split
theorem Keeps.loadFailed {s t : State} (ctx id ver tensor : Nat) (why : Nat × Nat) (h : Keeps s t) : Keeps s (t.loadFailed ctx id ver tensor why) := h.trans (State.loadFailed_keeps t ctx id ver tensor why)

theorem State.allocate_keeps (s : State) (ctx : Nat) (r : CtxRec) (st : CtxState) : Keeps s (s.allocate ctx r st) := by
  unfold State.allocate
  dsimp only
  split
  · exact ⟨rfl, fun w => memZero_wf _ _ _ w⟩
  · exact (Keeps.refl s).setB _
theorem Keeps.allocate {s t : State} (ctx : Nat) (r : CtxRec) (st : CtxState) (h : Keeps s t) : Keeps s (t.allocate ctx r st) := h.trans (State.allocate_keeps t ctx r st)

theorem State.sealLoad_keeps (s : State) (ctx : Nat) (f : SealRead) : Keeps s (s.sealLoad ctx f) := by
  unfold State.sealLoad
  dsimp only
  repeat' first | exact Keeps.refl s | exact (Keeps.refl s).setB _ | exact State.loadFailed_keeps _ _ _ _ _ _ | split
  refine ⟨rfl, fun h => ?_⟩
  dsimp only
  generalize s.mem = m at h
  generalize (sealLayout _ _ _ _).1 = l
  induction l generalizing m with
  | nil => exact h
  | cons a l ih => exact ih _ (memWriteBytes_wf _ _ _ h)

theorem State.wakeCore_keeps (s : State) (core : Nat) : Keeps s (s.wakeCore core) := by
  unfold State.wakeCore
  try dsimp only
  repeat' with_reducible first | exact Keeps.refl _ | apply Keeps.setB | apply Keeps.publish | split
theorem Keeps.wakeCore {s t : State} (core : Nat) (h : Keeps s t) : Keeps s (t.wakeCore core) := h.trans (State.wakeCore_keeps t core)

theorem State.wakeAll_keeps (s : State) : Keeps s s.wakeAll := Keeps.foldl _ State.wakeCore_keeps _ s
theorem Keeps.wakeAll {s t : State} (h : Keeps s t) : Keeps s t.wakeAll := h.trans (State.wakeAll_keeps t)

theorem State.accept_keeps (s : State) (core rd pc : Nat) (p : Prog) : Keeps s (s.accept core rd pc p).1 := by
  unfold State.accept
  exact (Keeps.setB _ (s.publish_keeps _)).wakeAll
theorem Keeps.accept {s t : State} (core rd pc : Nat) (p : Prog) (h : Keeps s t) : Keeps s (t.accept core rd pc p).1 := h.trans (State.accept_keeps t core rd pc p)

theorem State.zeroise_keeps (s : State) (ctx : Nat) (bad : List (Nat × Nat)) : Keeps s (s.zeroise ctx bad) := by
  unfold State.zeroise
  try dsimp only
  repeat' with_reducible first | exact Keeps.refl _ | apply Keeps.setB | apply Keeps.zeroCtx | split
theorem Keeps.zeroise {s t : State} (ctx : Nat) (bad : List (Nat × Nat)) (h : Keeps s t) : Keeps s (t.zeroise ctx bad) := h.trans (State.zeroise_keeps t ctx bad)

theorem State.restoreBegin_keeps (s : State) (ctx : Nat) (index : Option Nat) : Keeps s (s.restoreBegin ctx index) := by
  unfold State.restoreBegin
  try dsimp only
  repeat' with_reducible first | exact Keeps.refl _ | apply Keeps.setB | apply Keeps.allocate | split
theorem Keeps.restoreBegin {s t : State} (ctx : Nat) (index : Option Nat) (h : Keeps s t) : Keeps s (t.restoreBegin ctx index) := h.trans (State.restoreBegin_keeps t ctx index)

theorem State.quarantineEnd_keeps (s : State) (ctx : Nat) (index : Option Nat) : Keeps s (s.quarantineEnd ctx index) := by
  unfold State.quarantineEnd
  try dsimp only
  repeat' with_reducible first | exact Keeps.refl _ | apply Keeps.setB | apply Keeps.restoreBegin | apply Keeps.allocate | split
theorem Keeps.quarantineEnd {s t : State} (ctx : Nat) (index : Option Nat) (h : Keeps s t) : Keeps s (t.quarantineEnd ctx index) := h.trans (State.quarantineEnd_keeps t ctx index)

theorem State.writeBlock_keeps (s : State) (ctx : Nat) : Keeps s (s.writeBlock ctx) := by
  unfold State.writeBlock
  try dsimp only
  repeat' with_reducible first | exact Keeps.refl _ | apply Keeps.setB | apply Keeps.store | split
theorem Keeps.writeBlock {s t : State} (ctx : Nat) (h : Keeps s t) : Keeps s (t.writeBlock ctx) := h.trans (State.writeBlock_keeps t ctx)

theorem State.learnStart_keeps (s : State) (ctx : Nat) (sw : Bool) : Keeps s (s.learnStart ctx sw) := by
  unfold State.learnStart
  try dsimp only
  repeat' with_reducible first | exact Keeps.refl _ | apply Keeps.setB | apply Keeps.writeBlock | split
theorem Keeps.learnStart {s t : State} (ctx : Nat) (sw : Bool) (h : Keeps s t) : Keeps s (t.learnStart ctx sw) := h.trans (State.learnStart_keeps t ctx sw)

theorem State.generateStart_keeps (s : State) (ctx : Nat) (switch : Bool) : Keeps s (s.generateStart ctx switch) := by
  unfold State.generateStart
  try dsimp only
  repeat' with_reducible first | exact Keeps.refl _ | apply Keeps.setB | apply Keeps.writeBlock | split
theorem Keeps.generateStart {s t : State} (ctx : Nat) (switch : Bool) (h : Keeps s t) : Keeps s (t.generateStart ctx switch) := h.trans (State.generateStart_keeps t ctx switch)

theorem State.swapNow_keeps (s : State) (ctx : Nat) (k : Coll) : Keeps s (s.swapNow ctx k) := by
  unfold State.swapNow
  try dsimp only
  repeat' with_reducible first | exact Keeps.refl _ | apply Keeps.setB | apply Keeps.generateStart | split
theorem Keeps.swapNow {s t : State} (ctx : Nat) (k : Coll) (h : Keeps s t) : Keeps s (t.swapNow ctx k) := h.trans (State.swapNow_keeps t ctx k)

theorem State.collPlace_keeps (s : State) (c : Coll) (a : Nat) (bs : List Nat) : Keeps s (s.collPlace c a bs) := by
  unfold State.collPlace
  try dsimp only
  repeat' with_reducible first | exact Keeps.refl _ | apply Keeps.setB | apply Keeps.store | split
theorem Keeps.collPlace {s t : State} (c : Coll) (a : Nat) (bs : List Nat) (h : Keeps s t) : Keeps s (t.collPlace c a bs) := h.trans (State.collPlace_keeps t c a bs)

theorem State.trySum_keeps (s : State) (ctx group seq : Nat) : Keeps s (s.trySum ctx group seq) := by
  unfold State.trySum
  try dsimp only
  repeat' with_reducible first | exact Keeps.refl _ | apply Keeps.setB | apply Keeps.collPlace | apply Keeps.cowBlock | split
theorem Keeps.trySum {s t : State} (ctx group seq : Nat) (h : Keeps s t) : Keeps s (t.trySum ctx group seq) := h.trans (State.trySum_keeps t ctx group seq)

theorem State.takeShard_keeps (s : State) (c : Coll) (x : Shard) : Keeps s (s.takeShard c x) := by
  unfold State.takeShard
  try dsimp only
  repeat' with_reducible first | exact Keeps.refl _ | apply Keeps.setB | apply Keeps.trySum | apply Keeps.collPlace | split
theorem Keeps.takeShard {s t : State} (c : Coll) (x : Shard) (h : Keeps s t) : Keeps s (t.takeShard c x) := h.trans (State.takeShard_keeps t c x)

theorem State.coll_keeps (s : State) (core pc a0 op n : Nat) : Keeps s (s.coll core pc a0 op n) := by
  unfold State.coll
  try dsimp only
  repeat' with_reducible first | exact Keeps.refl _ | apply Keeps.setB | apply Keeps.publish | split
theorem Keeps.coll {s t : State} (core pc a0 op n : Nat) (h : Keeps s t) : Keeps s (t.coll core pc a0 op n) := h.trans (State.coll_keeps t core pc a0 op n)

theorem State.trySend_keeps (s : State) (ctx group seq : Nat) : Keeps s (s.trySend ctx group seq) := by
  unfold State.trySend
  try dsimp only
  repeat' with_reducible first | exact Keeps.refl _ | apply Keeps.setB | split
theorem Keeps.trySend {s t : State} (ctx group seq : Nat) (h : Keeps s t) : Keeps s (t.trySend ctx group seq) := h.trans (State.trySend_keeps t ctx group seq)

theorem State.takeHeld_keeps (s : State) (c : Coll) (x : HeldShard) : Keeps s (s.takeHeld c x) := by
  unfold State.takeHeld
  try dsimp only
  repeat' with_reducible first | exact Keeps.refl _ | apply Keeps.setB | apply Keeps.takeShard | split
theorem Keeps.takeHeld {s t : State} (c : Coll) (x : HeldShard) (h : Keeps s t) : Keeps s (t.takeHeld c x) := h.trans (State.takeHeld_keeps t c x)

theorem State.drainHeld_keeps (s : State) (c : Coll) : Keeps s (s.drainHeld c) := by
  unfold State.drainHeld
  try dsimp only
  repeat' with_reducible first | exact Keeps.refl _ | apply Keeps.setB | apply Keeps.takeHeld | refine Keeps.trans ?_ (Keeps.foldl _ (fun _ _ => ?_) _ _) | split
theorem Keeps.drainHeld {s t : State} (c : Coll) (h : Keeps s t) : Keeps s (t.drainHeld c) := h.trans (State.drainHeld_keeps t c)

theorem State.startColl_keeps (s : State) (c : Coll) (e : Nat) : Keeps s (s.startColl c e) := by
  unfold State.startColl
  try dsimp only
  repeat' with_reducible first | exact Keeps.refl _ | apply Keeps.setB | apply Keeps.trySum | apply Keeps.trySend | apply Keeps.drainHeld | apply Keeps.collPlace | refine Keeps.trans ?_ (Keeps.foldl _ (fun _ _ => ?_) _ _) | split
theorem Keeps.startColl {s t : State} (c : Coll) (e : Nat) (h : Keeps s t) : Keeps s (t.startColl c e) := h.trans (State.startColl_keeps t c e)

theorem State.collectiveStart_keeps (s : State) (e : Nat) : Keeps s (s.collectiveStart e) := by
  unfold State.collectiveStart
  try dsimp only
  repeat' with_reducible first | exact Keeps.refl _ | apply Keeps.setB | apply Keeps.startColl | split
theorem Keeps.collectiveStart {s t : State} (e : Nat) (h : Keeps s t) : Keeps s (t.collectiveStart e) := h.trans (State.collectiveStart_keeps t e)

theorem State.barrierRelease_keeps (s : State) (ctx group seq : Nat) : Keeps s (s.barrierRelease ctx group seq) := by
  unfold State.barrierRelease
  try dsimp only
  repeat' with_reducible first | exact Keeps.refl _ | apply Keeps.setB | apply Keeps.swapNow | split
theorem Keeps.barrierRelease {s t : State} (ctx group seq : Nat) (h : Keeps s t) : Keeps s (t.barrierRelease ctx group seq) := h.trans (State.barrierRelease_keeps t ctx group seq)

theorem State.permuteStart_keeps (s : State) (ctx group seq : Nat) : Keeps s (s.permuteStart ctx group seq) := by
  unfold State.permuteStart
  try dsimp only
  repeat' with_reducible first | exact Keeps.refl _ | apply Keeps.setB | apply Keeps.collectiveStart | split
theorem Keeps.permuteStart {s t : State} (ctx group seq : Nat) (h : Keeps s t) : Keeps s (t.permuteStart ctx group seq) := h.trans (State.permuteStart_keeps t ctx group seq)

theorem State.complete_keeps (s : State) (ctx seq : Nat) : Keeps s (s.complete ctx seq) := by
  unfold State.complete
  try dsimp only
  repeat' with_reducible first | exact Keeps.refl _ | apply Keeps.setB | apply Keeps.wakeAll | split
theorem Keeps.complete {s t : State} (ctx seq : Nat) (h : Keeps s t) : Keeps s (t.complete ctx seq) := h.trans (State.complete_keeps t ctx seq)

theorem State.qcmd_keeps (s : State) (core rd rs1 pc n : Nat) : Keeps s (s.qcmd core rd rs1 pc n) := by
  unfold State.qcmd
  try dsimp only
  repeat' with_reducible first | exact Keeps.refl _ | apply Keeps.setB | apply Keeps.accept | split
theorem Keeps.qcmd {s t : State} (core rd rs1 pc n : Nat) (h : Keeps s t) : Keeps s (t.qcmd core rd rs1 pc n) := h.trans (State.qcmd_keeps t core rd rs1 pc n)

theorem State.finishCmd_keeps (s : State) (me : Nat) (c : TileCmd) : Keeps s (s.finishCmd me c) := by
  unfold State.finishCmd
  try dsimp only
  repeat' with_reducible first | exact Keeps.refl _ | apply Keeps.setB | apply Keeps.complete | split
theorem Keeps.finishCmd {s t : State} (me : Nat) (c : TileCmd) (h : Keeps s t) : Keeps s (t.finishCmd me c) := h.trans (State.finishCmd_keeps t me c)

theorem State.initStart_keeps (s : State) (me : Nat) : Keeps s (s.initStart me) := by
  unfold State.initStart
  try dsimp only
  repeat' with_reducible first | exact Keeps.refl _ | apply Keeps.setB | split
theorem Keeps.initStart {s t : State} (me : Nat) (h : Keeps s t) : Keeps s (t.initStart me) := h.trans (State.initStart_keeps t me)

theorem State.gaugeStart_keeps (s : State) (me : Nat) (c : TileCmd) : Keeps s (s.gaugeStart me c) := by
  unfold State.gaugeStart
  try dsimp only
  repeat' with_reducible first | exact Keeps.refl _ | apply Keeps.setB | split
theorem Keeps.gaugeStart {s t : State} (me : Nat) (c : TileCmd) (h : Keeps s t) : Keeps s (t.gaugeStart me c) := h.trans (State.gaugeStart_keeps t me c)

theorem State.mmaStart_keeps (s : State) (me : Nat) : Keeps s (s.mmaStart me) := by
  unfold State.mmaStart
  try dsimp only
  repeat' with_reducible first | exact Keeps.refl _ | apply Keeps.setB | apply Keeps.gaugeStart | split
theorem Keeps.mmaStart {s t : State} (me : Nat) (h : Keeps s t) : Keeps s (t.mmaStart me) := h.trans (State.mmaStart_keeps t me)

theorem State.closeStart_keeps (s : State) (me : Nat) : Keeps s (s.closeStart me) := by
  unfold State.closeStart
  try dsimp only
  repeat' with_reducible first | exact Keeps.refl _ | apply Keeps.setB | apply Keeps.hold | apply Keeps.cowBlock | refine Keeps.trans ?_ (Keeps.foldl _ (fun _ _ => ?_) _ _) | split
theorem Keeps.closeStart {s t : State} (me : Nat) (h : Keeps s t) : Keeps s (t.closeStart me) := h.trans (State.closeStart_keeps t me)

theorem State.closeDone_keeps (s : State) (me lane : Nat) : Keeps s (s.closeDone me lane) := by
  unfold State.closeDone
  try dsimp only
  repeat' with_reducible first | exact Keeps.refl _ | apply Keeps.setB | apply Keeps.finishCmd | apply Keeps.publish | split
theorem Keeps.closeDone {s t : State} (me lane : Nat) (h : Keeps s t) : Keeps s (t.closeDone me lane) := h.trans (State.closeDone_keeps t me lane)

theorem State.tempSample_keeps (s : State) (l : List Int) : Keeps s (s.tempSample l) := by
  unfold State.tempSample
  try dsimp only
  repeat' with_reducible first | exact Keeps.refl _ | apply Keeps.setB | apply Keeps.moduleReset | split
theorem Keeps.tempSample {s t : State} (l : List Int) (h : Keeps s t) : Keeps s (t.tempSample l) := h.trans (State.tempSample_keeps t l)

theorem State.qwait_keeps (s : State) (core rd num pc : Nat) : Keeps s (s.qwait core rd num pc) := by
  unfold State.qwait
  try dsimp only
  repeat' with_reducible first | exact Keeps.refl _ | apply Keeps.setB | apply Keeps.publish | split
theorem Keeps.qwait {s t : State} (core rd num pc : Nat) (h : Keeps s t) : Keeps s (t.qwait core rd num pc) := h.trans (State.qwait_keeps t core rd num pc)

theorem State.qtest_keeps (s : State) (core rd num pc : Nat) : Keeps s (s.qtest core rd num pc) := by
  unfold State.qtest
  try dsimp only
  repeat' with_reducible first | exact Keeps.refl _ | apply Keeps.setB | apply Keeps.publish | split
theorem Keeps.qtest {s t : State} (core rd num pc : Nat) (h : Keeps s t) : Keeps s (t.qtest core rd num pc) := h.trans (State.qtest_keeps t core rd num pc)

theorem State.rkPerform_keeps (s : State) (core ctx a : Nat) (acc : RkAccess) : Keeps s (s.rkPerform core ctx a acc) := by
  unfold State.rkPerform
  try dsimp only
  repeat' with_reducible first | exact Keeps.refl _ | apply Keeps.setB | apply Keeps.store | apply Keeps.hold | split
theorem Keeps.rkPerform {s t : State} (core ctx a : Nat) (acc : RkAccess) (h : Keeps s t) : Keeps s (t.rkPerform core ctx a acc) := h.trans (State.rkPerform_keeps t core ctx a acc)

theorem State.rkAccess_keeps (s : State) (core pc a : Nat) (acc : RkAccess) : Keeps s (s.rkAccess core pc a acc) := by
  unfold State.rkAccess
  try dsimp only
  repeat' with_reducible first | exact Keeps.refl _ | apply Keeps.setB | apply Keeps.rkPerform | apply Keeps.cowBlock | split
theorem Keeps.rkAccess {s t : State} (core pc a : Nat) (acc : RkAccess) (h : Keeps s t) : Keeps s (t.rkAccess core pc a acc) := h.trans (State.rkAccess_keeps t core pc a acc)

theorem State.call_keeps (s : State) (core pc : Nat) (ok : Bool) (f : Blk → Prog → Blk) : Keeps s (s.call core pc ok f) := by
  unfold State.call
  try dsimp only
  repeat' with_reducible first | exact Keeps.refl _ | apply Keeps.setB | split
theorem Keeps.call {s t : State} (core pc : Nat) (ok : Bool) (f : Blk → Prog → Blk) (h : Keeps s t) : Keeps s (t.call core pc ok f) := h.trans (State.call_keeps t core pc ok f)

theorem State.hubSilent_keeps (s : State) (core : Nat) : Keeps s (s.hubSilent core) := by
  unfold State.hubSilent
  try dsimp only
  repeat' with_reducible first | exact Keeps.refl _ | apply Keeps.setB | apply Keeps.moduleReset | split
theorem Keeps.hubSilent {s t : State} (core : Nat) (h : Keeps s t) : Keeps s (t.hubSilent core) := h.trans (State.hubSilent_keeps t core)

theorem State.serviceStart_keeps (s : State) (p : Pan) : Keeps s (s.serviceStart p) := by
  unfold State.serviceStart
  try dsimp only
  repeat' with_reducible first | exact Keeps.refl _ | apply Keeps.setB | apply Keeps.moduleReset | split
theorem Keeps.serviceStart {s t : State} (p : Pan) (h : Keeps s t) : Keeps s (t.serviceStart p) := h.trans (State.serviceStart_keeps t p)

theorem State.install_keeps (s : State) (ctx step : Nat) (r : ScalarRec) (all : List Copy) (chosen : List (Nat × Nat)) : Keeps s (s.install ctx step r all chosen) := by
  unfold State.install
  try dsimp only
  repeat' with_reducible first | exact Keeps.refl _ | apply Keeps.setB | apply Keeps.store | refine Keeps.trans ?_ (Keeps.foldl _ (fun _ _ => ?_) _ _) | split
theorem Keeps.install {s t : State} (ctx step : Nat) (r : ScalarRec) (all : List Copy) (chosen : List (Nat × Nat)) (h : Keeps s t) : Keeps s (t.install ctx step r all chosen) := h.trans (State.install_keeps t ctx step r all chosen)

theorem State.restoreFetch_keeps (s : State) (ctx : Nat) (copies : List Copy) : Keeps s (s.restoreFetch ctx copies) := by
  unfold State.restoreFetch
  try dsimp only
  repeat' with_reducible first | exact Keeps.refl _ | apply Keeps.setB | apply Keeps.install | split
theorem Keeps.restoreFetch {s t : State} (ctx : Nat) (copies : List Copy) (h : Keeps s t) : Keeps s (t.restoreFetch ctx copies) := h.trans (State.restoreFetch_keeps t ctx copies)

theorem State.restoreResume_keeps (s : State) (ctx : Nat) : Keeps s (s.restoreResume ctx) := by
  unfold State.restoreResume
  try dsimp only
  repeat' with_reducible first | exact Keeps.refl _ | apply Keeps.setB | apply Keeps.generateStart | apply Keeps.learnStart | split
theorem Keeps.restoreResume {s t : State} (ctx : Nat) (h : Keeps s t) : Keeps s (t.restoreResume ctx) := h.trans (State.restoreResume_keeps t ctx)

theorem State.rxWrite_keeps (s : State) (arr : Arrival) (x : RxStream) (p : Packet) : Keeps s (s.rxWrite arr x p) := by
  unfold State.rxWrite
  try dsimp only
  repeat' with_reducible first | exact Keeps.refl _ | apply Keeps.setB | apply Keeps.store | apply Keeps.cowBlock | split
theorem Keeps.rxWrite {s t : State} (arr : Arrival) (x : RxStream) (p : Packet) (h : Keeps s t) : Keeps s (t.rxWrite arr x p) := h.trans (State.rxWrite_keeps t arr x p)

theorem State.rxRead_keeps (s : State) (arr : Arrival) (x : RxStream) (p : Packet) : Keeps s (s.rxRead arr x p) := by
  unfold State.rxRead
  try dsimp only
  repeat' with_reducible first | exact Keeps.refl _ | apply Keeps.setB | split
theorem Keeps.rxRead {s t : State} (arr : Arrival) (x : RxStream) (p : Packet) (h : Keeps s t) : Keeps s (t.rxRead arr x p) := h.trans (State.rxRead_keeps t arr x p)

theorem State.placeResp_keeps (s : State) (stream : Nat) (m : OutMsg) (off : Nat) (bs : List Nat) : Keeps s (s.placeResp stream m off bs) := by
  unfold State.placeResp
  try dsimp only
  repeat' with_reducible first | exact Keeps.refl _ | apply Keeps.setB | apply Keeps.store | split
theorem Keeps.placeResp {s t : State} (stream : Nat) (m : OutMsg) (off : Nat) (bs : List Nat) (h : Keeps s t) : Keeps s (t.placeResp stream m off bs) := h.trans (State.placeResp_keeps t stream m off bs)

theorem State.rxResp_keeps (s : State) (arr : Arrival) (p : Packet) : Keeps s (s.rxResp arr p) := by
  unfold State.rxResp
  try dsimp only
  repeat' with_reducible first | exact Keeps.refl _ | apply Keeps.setB | apply Keeps.placeResp | apply Keeps.cowBlock | split
theorem Keeps.rxResp {s t : State} (arr : Arrival) (p : Packet) (h : Keeps s t) : Keeps s (t.rxResp arr p) := h.trans (State.rxResp_keeps t arr p)

theorem State.rxShard_keeps (s : State) (arr : Arrival) (p : Packet) (c : Coll) (rank : Nat) : Keeps s (s.rxShard arr p c rank) := by
  unfold State.rxShard
  try dsimp only
  repeat' with_reducible first | exact Keeps.refl _ | apply Keeps.setB | apply Keeps.takeShard | apply Keeps.cowBlock | split
theorem Keeps.rxShard {s t : State} (arr : Arrival) (p : Packet) (c : Coll) (rank : Nat) (h : Keeps s t) : Keeps s (t.rxShard arr p c rank) := h.trans (State.rxShard_keeps t arr p c rank)

theorem State.gainCredits_keeps (s : State) (c : Coll) (k : Nat) : Keeps s (s.gainCredits c k) := by
  unfold State.gainCredits
  try dsimp only
  repeat' with_reducible first | exact Keeps.refl _ | apply Keeps.setB | apply Keeps.trySend | refine Keeps.trans ?_ (Keeps.foldl _ (fun _ _ => ?_) _ _) | split
theorem Keeps.gainCredits {s t : State} (c : Coll) (k : Nat) (h : Keeps s t) : Keeps s (t.gainCredits c k) := h.trans (State.gainCredits_keeps t c k)

theorem State.rxCtlKnown_keeps (s : State) (arr : Arrival) (p : Packet) (c : Coll) (rank : Nat) : Keeps s (s.rxCtlKnown arr p c rank) := by
  unfold State.rxCtlKnown
  try dsimp only
  repeat' with_reducible first | exact Keeps.refl _ | apply Keeps.setB | apply Keeps.gainCredits | split
theorem Keeps.rxCtlKnown {s t : State} (arr : Arrival) (p : Packet) (c : Coll) (rank : Nat) (h : Keeps s t) : Keeps s (t.rxCtlKnown arr p c rank) := h.trans (State.rxCtlKnown_keeps t arr p c rank)

theorem State.rxColl_keeps (s : State) (arr : Arrival) (x : RxStream) (p : Packet) : Keeps s (s.rxColl arr x p) := by
  unfold State.rxColl
  try dsimp only
  repeat' with_reducible first | exact Keeps.refl _ | apply Keeps.setB | apply Keeps.rxCtlKnown | apply Keeps.rxShard | split
theorem Keeps.rxColl {s t : State} (arr : Arrival) (x : RxStream) (p : Packet) (h : Keeps s t) : Keeps s (t.rxColl arr x p) := h.trans (State.rxColl_keeps t arr x p)

theorem State.rxSequenced_keeps (s : State) (arr : Arrival) (x : RxStream) (p : Packet) : Keeps s (s.rxSequenced arr x p) := by
  unfold State.rxSequenced
  try dsimp only
  repeat' with_reducible first | exact Keeps.refl _ | apply Keeps.setB | apply Keeps.rxWrite | apply Keeps.rxColl | split
theorem Keeps.rxSequenced {s t : State} (arr : Arrival) (x : RxStream) (p : Packet) (h : Keeps s t) : Keeps s (t.rxSequenced arr x p) := h.trans (State.rxSequenced_keeps t arr x p)

theorem State.rxChecks_keeps (s : State) (arr : Arrival) (p : Packet) : Keeps s (s.rxChecks arr p) := by
  unfold State.rxChecks
  try dsimp only
  repeat' with_reducible first | exact Keeps.refl _ | apply Keeps.setB | apply Keeps.rxSequenced | apply Keeps.rxRead | apply Keeps.rxResp | split
theorem Keeps.rxChecks {s t : State} (arr : Arrival) (p : Packet) (h : Keeps s t) : Keeps s (t.rxChecks arr p) := h.trans (State.rxChecks_keeps t arr p)

theorem State.rx_keeps (s : State) (arr : Arrival) (p : Packet) : Keeps s (s.rx arr p) := by
  unfold State.rx
  try dsimp only
  repeat' with_reducible first | exact Keeps.refl _ | apply Keeps.setB | apply Keeps.rxChecks | split
theorem Keeps.rx {s t : State} (arr : Arrival) (p : Packet) (h : Keeps s t) : Keeps s (t.rx arr p) := h.trans (State.rx_keeps t arr p)

theorem State.reorderRelease_keeps (s : State) : Keeps s (s.reorderRelease) := by
  unfold State.reorderRelease
  try dsimp only
  repeat' with_reducible first | exact Keeps.refl _ | apply Keeps.setB | apply Keeps.rxChecks | split
theorem Keeps.reorderRelease {s t : State} (h : Keeps s t) : Keeps s (t.reorderRelease) := h.trans (State.reorderRelease_keeps t)

theorem State.skeyr_keeps (s : State) (core pc a0 op n : Nat) : Keeps s (s.skeyr core pc a0 op n) := by
  unfold State.skeyr
  try dsimp only
  repeat' with_reducible first | exact Keeps.refl _ | apply Keeps.setB | apply Keeps.publish | split
theorem Keeps.skeyr {s t : State} (core pc a0 op n : Nat) (h : Keeps s t) : Keeps s (t.skeyr core pc a0 op n) := h.trans (State.skeyr_keeps t core pc a0 op n)

theorem State.txNew_keeps (s : State) (stream psn : Nat) (m : OutMsg) (path : Nat × Nat) : Keeps s (s.txNew stream psn m path) := by
  unfold State.txNew
  try dsimp only
  repeat' with_reducible first | exact Keeps.refl _ | apply Keeps.setB | split
theorem Keeps.txNew {s t : State} (stream psn : Nat) (m : OutMsg) (path : Nat × Nat) (h : Keeps s t) : Keeps s (t.txNew stream psn m path) := h.trans (State.txNew_keeps t stream psn m path)

theorem State.skyTx_keeps (s : State) (stream : Nat) : Keeps s (s.skyTx stream) := by
  unfold State.skyTx
  try dsimp only
  repeat' with_reducible first | exact Keeps.refl _ | apply Keeps.setB | apply Keeps.txNew | split
theorem Keeps.skyTx {s t : State} (stream : Nat) (h : Keeps s t) : Keeps s (t.skyTx stream) := h.trans (State.skyTx_keeps t stream)

theorem State.qlaunch_keeps (s : State) (core rd rs1 pc n : Nat) : Keeps s (s.qlaunch core rd rs1 pc n) := by
  unfold State.qlaunch
  try dsimp only
  repeat' with_reducible first | exact Keeps.refl _ | apply Keeps.setB | apply Keeps.accept | split
theorem Keeps.qlaunch {s t : State} (core rd rs1 pc n : Nat) (h : Keeps s t) : Keeps s (t.qlaunch core rd rs1 pc n) := h.trans (State.qlaunch_keeps t core rd rs1 pc n)

theorem State.streamComplete_keeps (s : State) (ve : Nat) : Keeps s (s.streamComplete ve) := by
  unfold State.streamComplete
  try dsimp only
  repeat' with_reducible first | exact Keeps.refl _ | apply Keeps.setB | apply Keeps.complete | apply Keeps.publish | split
theorem Keeps.streamComplete {s t : State} (ve : Nat) (h : Keeps s t) : Keeps s (t.streamComplete ve) := h.trans (State.streamComplete_keeps t ve)

theorem State.veFault_keeps (s : State) (ve : Nat) (x : Stream) (cause addr : Nat) (hub : Bool) : Keeps s (s.veFault ve x cause addr hub) := by
  unfold State.veFault
  try dsimp only
  repeat' with_reducible first | exact Keeps.refl _ | apply Keeps.setB | apply Keeps.publish | split
theorem Keeps.veFault {s t : State} (ve : Nat) (x : Stream) (cause addr : Nat) (hub : Bool) (h : Keeps s t) : Keeps s (t.veFault ve x cause addr hub) := h.trans (State.veFault_keeps t ve x cause addr hub)

theorem State.tryPlace_keeps (s t : State) (x : Held) (e : s.tryPlace x = some t) : Keeps s t := by
  unfold State.tryPlace at e
  dsimp only at e
  repeat' split at e
  all_goals first | cases e | skip
  all_goals repeat' with_reducible first | exact Keeps.refl _ | apply Keeps.setB | apply Keeps.store | apply Keeps.placeResp | apply Keeps.takeShard

theorem State.holdPlace_keeps (s : State) (die : Nat) : Keeps s (s.holdPlace die) := by
  unfold State.holdPlace
  split
  · next x t e =>
    refine Keeps.setB _ ?_
    obtain ⟨y, _, hy⟩ := List.exists_of_findSome?_eq_some e
    split at hy
    · obtain ⟨u, hu, he⟩ := Option.map_eq_some_iff.1 hy
      cases he
      exact State.tryPlace_keeps s _ _ hu
    · cases hy
  · exact Keeps.refl s

/-- What a vector instruction does keeps what its own function keeps. -/
theorem State.veStep_keeps (s : State) (ve op : Nat) (f : State → Stream → VeIns → State) (hf : ∀ t x i, Keeps t (f t x i)) : Keeps s (s.veStep ve op f) := by
  unfold State.veStep
  dsimp only
  repeat' with_reducible first | exact Keeps.refl _ | apply Keeps.veFault | apply Keeps.setB | refine Keeps.trans ?_ (hf _ _ _) | split

theorem State.veReg_keeps (s : State) (ve op : Nat) (f : Blk → Stream → Ve → VeIns → Ve × NumFlags) : Keeps s (s.veReg ve op f) := by
  unfold State.veReg
  refine s.veStep_keeps ve op _ fun t x i => ?_
  dsimp only
  repeat' with_reducible first | exact Keeps.refl _ | apply Keeps.veFault | apply Keeps.setB | split

theorem State.veLd_keeps (s : State) (ve : Nat) : Keeps s (s.veLd ve) := by
  unfold State.veLd
  refine s.veStep_keeps ve oLd _ fun t x i => ?_
  dsimp only
  repeat' with_reducible first | exact Keeps.refl _ | apply Keeps.veFault | apply Keeps.setB | split

theorem State.veSt_keeps (s : State) (ve : Nat) : Keeps s (s.veSt ve) := by
  unfold State.veSt
  refine s.veStep_keeps ve oSt _ fun t x i => ?_
  dsimp only
  repeat' with_reducible first | exact Keeps.refl _ | apply Keeps.veFault | apply Keeps.setB | apply Keeps.hold | refine Keeps.trans ?_ (Keeps.foldl _ (fun _ _ => ?_) _ _) | apply Keeps.cowBlock | split

theorem State.afterReply_keeps (s : State) (r : OmpReply) : Keeps s (s.afterReply r) := by
  unfold State.afterReply
  split
  · exact s.moduleReset_keeps _
  · exact Keeps.refl s

/-- A request keeps what the action of its row keeps. -/
theorem State.omp_keeps (s : State) (m : OmpReq) (code : Nat) (act : OmpAct) (ha : ∀ t n, Keeps t (act t n).1) : Keeps s (s.omp m code act) := by
  unfold State.omp
  dsimp only
  repeat' with_reducible first | exact Keeps.refl _ | apply Keeps.setB | split
  · refine ((Keeps.refl s).setB (s.b.ompTaken m)).trans ?_
    generalize s.setB (s.b.ompTaken m) = t
    unfold State.ompBare
    dsimp only
    repeat' with_reducible first | exact Keeps.refl _ | apply Keeps.setB | exact (ha _ _) | refine Keeps.trans ?_ (State.afterReply_keeps _ _) | split
  · refine ((Keeps.refl s).setB (s.b.ompTaken m)).trans ?_
    generalize s.setB (s.b.ompTaken m) = t
    unfold State.ompSession
    dsimp only
    repeat' with_reducible first | exact Keeps.refl _ | apply Keeps.setB | split
    unfold State.ompAccept
    dsimp only
    refine Keeps.trans (Keeps.setB _ ?_) (State.afterReply_keeps _ _)
    repeat' with_reducible first | exact Keeps.refl _ | apply Keeps.setB | refine Keeps.trans ?_ (ha _ _) | split

theorem State.tick_keeps (s : State) : Keeps s s.tick := (Keeps.refl s).setB _

theorem State.rxCtl_keeps (s : State) (arr : Arrival) (p : Packet) (kind : Nat) : Keeps s (s.rxCtl arr p kind) := by
  unfold State.rxCtl
  split
  · exact s.rx_keeps arr p
  · exact Keeps.refl s

theorem onBlk_keeps (f : Blk → Nat → Blk × OmpReply) (s : State) (n : Nat) : Keeps s (onBlk f s n).1 := (Keeps.refl s).setB _

/-- A request whose action touches no memory. -/
theorem State.omp_onBlk_keeps (s : State) (m : OmpReq) (code : Nat) (f : Blk → Nat → Blk × OmpReply) : Keeps s (s.omp m code (onBlk f)) :=
  s.omp_keeps m code _ (onBlk_keeps f)

theorem State.regRow_keeps (s : State) (m : OmpReq) (is_ : RegRef → Bool) : Keeps s (s.regRow m is_) := by
  unfold State.regRow
  split
  · split
    · exact s.omp_onBlk_keeps m _ _
    · exact Keeps.refl s
  · exact Keeps.refl s

end Sys2Proof.Machine
end

