-- ==== Sys2Proof/Laws/Omp.lean ====
section
/-! SUPPORT. What an OMP request that is accepted leaves behind (R378 to R382). -/
namespace Sys2Proof.Machine
open Sys2Proof

/-- The block with a session's request noted, before its action. -/
def Blk.noted (b : Blk) (m : OmpReq) : Blk := b.modSession m.session fun y => { y with seq := m.seq, bad := 0, lastAt := b.now }

theorem formOk_flags (m : OmpReq) (h : formOk m = true) : m.flags = 0 := by
  simp only [formOk, Bool.and_eq_true, decide_eq_true_eq] at h; exact h.1.1.1.1.2

theorem formOk_req (m : OmpReq) (h : formOk m = true) : reqCodes.contains m.req = true := by
  simp only [formOk, Bool.and_eq_true, decide_eq_true_eq] at h; exact h.1.2

/-- A frame for a known neighbour leaves at once. -/
theorem Blk.emit_near (b : Blk) (port addr : Nat) (o : Out) (h : b.Near port addr) (u : (b.portOf port).st = .up) (d : b.spare.displaced = false) :
    b.emit port addr o = b.left port o := by
  obtain ⟨n, e, k⟩ := h
  have f : b.frameOut port o = b.left port o := by unfold Blk.frameOut; rw [if_neg (by simp [u, d])]; rfl
  unfold Blk.emit
  rw [e]
  rcases k with k | k | k <;> simp only [k, f]

/-- A request of a session that is ready runs its action and is answered. -/
theorem State.omp_session (s : State) (m : OmpReq) (x : Session) (act : OmpAct) (h : OmpReady s m x) :
    s.omp m m.req act =
      (let r := act (s.setB (s.b.noted m)) m.session
       let b := r.1.b.emit 0 m.src (.omp m.src m.srcPort (ompAnswer m x r.2.status (replyBody m.req r.2)))
       (r.1.setB (if r.2.close then b.closeSess m.session else b.modSession m.session fun y => { y with last := some (reqBytes m m.tag, r.2.status, replyBody m.req r.2) })).afterReply r.2) := by
  have hf := formOk_flags m h.form
  have hg : s.b.sec.sessions.get {} m.session = x := by simp [Tbl.get, h.found]
  have hr : ((roleBit m.req).any fun k => !bitAt (((s.b.cfg.operators[x.op]?).map (·.roles)).getD 0) k) = false := by
    cases e : roleBit m.req with
    | none => rfl
    | some k => simp [h.role k e]
  have ht : s.b.ompTaken m = s.b := by simp [Blk.ompTaken, h.net]
  have hb : bitAt m.flags 0 = false := by rw [hf]; rfl
  unfold State.omp
  rw [if_neg (by simp), if_neg (by simp [h.here])]
  simp only [ht]
  have hs : s.setB s.b = s := rfl
  rw [hs, hb]
  simp only [Bool.false_eq_true, if_false, h.numbered]
  unfold State.ompSession
  simp only [h.found]
  rw [if_neg (by simp [← h.tag]), if_neg (by simp [h.confirmed]), if_pos h.seq]
  unfold State.ompAccept
  simp only [hg, hr, h.form, Bool.not_true, Bool.false_eq_true, if_false]
  have ha : ∀ (b : Blk) (st : Nat) (body : List Nat), b.answer m m.session st m.seq body (some x.key) = b.emit 0 m.src (.omp m.src m.srcPort (ompAnswer m x st body)) := by
    intro b st body; unfold Blk.answer ompAnswer; simp [h.net]
  simp only [ha]
  rfl

end Sys2Proof.Machine
end

