-- ==== Sys2Proof/WellFormed.lean ====
section
/-! DEFINITION. Which commands are well-formed: every operand names something the module has, and fits its field. -/
namespace Sys2Proof
open Sys2Proof.Machine

/-- What an operand of a command is. -/
inductive OpField where
  /-- A leaf pan (R9, R10). -/
  | leaf (p : Nat)
  /-- A pan (R9 to R11). -/
  | pan (p : Nat)
  /-- The pan of a memory controller (R21). -/
  | mc (p : Nat)
  /-- A matrix engine, a vector engine, a raker core, a collective engine, a hub core (R10). -/
  | me (n : Nat)
  | ve (n : Nat)
  | core (n : Nat)
  | ce (n : Nat)
  | hubCore (n : Nat)
  /-- A link port: 0 HP, 1 to 6 PP0 to PP5. -/
  | port (n : Nat)
  | computeDie (n : Nat)
  | linkDie (n : Nat)
  /-- A context number (R252). -/
  | ctx (n : Nat)
  /-- A granule of a context (R160). -/
  | gran (n : Nat)
  | stream (n : Nat)
  /-- A module position (R8). -/
  | pos (n : Nat)
  /-- A register of a raker core (R126). -/
  | reg (n : Nat)
  /-- A harvest destination (R320): BUDDY0, BUDDY1, the host. -/
  | dest (n : Nat)
  /-- A symbol of a line (R146). -/
  | symbol (n : Nat)
  /-- The size of an access in bytes, and whether it may be floating or atomic. -/
  | access (a : RkAccess)
  | owner (o : LineOwner)
  | arb (a : ArbId)
  /-- A field of `w` bits. -/
  | num (w n : Nat)
  | bytes (l : List Nat)
  deriving DecidableEq, Repr

/-- An access of a size that the core has for it (R126, R127), to a register it has. -/
def accessOk (a : RkAccess) : Bool :=
  match a with
  | .load n _ rd => [1, 2, 4, 8].contains n && decide (rd < 32)
  | .fload n fd => [4, 8].contains n && decide (fd < 32)
  | .store n v => [1, 2, 4, 8].contains n && decide (v < 2 ^ (8 * n))
  | .lr n rd => [4, 8].contains n && decide (rd < 32)
  | .sc n v rd => [4, 8].contains n && decide (v < 2 ^ (8 * n) ∧ rd < 32)
  | .amo _ n v rd => [4, 8].contains n && decide (v < 2 ^ (8 * n) ∧ rd < 32)

/-- A line's owner that exists. -/
def ownerOk (o : LineOwner) : Bool :=
  match o with
  | .context c => decide (c < 1024)
  | .source c g => decide (c < 1024 ∧ g < 2 ^ 43)
  | .package id ver => decide (id < 2 ^ 64 ∧ ver < 2 ^ 32)
  | .free => true
  | .hubTables _ => true
  | .linkSram c => decide (c < 1024)
  | .area s c => decide (s < 2 ∧ c < 2)

/-- An arbiter that exists (R238, R302). -/
def arbOk (a : ArbId) : Bool :=
  match a with
  | .mc p => isMc p
  | .fabric d => decide (d < 16)
  | .egress p => decide (p < 7)
  | .opPlaces => true
  | .migrSlots => true
  | .inits m => decide (m < 32)
  | .streams v => decide (v < 16)
  | .eventPath => true
  | .colls d => decide (d = dLD0 ∨ d = dLD1)

/-- Does an operand name something that exists, and fit? -/
def OpField.ok (f : OpField) : Bool :=
  match f with
  | .leaf p => panShape p = some .leaf
  | .pan p => (panShape p).isSome
  | .mc p => isMc p
  | .me n => decide (n < 32)
  | .ve n => decide (n < 16)
  | .core n => decide (n < 64)
  | .ce n => decide (n < 8)
  | .hubCore n => decide (n < 2)
  | .port n => decide (n < 7)
  | .computeDie n => decide (n < 4)
  | .linkDie n => decide (n = dLD0 ∨ n = dLD1)
  | .ctx n => decide (n < 1024)
  | .gran n => decide (n < 2 ^ 43)
  | .stream n => decide (n < 2 ^ 14)
  | .pos n => decide (n < 72)
  | .reg n => decide (n < 32)
  | .dest n => decide (n < 3)
  | .symbol n => decide (n < 35)
  | .access a => accessOk a
  | .owner o => ownerOk o
  | .arb a => arbOk a
  | .num w n => decide (n < 2 ^ w)
  | .bytes l => l.all fun x => decide (x < 256)

/-- The fields of an OMP request (R378). -/
def ompFields (m : OmpReq) : List OpField :=
  [.num 8 m.ver, .num 8 m.flags, .num 16 m.req, .num 8 m.session, .num 16 m.status, .num 32 m.seq, .num 32 m.msgId, .num 16 m.body.length, .num 56 m.rsv,
   .bytes m.body, .bytes m.tag, .num 128 m.src, .num 16 m.srcPort]

/-- The fields of a Skeyr packet (R254). -/
def pktFields (p : Packet) : List OpField :=
  let h := p.h
  [.num 8 h.typ, .num 10 h.ctx, .stream h.stream, .num 16 h.winId, .num 16 h.winGen, .num 16 h.length, .num 32 h.psn, .num 32 h.msgId, .num 32 h.msgLen,
   .num 64 h.offset, .num 32 h.ackPsn, .num 32 h.sackBits, .num 32 h.ts, .num 16 h.reason, .num 16 h.info, .bytes p.data]

/-- The fields of an arrival. -/
def arrFields (a : Arrival) : List OpField :=
  [.port a.port, .num 128 a.src, .num 128 a.dst, .num 8 a.nextHdr, .num 16 a.srcPort, .num 16 a.dstPort, .num 16 a.ipLen, .num 16 a.udpLen, .num 16 a.udpSum,
   .num 4 a.ver, .num 4 (a.typ.getD 0), .num 12 a.rsv, .num 32 a.crc]

/-- The fields of a Neighbor Discovery message: IPv6 and MAC addresses (R288). -/
def ndFields (m : NdMsg) : List OpField :=
  match m with
  | .solicit target src mac => [.num 128 target, .num 128 src, .num 48 (mac.getD 0)]
  | .advert target mac _ _ => [.num 128 target, .num 48 (mac.getD 0)]

/-- The operands of a command. -/
def Instr.fields (i : Instr) : List OpField :=
  match i with
  | .tideEdge stalled overrun _ => stalled.map .leaf ++ overrun.map .leaf
  | .ptpSyncRx _ domain seq _ _ _ _ => [.num 8 domain, .num 16 seq]
  | .ptpFollowUpRx _ domain seq _ _ => [.num 8 domain, .num 16 seq]
  | .ptpDelayRespRx _ domain seq _ _ => [.num 8 domain, .num 16 seq]
  | .ptpDelayReqTx => []
  | .ptpSyncTimeout => []
  | .tideInPulse _ => []
  | .tideInWindowClose => []
  | .tideStuck => []
  | .tideStuckClear => []
  | .beacon l _ => [.bytes l]
  | .beaconLost => []
  | .sourcePromote => []
  | .slewDone => []
  | .holdoverLimit => []
  | .xingRecordDeliver leaf _ => [.leaf leaf]
  | .xingClkstop leaf _ => [.leaf leaf]
  | .qcmd core rd rs1 pc => [.core core, .reg rd, .num 64 rs1, .num 64 pc]
  | .init me => [.me me]
  | .initDone me => [.me me]
  | .mma me => [.me me]
  | .mmaDone me => [.me me]
  | .close me => [.me me]
  | .closeDone me lane => [.me me, .num 1 lane]
  | .gaugeRecompute me => [.me me]
  | .qlaunch core rd rs1 pc => [.core core, .reg rd, .num 64 rs1, .num 64 pc]
  | .streamStart ve => [.ve ve]
  | .setvl ve => [.ve ve]
  | .loop ve => [.ve ve]
  | .endS ve => [.ve ve]
  | .add ve => [.ve ve]
  | .mul ve => [.ve ve]
  | .fma ve => [.ve ve]
  | .min ve => [.ve ve]
  | .max ve => [.ve ve]
  | .cmp ve => [.ve ve]
  | .sel ve => [.ve ve]
  | .cvt ve => [.ve ve]
  | .perm ve => [.ve ve]
  | .bcast ve => [.ve ve]
  | .ld ve => [.ve ve]
  | .st ve => [.ve ve]
  | .upd ve => [.ve ve]
  | .rsum ve => [.ve ve]
  | .rsumsq ve => [.ve ve]
  | .rmax ve => [.ve ve]
  | .rmin ve => [.ve ve]
  | .streamComplete ve => [.ve ve]
  | .qwait core rd num pc => [.core core, .reg rd, .num 64 num, .num 64 pc]
  | .qtest core rd num pc => [.core core, .reg rd, .num 64 num, .num 64 pc]
  | .qfence core pc => [.core core, .num 64 pc]
  | .rkContextAccess core pc addr acc => [.core core, .num 64 pc, .num 64 addr, .access acc]
  | .fence core pc => [.core core, .num 64 pc]
  | .rkIllegalInstr core pc _ => [.core core, .num 64 pc]
  | .programStart core ctx => [.core core, .ctx ctx]
  | .exit core pc code => [.core core, .num 64 pc, .num 64 code]
  | .eventCall core pc a0 a1 => [.core core, .num 64 pc, .num 64 a0, .num 64 a1]
  | .tideCall core pc => [.core core, .num 64 pc]
  | .waitTide core pc a0 a1 => [.core core, .num 64 pc, .num 64 a0, .num 64 a1]
  | .waitTideWake core => [.core core]
  | .skeyrWrite core pc a0 => [.core core, .num 64 pc, .num 64 a0]
  | .skeyrRead core pc a0 => [.core core, .num 64 pc, .num 64 a0]
  | .skeyrFlush core pc a0 => [.core core, .num 64 pc, .num 64 a0]
  | .skeyrWait core pc a0 => [.core core, .num 64 pc, .num 64 a0]
  | .allReduce core pc a0 => [.core core, .num 64 pc, .num 64 a0]
  | .reduceScatter core pc a0 => [.core core, .num 64 pc, .num 64 a0]
  | .allGather core pc a0 => [.core core, .num 64 pc, .num 64 a0]
  | .allToAll core pc a0 => [.core core, .num 64 pc, .num 64 a0]
  | .broadcast core pc a0 => [.core core, .num 64 pc, .num 64 a0]
  | .permute core pc a0 => [.core core, .num 64 pc, .num 64 a0]
  | .barrier core pc a0 => [.core core, .num 64 pc, .num 64 a0]
  | .qsend core pc a0 => [.core core, .num 64 pc, .num 64 a0]
  | .qrecv core pc a0 => [.core core, .num 64 pc, .num 64 a0]
  | .collWait core pc a0 => [.core core, .num 64 pc, .num 64 a0]
  | .memLineRead mc _ wrong owner _ => [.mc mc, .owner owner] ++ wrong.map .symbol
  | .memLineWrite mc _ _ wrong owner _ => [.mc mc, .owner owner] ++ wrong.map .symbol
  | .rakeRead mc _ wrong owner _ => [.mc mc, .owner owner] ++ wrong.map .symbol
  | .rakePeriodEnd mc => [.mc mc]
  | .rakeStart m => ompFields m
  | .calibSlot margin _ _ => margin.map fun x => .mc x.1
  | .calibDone mc _ _ => [.mc mc]
  | .stackRetrain => []
  | .cclkRaise => []
  | .stageStart ctx gran die _ => [.ctx ctx, .gran gran, .computeDie die]
  | .stageDone ctx gran die => [.ctx ctx, .gran gran, .computeDie die]
  | .moveStart ctx gran _ => [.ctx ctx, .gran gran]
  | .moveSwitch ctx gran => [.ctx ctx, .gran gran]
  | .oldCopyFree ctx gran _ => [.ctx ctx, .gran gran]
  | .sluRequestResume _ => []
  | .sluStallTimeout _ => []
  | .offloadOut ctx tensor => [.ctx ctx, .num 16 tensor]
  | .offloadGranule ctx gran => [.ctx ctx, .gran gran]
  | .returnStart ctx => [.ctx ctx]
  | .returnDeadline ctx tensor => [.ctx ctx, .num 16 tensor]
  | .collPeerWait ctx group seq => [.ctx ctx, .num 16 group, .num 32 seq]
  | .arbiterGrant arb _ => [.arb arb]
  | .ctxCreate ctx => [.ctx ctx]
  | .sealLoadRegion ctx _ => [.ctx ctx]
  | .ctxCreated ctx => [.ctx ctx]
  | .firstLearnStart ctx => [.ctx ctx]
  | .phaseSwitchLearn ctx => [.ctx ctx]
  | .learnDone ctx => [.ctx ctx]
  | .swap ctx => [.ctx ctx]
  | .pairBuilding ctx => [.ctx ctx]
  | .pairWaitTimeout ctx => [.ctx ctx]
  | .phaseOverrun ctx => [.ctx ctx]
  | .learnLate ctx => [.ctx ctx]
  | .teardownOpsEnded ctx => [.ctx ctx]
  | .teardownZeroised ctx bad => [.ctx ctx] ++ (bad.map fun x => .mc x.1)
  | .quarantineEnd ctx _ => [.ctx ctx]
  | .write arr p => arrFields arr ++ pktFields p
  | .read arr p => arrFields arr ++ pktFields p
  | .readResp arr p => arrFields arr ++ pktFields p
  | .flush arr p => arrFields arr ++ pktFields p
  | .flushAck arr p => arrFields arr ++ pktFields p
  | .ack arr p => arrFields arr ++ pktFields p
  | .sack arr p => arrFields arr ++ pktFields p
  | .nak arr p => arrFields arr ++ pktFields p
  | .cancel arr p => arrFields arr ++ pktFields p
  | .event arr p => arrFields arr ++ pktFields p
  | .reduce arr p => arrFields arr ++ pktFields p
  | .permuteSeg arr p => arrFields arr ++ pktFields p
  | .skyPacketTx stream => [.stream stream]
  | .ackTimer stream => [.stream stream]
  | .rtoExpiry stream psn => [.stream stream, .num 32 psn]
  | .giveUp stream psn => [.stream stream, .num 32 psn]
  | .readReissue stream msgId => [.stream stream, .num 32 msgId]
  | .flushResend stream msgId => [.stream stream, .num 32 msgId]
  | .recordExpiry stream msgId => [.stream stream, .num 32 msgId]
  | .resyncWaitEnd stream => [.stream stream]
  | .holdBufferPlace die => [.linkDie die]
  | .entry arr p => arrFields arr ++ pktFields p
  | .report arr p => arrFields arr ++ pktFields p
  | .abort arr p => arrFields arr ++ pktFields p
  | .credit arr p => arrFields arr ++ pktFields p
  | .rereq arr p => arrFields arr ++ pktFields p
  | .restore arr p => arrFields arr ++ pktFields p
  | .ready arr p => arrFields arr ++ pktFields p
  | .collectiveStart engine => [.ce engine]
  | .collectiveDone ctx group seq => [.ctx ctx, .num 16 group, .num 32 seq]
  | .barrierRelease ctx group seq => [.ctx ctx, .num 16 group, .num 32 seq]
  | .permuteStart ctx group seq => [.ctx ctx, .num 16 group, .num 32 seq]
  | .epochAdvance ctx group seq => [.ctx ctx, .num 16 group, .num 32 seq]
  | .shardWaitTimeout ctx group seq => [.ctx ctx, .num 16 group, .num 32 seq]
  | .shardAbortTimeout ctx group seq => [.ctx ctx, .num 16 group, .num 32 seq]
  | .shardRelease ctx group seq => [.ctx ctx, .num 16 group, .num 32 seq]
  | .captureTimer ctx => [.ctx ctx]
  | .harvestComplete ctx => [.ctx ctx]
  | .destFailTimeout ctx dest => [.ctx ctx, .dest dest]
  | .restoreFetchDone ctx _ => [.ctx ctx]
  | .restoreResume ctx => [.ctx ctx]
  | .positionSilent pos => [.pos pos]
  | .spareClaim pos => [.pos pos]
  | .spareTakeover => []
  | .heartbeat l => [.bytes l]
  | .claim l => [.bytes l]
  | .takeover l => [.bytes l]
  | .capacity l => [.bytes l]
  | .heartbeatSlot => []
  | .mgtFrameTx => []
  | .mgtCollision _ slots => [.num 10 slots]
  | .mgtBackoffExpiry => []
  | .txUnderrun => []
  | .frameDeadline => []
  | .busJammed => []
  | .ompFragment l => [.bytes l]
  | .fragmentTimeout src msgId => [.num 48 src, .num 32 msgId]
  | .portAnDone port abil => [.port port, .num 4 abil]
  | .portTrainingDone port => [.port port]
  | .mkaLive port => [.port port]
  | .sakRekey port => [.port port]
  | .portLinkDown port => [.port port]
  | .ucwLimit port _ _ => [.port port]
  | .portRetrainTimeout port _ => [.port port]
  | .lnkRetrain m => ompFields m
  | .neighborSolicitation _ port m => .port port :: ndFields m
  | .pauseFrame port => [.port port]
  | .otherFrameRx arr => arrFields arr
  | .unitReset pan _ => [.pan pan]
  | .unitResetDone pan => [.pan pan]
  | .unitResetTimeout pan => [.pan pan]
  | .portReset port _ => [.port port]
  | .dieReset pan _ => [.pan pan]
  | .dieResetDone pan failed => [.pan pan] ++ failed.map .leaf
  | .dieResetTimeout pan => [.pan pan]
  | .moduleReset cause => [.num 4 cause]
  | .rstNAssert => []
  | .rstNRelease => []
  | .hubCoreSilent core => [.hubCore core]
  | .hubCoreStandby core => [.hubCore core]
  | .hubReloadTimeout core => [.hubCore core]
  | .fwHandoverReady => []
  | .handoverDeadline => []
  | .imageSwitch => []
  | .serviceReset m => ompFields m
  | .serviceResetDue => []
  | .retireRequest m => ompFields m
  | .retire => []
  | .bootRom pos untrained margin => [.num 6 pos] ++ untrained.map .mc ++ (margin.map fun x => .mc x.1)
  | .bootReady salt => [.num 256 salt]
  | .bootLate => []
  | .identity m => ompFields m
  | .attest m salt => [.num 256 salt] ++ ompFields m
  | .panRead m => ompFields m
  | .openS m d => [.num 256 d.nonce, .num 256 d.key, .num 256 d.seed, .num 256 d.salt] ++ ompFields m
  | .confirm m => ompFields m
  | .closeSession m => ompFields m
  | .sessionTimeout session => [.num 8 session]
  | .regRead m => ompFields m
  | .regWrite m => ompFields m
  | .capWrite m => ompFields m
  | .tstEnable m => ompFields m
  | .reorderRelease => []
  | .slotWrite m => ompFields m
  | .slotCheck m pos => [.num 6 pos] ++ ompFields m
  | .switch m pos => [.num 6 pos] ++ ompFields m
  | .seal m => ompFields m
  | .sealCommit _ => []
  | .erase m => ompFields m
  | .unlock m => ompFields m
  | .tempSample _ => []
  | .voltSample _ => []
  | .powerOver => []
  | .glitchDetect _ => []
  | .pwrEnRise => []
  | .powerGood => []
  | .pwrEnFall => []
  | .p54vLoss => []
  | .aux3v3Loss => []
  | .stackRetrainDone => []
  | .portResetTimeout port => [.port port]
  | .ptpAnnounceRx _ domain key source seq => [.num 8 domain, .num 128 key, .num 64 source, .num 16 seq]
  | .ecall core pc a7 => [.core core, .num 64 pc, .num 64 a7]
  | .aux3v3Apply => []
  | .suppliesStable => []

/-- Every operand names something the module has, and fits. -/
def Instr.wellFormed (i : Instr) : Bool := i.fields.all OpField.ok

end Sys2Proof
end

