-- ==== Sys2Proof/Laws/PerInstr.lean ====
section
/-! SUPPORT. One law for each command: the units that a well-formed command names are leaf pans of the module. -/
namespace Sys2Proof.Laws.Unit
open Sys2Proof Sys2Proof.Machine

/-- The leaf pan of the unit that an operand names (R10). -/
def unitPan (f : OpField) : Option Pan :=
  match f with
  | .leaf p => some p
  | .mc p => some p
  | .me n => some (mePan n)
  | .ve n => some (vePan n)
  | .core n => some (rkPan n)
  | .ce n => some (cePan n)
  | .hubCore n => some (hcPan n)
  | .port n => some (portPan n)
  | _ => none

/-- Every unit that a well-formed command names is a leaf pan. -/
def Statement (i : Instr) : Prop := i.wellFormed = true → ∀ f ∈ i.fields, ∀ p, unitPan f = some p → panShape p = some .leaf

theorem mePan_leaf : ∀ n, n < 32 → panShape (mePan n) = some .leaf := by decide
theorem vePan_leaf : ∀ n, n < 16 → panShape (vePan n) = some .leaf := by decide
theorem rkPan_leaf : ∀ n, n < 64 → panShape (rkPan n) = some .leaf := by decide
theorem cePan_leaf : ∀ n, n < 8 → panShape (cePan n) = some .leaf := by decide
theorem hcPan_leaf : ∀ n, n < 2 → panShape (hcPan n) = some .leaf := by decide
theorem portPan_leaf : ∀ n, n < 7 → panShape (portPan n) = some .leaf := by decide
theorem isMc_leaf (p : Pan) (h : isMc p = true) : panShape p = some .leaf := by
  simp only [isMc, Bool.and_eq_true, decide_eq_true_eq] at h
  exact h.2

/-- An operand that passes its check names a leaf pan, where it names a unit. -/
theorem unitPan_leaf (f : OpField) (p : Pan) (h : f.ok = true) (k : unitPan f = some p) : panShape p = some .leaf := by
  cases f <;> simp [unitPan] at k <;> subst k <;> simp [OpField.ok] at h
  · exact h
  · exact isMc_leaf _ h
  · exact mePan_leaf _ h
  · exact vePan_leaf _ h
  · exact rkPan_leaf _ h
  · exact cePan_leaf _ h
  · exact hcPan_leaf _ (by omega)
  · exact portPan_leaf _ h

theorem of_wellFormed (i : Instr) : Statement i := fun h f hf p k => unitPan_leaf f p (List.all_eq_true.mp h f hf) k

theorem tideEdge x0 x1 x2 : Statement (.tideEdge x0 x1 x2) := of_wellFormed _
theorem ptpSyncRx x0 x1 x2 x3 x4 x5 x6 : Statement (.ptpSyncRx x0 x1 x2 x3 x4 x5 x6) := of_wellFormed _
theorem ptpFollowUpRx x0 x1 x2 x3 x4 : Statement (.ptpFollowUpRx x0 x1 x2 x3 x4) := of_wellFormed _
theorem ptpDelayRespRx x0 x1 x2 x3 x4 : Statement (.ptpDelayRespRx x0 x1 x2 x3 x4) := of_wellFormed _
theorem ptpDelayReqTx : Statement (.ptpDelayReqTx) := of_wellFormed _
theorem ptpSyncTimeout : Statement (.ptpSyncTimeout) := of_wellFormed _
theorem tideInPulse x0 : Statement (.tideInPulse x0) := of_wellFormed _
theorem tideInWindowClose : Statement (.tideInWindowClose) := of_wellFormed _
theorem tideStuck : Statement (.tideStuck) := of_wellFormed _
theorem tideStuckClear : Statement (.tideStuckClear) := of_wellFormed _
theorem beacon x0 x1 : Statement (.beacon x0 x1) := of_wellFormed _
theorem beaconLost : Statement (.beaconLost) := of_wellFormed _
theorem sourcePromote : Statement (.sourcePromote) := of_wellFormed _
theorem slewDone : Statement (.slewDone) := of_wellFormed _
theorem holdoverLimit : Statement (.holdoverLimit) := of_wellFormed _
theorem xingRecordDeliver x0 x1 : Statement (.xingRecordDeliver x0 x1) := of_wellFormed _
theorem xingClkstop x0 x1 : Statement (.xingClkstop x0 x1) := of_wellFormed _
theorem qcmd x0 x1 x2 x3 : Statement (.qcmd x0 x1 x2 x3) := of_wellFormed _
theorem init x0 : Statement (.init x0) := of_wellFormed _
theorem initDone x0 : Statement (.initDone x0) := of_wellFormed _
theorem mma x0 : Statement (.mma x0) := of_wellFormed _
theorem mmaDone x0 : Statement (.mmaDone x0) := of_wellFormed _
theorem close x0 : Statement (.close x0) := of_wellFormed _
theorem closeDone x0 x1 : Statement (.closeDone x0 x1) := of_wellFormed _
theorem gaugeRecompute x0 : Statement (.gaugeRecompute x0) := of_wellFormed _
theorem qlaunch x0 x1 x2 x3 : Statement (.qlaunch x0 x1 x2 x3) := of_wellFormed _
theorem streamStart x0 : Statement (.streamStart x0) := of_wellFormed _
theorem setvl x0 : Statement (.setvl x0) := of_wellFormed _
theorem loop x0 : Statement (.loop x0) := of_wellFormed _
theorem endS x0 : Statement (.endS x0) := of_wellFormed _
theorem add x0 : Statement (.add x0) := of_wellFormed _
theorem mul x0 : Statement (.mul x0) := of_wellFormed _
theorem fma x0 : Statement (.fma x0) := of_wellFormed _
theorem min x0 : Statement (.min x0) := of_wellFormed _
theorem max x0 : Statement (.max x0) := of_wellFormed _
theorem cmp x0 : Statement (.cmp x0) := of_wellFormed _
theorem sel x0 : Statement (.sel x0) := of_wellFormed _
theorem cvt x0 : Statement (.cvt x0) := of_wellFormed _
theorem perm x0 : Statement (.perm x0) := of_wellFormed _
theorem bcast x0 : Statement (.bcast x0) := of_wellFormed _
theorem ld x0 : Statement (.ld x0) := of_wellFormed _
theorem st x0 : Statement (.st x0) := of_wellFormed _
theorem upd x0 : Statement (.upd x0) := of_wellFormed _
theorem rsum x0 : Statement (.rsum x0) := of_wellFormed _
theorem rsumsq x0 : Statement (.rsumsq x0) := of_wellFormed _
theorem rmax x0 : Statement (.rmax x0) := of_wellFormed _
theorem rmin x0 : Statement (.rmin x0) := of_wellFormed _
theorem streamComplete x0 : Statement (.streamComplete x0) := of_wellFormed _
theorem qwait x0 x1 x2 x3 : Statement (.qwait x0 x1 x2 x3) := of_wellFormed _
theorem qtest x0 x1 x2 x3 : Statement (.qtest x0 x1 x2 x3) := of_wellFormed _
theorem qfence x0 x1 : Statement (.qfence x0 x1) := of_wellFormed _
theorem rkContextAccess x0 x1 x2 x3 : Statement (.rkContextAccess x0 x1 x2 x3) := of_wellFormed _
theorem fence x0 x1 : Statement (.fence x0 x1) := of_wellFormed _
theorem rkIllegalInstr x0 x1 x2 : Statement (.rkIllegalInstr x0 x1 x2) := of_wellFormed _
theorem programStart x0 x1 : Statement (.programStart x0 x1) := of_wellFormed _
theorem exit x0 x1 x2 : Statement (.exit x0 x1 x2) := of_wellFormed _
theorem eventCall x0 x1 x2 x3 : Statement (.eventCall x0 x1 x2 x3) := of_wellFormed _
theorem tideCall x0 x1 : Statement (.tideCall x0 x1) := of_wellFormed _
theorem waitTide x0 x1 x2 x3 : Statement (.waitTide x0 x1 x2 x3) := of_wellFormed _
theorem waitTideWake x0 : Statement (.waitTideWake x0) := of_wellFormed _
theorem skeyrWrite x0 x1 x2 : Statement (.skeyrWrite x0 x1 x2) := of_wellFormed _
theorem skeyrRead x0 x1 x2 : Statement (.skeyrRead x0 x1 x2) := of_wellFormed _
theorem skeyrFlush x0 x1 x2 : Statement (.skeyrFlush x0 x1 x2) := of_wellFormed _
theorem skeyrWait x0 x1 x2 : Statement (.skeyrWait x0 x1 x2) := of_wellFormed _
theorem allReduce x0 x1 x2 : Statement (.allReduce x0 x1 x2) := of_wellFormed _
theorem reduceScatter x0 x1 x2 : Statement (.reduceScatter x0 x1 x2) := of_wellFormed _
theorem allGather x0 x1 x2 : Statement (.allGather x0 x1 x2) := of_wellFormed _
theorem allToAll x0 x1 x2 : Statement (.allToAll x0 x1 x2) := of_wellFormed _
theorem broadcast x0 x1 x2 : Statement (.broadcast x0 x1 x2) := of_wellFormed _
theorem permute x0 x1 x2 : Statement (.permute x0 x1 x2) := of_wellFormed _
theorem barrier x0 x1 x2 : Statement (.barrier x0 x1 x2) := of_wellFormed _
theorem qsend x0 x1 x2 : Statement (.qsend x0 x1 x2) := of_wellFormed _
theorem qrecv x0 x1 x2 : Statement (.qrecv x0 x1 x2) := of_wellFormed _
theorem collWait x0 x1 x2 : Statement (.collWait x0 x1 x2) := of_wellFormed _
theorem memLineRead x0 x1 x2 x3 x4 : Statement (.memLineRead x0 x1 x2 x3 x4) := of_wellFormed _
theorem memLineWrite x0 x1 x2 x3 x4 x5 : Statement (.memLineWrite x0 x1 x2 x3 x4 x5) := of_wellFormed _
theorem rakeRead x0 x1 x2 x3 x4 : Statement (.rakeRead x0 x1 x2 x3 x4) := of_wellFormed _
theorem rakePeriodEnd x0 : Statement (.rakePeriodEnd x0) := of_wellFormed _
theorem rakeStart x0 : Statement (.rakeStart x0) := of_wellFormed _
theorem calibSlot x0 x1 x2 : Statement (.calibSlot x0 x1 x2) := of_wellFormed _
theorem calibDone x0 x1 x2 : Statement (.calibDone x0 x1 x2) := of_wellFormed _
theorem stackRetrain : Statement (.stackRetrain) := of_wellFormed _
theorem cclkRaise : Statement (.cclkRaise) := of_wellFormed _
theorem stageStart x0 x1 x2 x3 : Statement (.stageStart x0 x1 x2 x3) := of_wellFormed _
theorem stageDone x0 x1 x2 : Statement (.stageDone x0 x1 x2) := of_wellFormed _
theorem moveStart x0 x1 x2 : Statement (.moveStart x0 x1 x2) := of_wellFormed _
theorem moveSwitch x0 x1 : Statement (.moveSwitch x0 x1) := of_wellFormed _
theorem oldCopyFree x0 x1 x2 : Statement (.oldCopyFree x0 x1 x2) := of_wellFormed _
theorem sluRequestResume x0 : Statement (.sluRequestResume x0) := of_wellFormed _
theorem sluStallTimeout x0 : Statement (.sluStallTimeout x0) := of_wellFormed _
theorem offloadOut x0 x1 : Statement (.offloadOut x0 x1) := of_wellFormed _
theorem offloadGranule x0 x1 : Statement (.offloadGranule x0 x1) := of_wellFormed _
theorem returnStart x0 : Statement (.returnStart x0) := of_wellFormed _
theorem returnDeadline x0 x1 : Statement (.returnDeadline x0 x1) := of_wellFormed _
theorem collPeerWait x0 x1 x2 : Statement (.collPeerWait x0 x1 x2) := of_wellFormed _
theorem arbiterGrant x0 x1 : Statement (.arbiterGrant x0 x1) := of_wellFormed _
theorem ctxCreate x0 : Statement (.ctxCreate x0) := of_wellFormed _
theorem sealLoadRegion x0 x1 : Statement (.sealLoadRegion x0 x1) := of_wellFormed _
theorem ctxCreated x0 : Statement (.ctxCreated x0) := of_wellFormed _
theorem firstLearnStart x0 : Statement (.firstLearnStart x0) := of_wellFormed _
theorem phaseSwitchLearn x0 : Statement (.phaseSwitchLearn x0) := of_wellFormed _
theorem learnDone x0 : Statement (.learnDone x0) := of_wellFormed _
theorem swap x0 : Statement (.swap x0) := of_wellFormed _
theorem pairBuilding x0 : Statement (.pairBuilding x0) := of_wellFormed _
theorem pairWaitTimeout x0 : Statement (.pairWaitTimeout x0) := of_wellFormed _
theorem phaseOverrun x0 : Statement (.phaseOverrun x0) := of_wellFormed _
theorem learnLate x0 : Statement (.learnLate x0) := of_wellFormed _
theorem teardownOpsEnded x0 : Statement (.teardownOpsEnded x0) := of_wellFormed _
theorem teardownZeroised x0 x1 : Statement (.teardownZeroised x0 x1) := of_wellFormed _
theorem quarantineEnd x0 x1 : Statement (.quarantineEnd x0 x1) := of_wellFormed _
theorem write x0 x1 : Statement (.write x0 x1) := of_wellFormed _
theorem read x0 x1 : Statement (.read x0 x1) := of_wellFormed _
theorem readResp x0 x1 : Statement (.readResp x0 x1) := of_wellFormed _
theorem flush x0 x1 : Statement (.flush x0 x1) := of_wellFormed _
theorem flushAck x0 x1 : Statement (.flushAck x0 x1) := of_wellFormed _
theorem ack x0 x1 : Statement (.ack x0 x1) := of_wellFormed _
theorem sack x0 x1 : Statement (.sack x0 x1) := of_wellFormed _
theorem nak x0 x1 : Statement (.nak x0 x1) := of_wellFormed _
theorem cancel x0 x1 : Statement (.cancel x0 x1) := of_wellFormed _
theorem event x0 x1 : Statement (.event x0 x1) := of_wellFormed _
theorem reduce x0 x1 : Statement (.reduce x0 x1) := of_wellFormed _
theorem permuteSeg x0 x1 : Statement (.permuteSeg x0 x1) := of_wellFormed _
theorem skyPacketTx x0 : Statement (.skyPacketTx x0) := of_wellFormed _
theorem ackTimer x0 : Statement (.ackTimer x0) := of_wellFormed _
theorem rtoExpiry x0 x1 : Statement (.rtoExpiry x0 x1) := of_wellFormed _
theorem giveUp x0 x1 : Statement (.giveUp x0 x1) := of_wellFormed _
theorem readReissue x0 x1 : Statement (.readReissue x0 x1) := of_wellFormed _
theorem flushResend x0 x1 : Statement (.flushResend x0 x1) := of_wellFormed _
theorem recordExpiry x0 x1 : Statement (.recordExpiry x0 x1) := of_wellFormed _
theorem resyncWaitEnd x0 : Statement (.resyncWaitEnd x0) := of_wellFormed _
theorem holdBufferPlace x0 : Statement (.holdBufferPlace x0) := of_wellFormed _
theorem entry x0 x1 : Statement (.entry x0 x1) := of_wellFormed _
theorem report x0 x1 : Statement (.report x0 x1) := of_wellFormed _
theorem abort x0 x1 : Statement (.abort x0 x1) := of_wellFormed _
theorem credit x0 x1 : Statement (.credit x0 x1) := of_wellFormed _
theorem rereq x0 x1 : Statement (.rereq x0 x1) := of_wellFormed _
theorem restore x0 x1 : Statement (.restore x0 x1) := of_wellFormed _
theorem ready x0 x1 : Statement (.ready x0 x1) := of_wellFormed _
theorem collectiveStart x0 : Statement (.collectiveStart x0) := of_wellFormed _
theorem collectiveDone x0 x1 x2 : Statement (.collectiveDone x0 x1 x2) := of_wellFormed _
theorem barrierRelease x0 x1 x2 : Statement (.barrierRelease x0 x1 x2) := of_wellFormed _
theorem permuteStart x0 x1 x2 : Statement (.permuteStart x0 x1 x2) := of_wellFormed _
theorem epochAdvance x0 x1 x2 : Statement (.epochAdvance x0 x1 x2) := of_wellFormed _
theorem shardWaitTimeout x0 x1 x2 : Statement (.shardWaitTimeout x0 x1 x2) := of_wellFormed _
theorem shardAbortTimeout x0 x1 x2 : Statement (.shardAbortTimeout x0 x1 x2) := of_wellFormed _
theorem shardRelease x0 x1 x2 : Statement (.shardRelease x0 x1 x2) := of_wellFormed _
theorem captureTimer x0 : Statement (.captureTimer x0) := of_wellFormed _
theorem harvestComplete x0 : Statement (.harvestComplete x0) := of_wellFormed _
theorem destFailTimeout x0 x1 : Statement (.destFailTimeout x0 x1) := of_wellFormed _
theorem restoreFetchDone x0 x1 : Statement (.restoreFetchDone x0 x1) := of_wellFormed _
theorem restoreResume x0 : Statement (.restoreResume x0) := of_wellFormed _
theorem positionSilent x0 : Statement (.positionSilent x0) := of_wellFormed _
theorem spareClaim x0 : Statement (.spareClaim x0) := of_wellFormed _
theorem spareTakeover : Statement (.spareTakeover) := of_wellFormed _
theorem heartbeat x0 : Statement (.heartbeat x0) := of_wellFormed _
theorem claim x0 : Statement (.claim x0) := of_wellFormed _
theorem takeover x0 : Statement (.takeover x0) := of_wellFormed _
theorem capacity x0 : Statement (.capacity x0) := of_wellFormed _
theorem heartbeatSlot : Statement (.heartbeatSlot) := of_wellFormed _
theorem mgtFrameTx : Statement (.mgtFrameTx) := of_wellFormed _
theorem mgtCollision x0 x1 : Statement (.mgtCollision x0 x1) := of_wellFormed _
theorem mgtBackoffExpiry : Statement (.mgtBackoffExpiry) := of_wellFormed _
theorem txUnderrun : Statement (.txUnderrun) := of_wellFormed _
theorem frameDeadline : Statement (.frameDeadline) := of_wellFormed _
theorem busJammed : Statement (.busJammed) := of_wellFormed _
theorem ompFragment x0 : Statement (.ompFragment x0) := of_wellFormed _
theorem fragmentTimeout x0 x1 : Statement (.fragmentTimeout x0 x1) := of_wellFormed _
theorem portAnDone x0 x1 : Statement (.portAnDone x0 x1) := of_wellFormed _
theorem portTrainingDone x0 : Statement (.portTrainingDone x0) := of_wellFormed _
theorem mkaLive x0 : Statement (.mkaLive x0) := of_wellFormed _
theorem sakRekey x0 : Statement (.sakRekey x0) := of_wellFormed _
theorem portLinkDown x0 : Statement (.portLinkDown x0) := of_wellFormed _
theorem ucwLimit x0 x1 x2 : Statement (.ucwLimit x0 x1 x2) := of_wellFormed _
theorem portRetrainTimeout x0 x1 : Statement (.portRetrainTimeout x0 x1) := of_wellFormed _
theorem lnkRetrain x0 : Statement (.lnkRetrain x0) := of_wellFormed _
theorem neighborSolicitation x0 x1 x2 : Statement (.neighborSolicitation x0 x1 x2) := of_wellFormed _
theorem pauseFrame x0 : Statement (.pauseFrame x0) := of_wellFormed _
theorem otherFrameRx x0 : Statement (.otherFrameRx x0) := of_wellFormed _
theorem unitReset x0 x1 : Statement (.unitReset x0 x1) := of_wellFormed _
theorem unitResetDone x0 : Statement (.unitResetDone x0) := of_wellFormed _
theorem unitResetTimeout x0 : Statement (.unitResetTimeout x0) := of_wellFormed _
theorem portReset x0 x1 : Statement (.portReset x0 x1) := of_wellFormed _
theorem dieReset x0 x1 : Statement (.dieReset x0 x1) := of_wellFormed _
theorem dieResetDone x0 x1 : Statement (.dieResetDone x0 x1) := of_wellFormed _
theorem dieResetTimeout x0 : Statement (.dieResetTimeout x0) := of_wellFormed _
theorem moduleReset x0 : Statement (.moduleReset x0) := of_wellFormed _
theorem rstNAssert : Statement (.rstNAssert) := of_wellFormed _
theorem rstNRelease : Statement (.rstNRelease) := of_wellFormed _
theorem hubCoreSilent x0 : Statement (.hubCoreSilent x0) := of_wellFormed _
theorem hubCoreStandby x0 : Statement (.hubCoreStandby x0) := of_wellFormed _
theorem hubReloadTimeout x0 : Statement (.hubReloadTimeout x0) := of_wellFormed _
theorem fwHandoverReady : Statement (.fwHandoverReady) := of_wellFormed _
theorem handoverDeadline : Statement (.handoverDeadline) := of_wellFormed _
theorem imageSwitch : Statement (.imageSwitch) := of_wellFormed _
theorem serviceReset x0 : Statement (.serviceReset x0) := of_wellFormed _
theorem serviceResetDue : Statement (.serviceResetDue) := of_wellFormed _
theorem retireRequest x0 : Statement (.retireRequest x0) := of_wellFormed _
theorem retire : Statement (.retire) := of_wellFormed _
theorem bootRom x0 x1 x2 : Statement (.bootRom x0 x1 x2) := of_wellFormed _
theorem bootReady x0 : Statement (.bootReady x0) := of_wellFormed _
theorem bootLate : Statement (.bootLate) := of_wellFormed _
theorem identity x0 : Statement (.identity x0) := of_wellFormed _
theorem attest x0 x1 : Statement (.attest x0 x1) := of_wellFormed _
theorem panRead x0 : Statement (.panRead x0) := of_wellFormed _
theorem openS x0 x1 : Statement (.openS x0 x1) := of_wellFormed _
theorem confirm x0 : Statement (.confirm x0) := of_wellFormed _
theorem closeSession x0 : Statement (.closeSession x0) := of_wellFormed _
theorem sessionTimeout x0 : Statement (.sessionTimeout x0) := of_wellFormed _
theorem regRead x0 : Statement (.regRead x0) := of_wellFormed _
theorem regWrite x0 : Statement (.regWrite x0) := of_wellFormed _
theorem capWrite x0 : Statement (.capWrite x0) := of_wellFormed _
theorem tstEnable x0 : Statement (.tstEnable x0) := of_wellFormed _
theorem reorderRelease : Statement (.reorderRelease) := of_wellFormed _
theorem slotWrite x0 : Statement (.slotWrite x0) := of_wellFormed _
theorem slotCheck x0 x1 : Statement (.slotCheck x0 x1) := of_wellFormed _
theorem switch x0 x1 : Statement (.switch x0 x1) := of_wellFormed _
theorem sealCommit x0 : Statement (.sealCommit x0) := of_wellFormed _
theorem erase x0 : Statement (.erase x0) := of_wellFormed _
theorem unlock x0 : Statement (.unlock x0) := of_wellFormed _
theorem tempSample x0 : Statement (.tempSample x0) := of_wellFormed _
theorem voltSample x0 : Statement (.voltSample x0) := of_wellFormed _
theorem powerOver : Statement (.powerOver) := of_wellFormed _
theorem glitchDetect x0 : Statement (.glitchDetect x0) := of_wellFormed _
theorem pwrEnRise : Statement (.pwrEnRise) := of_wellFormed _
theorem powerGood : Statement (.powerGood) := of_wellFormed _
theorem pwrEnFall : Statement (.pwrEnFall) := of_wellFormed _
theorem p54vLoss : Statement (.p54vLoss) := of_wellFormed _
theorem aux3v3Loss : Statement (.aux3v3Loss) := of_wellFormed _
theorem stackRetrainDone : Statement (.stackRetrainDone) := of_wellFormed _
theorem portResetTimeout x0 : Statement (.portResetTimeout x0) := of_wellFormed _
theorem ptpAnnounceRx x0 x1 x2 x3 x4 : Statement (.ptpAnnounceRx x0 x1 x2 x3 x4) := of_wellFormed _
theorem ecall x0 x1 x2 : Statement (.ecall x0 x1 x2) := of_wellFormed _
theorem aux3v3Apply : Statement (.aux3v3Apply) := of_wellFormed _
theorem suppliesStable : Statement (.suppliesStable) := of_wellFormed _

end Sys2Proof.Laws.Unit

/-- The law of SEAL, outside the namespace: its short name is a word of Lean's. -/
theorem Sys2Proof.Laws.Unit.seal (m : Sys2Proof.Machine.OmpReq) : Sys2Proof.Laws.Unit.Statement (Sys2Proof.Instr.seal m) := Sys2Proof.Laws.Unit.of_wellFormed _
end

