-- ==== Sys2Proof/Tests/Slice0.lean ====
section
/-! SUPPORT. The model's own tests: for every statement a state and operands that meet its hypotheses, clause by clause; what is well-formed; the spec's worked examples. -/
namespace Sys2Proof.Tests
open Sys2Proof Sys2Proof.Machine
set_option Elab.async false

/-! ### States to test on -/

/-- A running module. -/
def wOn : State := { b := { now := 5000000, pwr := {}, sec := { booting := true, configured := true, ready := true, sinkUp := true, tierKeys := true }, tide := { st := .locked, num := 5, edgeAt := 5000000, numSet := true } } }
def wB (f : Blk → Blk) : State := wOn.setB (f wOn.b)
def wT (f : TideUnit → TideUnit) : State := wB fun b => { b with tide := f b.tide }
/-- HP is up, its clock unit at work. -/
def wHp (f : TideUnit → TideUnit) : State := wB fun b => { b with tide := f b.tide, ports := [(0, { st := .up })] }
/-- Facts decided together, before what is left of a conjunction. -/
theorem wJ2 {a b r : Prop} (h : a ∧ b) (k : r) : a ∧ b ∧ r :=
  ⟨h.1, h.2, k⟩
theorem wJ3 {a b c r : Prop} (h : a ∧ b ∧ c) (k : r) : a ∧ b ∧ c ∧ r :=
  ⟨h.1, h.2.1, h.2.2, k⟩
theorem wJ4 {a b c d r : Prop} (h : a ∧ b ∧ c ∧ d) (k : r) : a ∧ b ∧ c ∧ d ∧ r :=
  ⟨h.1, h.2.1, h.2.2.1, h.2.2.2, k⟩
theorem wJ5 {a b c d e r : Prop} (h : a ∧ b ∧ c ∧ d ∧ e) (k : r) : a ∧ b ∧ c ∧ d ∧ e ∧ r :=
  ⟨h.1, h.2.1, h.2.2.1, h.2.2.2.1, h.2.2.2.2, k⟩
/-- No port wants a retrain. -/
theorem wNoWant {s : State} (h : (s.b.ports.all fun e => !e.2.want) = true) (j : Nat) : (s.b.portOf j).want = false := by
  have g : ∀ l : Tbl Port, (l.all fun e => !e.2.want) = true → (Tbl.get l {} j).want = false := by
    intro l
    induction l with
    | nil => intro _; rfl
    | cons e l ih =>
      intro a
      simp only [List.all_cons, Bool.and_eq_true, Bool.not_eq_true'] at a
      unfold Tbl.get Tbl.find
      split
      · exact a.1
      · exact ih a.2
  exact g _ h
/-- Neighbours that answer: the operator's host, the member at the other end of stream 3, the host of stream 9. -/
def wNbrs : Tbl Nbr := [(0, { st := .reachable, at_ := 0 }), (99, { st := .reachable, at_ := 0 }), (55, { st := .reachable, at_ := 0 })]
/-- No context has regions on their way back. -/
theorem wStay {s : State} (h : (s.b.ctxs.all fun e => !e.2.returning) = true) (n : Nat) : (s.b.ctx n).returning = false := by
  have g : ∀ l : Tbl Ctx, (l.all fun e => !e.2.returning) = true → (Tbl.get l {} n).returning = false := by
    intro l
    induction l with
    | nil => intro _; rfl
    | cons e l ih =>
      intro a
      simp only [List.all_cons, Bool.and_eq_true, Bool.not_eq_true'] at a
      unfold Tbl.get Tbl.find
      split
      · exact a.1
      · exact ih a.2
  exact g _ h
/-- Sessions and requests with their TAG. -/
def wX : Session := { op := 0, confirmed := true, key := [1], seq := 4 }
def wS : State := wB fun b => { b with cfg := { b.cfg with operators := [{ roles := 15 }] }, ports := [(0, { st := .up, nbrs := wNbrs })], sec := { b.sec with sessions := [(3, wX)] } }
def wTag (m : OmpReq) : OmpReq := { m with tag := tagFor wX.key (reqBytes m tagZero) }
def wReq (req : Nat) (body : List Nat) : OmpReq := wTag { req := req, session := 3, seq := 5, body := body }
def wWr (a v : Nat) : OmpReq := wReq qRegWrite (leBytes 4 a ++ leBytes 4 v)
/-- Is a neighbour known on a port, and not gone stale? -/
def wNearB (b : Blk) (port addr : Nat) : Bool := match b.nbr port addr with | some n => decide (n.st = .reachable ∨ n.st = .delay ∨ n.st = .probe) | none => false
theorem wNear {b : Blk} {port addr : Nat} (h : wNearB b port addr = true) : b.Near port addr := by
  unfold wNearB at h
  split at h
  · exact ⟨_, ‹_›, of_decide_eq_true h⟩
  · cases h
theorem wNears {b : Blk} {l : List (Nat × Nat)} {addr : Nat} (h : (l.all fun p => wNearB b p.1 addr) = true) : ∀ p ∈ l, b.Near p.1 addr :=
  fun p hp => wNear (List.all_eq_true.mp h p hp)
theorem wReady {s : State} {req : Nat} {body : List Nat} {x : Session}
    (h : (s.b.ompHere (wReq req body) && formOk (wReq req body) && decide (s.b.sec.sessions.find 3 = some x) &&
      (match roleBit req with | some k => bitAt (((s.b.cfg.operators[x.op]?).map (·.roles)).getD 0) k | none => true) &&
      x.confirmed && decide (x.key = wX.key) && decide (5 = x.seq + 1) && wNearB s.b 0 (wReq req body).src) = true) :
    OmpReady s (wReq req body) x := by
  simp only [Bool.and_eq_true, decide_eq_true_eq] at h
  obtain ⟨⟨⟨⟨⟨⟨⟨a, b⟩, c⟩, d⟩, e⟩, f⟩, g⟩, n⟩ := h
  constructor
  case tag => rw [f]; rfl
  case role =>
    intro k hk
    have e : roleBit req = some k := hk
    rw [e] at d
    exact d
  case near => exact wNear n
  all_goals first | assumption | rfl | exact (by decide : (3 : Nat) ≠ 0)
/-- Changes to the state in which a session is open. -/
def wSB (f : Blk → Blk) : State := wS.setB (f wS.b)
theorem wHeard {b : Blk} (h : (match b.tide.ptpRx.master with | some (_, _, a) => decide (b.now < a + announceTimeout) | none => true) = true) : b.masterHeard := by
  intro k r a e
  rw [e] at h
  exact of_decide_eq_true h
/-- A module frame as it stands on the bus, from the module of serial number 0. -/
def wFr (f : MgtFrame) : List Nat := busFrame groupMac (ownMac 0) etherModule (mgtBytes f)
/-- An OMP fragment for the module. -/
def wFrag (bs : List Nat) : List Nat := busFrame (ownMac 0) (ownMac 9) etherOmp (mgtBytes (.omp (ownMac 0) 5 0 true bs))
/-- IDENTITY as an OMP message. -/
def wIdent : List Nat := [0, 0, 1, 0] ++ List.replicate 52 0
def wReg : RegionRec := { base := 0, granules := 4, cls := 0 }
def wCtx : Ctx := { st := .active, rec_ := { ctx := 7, regions := [wReg] } }
def wGran : Gran := { rest := .t1 0, work := some 0 }
def wP : Prog := { ctx := 7, idx := 0, phase := .generate, step := 3, bound := 0 }
/-- Context 7 with memory on die 0, the engines of die 0 in service, a program on core 0. -/
def wMem : State := wOn.setB ({ wOn.b with ctxs := [(7, wCtx)], slu := { wOn.b.slu with map := [(granKey 7 0, wGran), (granKey 7 1, wGran), (granKey 7 2, wGran), (granKey 7 3, wGran)] }, rk := [(0, { prog := some wP })] }.setSts [mePan 0, vePan 0, rkPan 0] .ready)
def wMB (f : Blk → Blk) : State := wMem.setB (f wMem.b)
def wCx (f : Ctx → Ctx) : State := wMB fun b => { b with ctxs := [(7, f wCtx)] }
def wLocal : Nat := 0xFFFFFFFFFFFC0000
/-- A core's local memory that begins with a little-endian number. -/
def wLoc (n v : Nat) : List Host.Cell := memWriteBytes [] 0 (leBytes n v)
def wRk (f : Rk → Rk) : State := wMB fun b => { b with rk := [(0, f { prog := some wP })] }
/-- No command is held for a handle. -/
theorem wNoHeld {s : State} (h : (s.b.ctxs.all fun e => e.2.handles.all fun h => decide (h.2.held = [])) = true) :
    ∀ e ∈ s.b.ctxs, ∀ h ∈ e.2.handles, h.2.held = [] := fun e he k hk => by
  have a := List.all_eq_true.mp (List.all_eq_true.mp h e he) k hk
  simpa using a
theorem wNone {o : Option Nat} {P : Nat → Prop} (h : o = none) : ∀ m, o = some m → P m := fun m k => by rw [h] at k; cases k
/-- The context with two streams and a window, and the module with two ports up. -/
def wNc : Ctx := { wCtx with rec_ := { wCtx.rec_ with sink := 9, pds := [{ pdId := 1, streams := [{ stream := 3, peerStream := 5, peerCtx := 7, peerAddr := 99 }, { stream := 9, peerHost := true, peerAddr := 55 }], windows := [{ winId := 2, rd := true, wr := true, base := 0, size := 4096 }] }] } }
def wGrp : GroupRec := { groupId := 1, members := [{ position := 0, addr := 98 }, { position := 2, addr := 99 }] }
def wNet : State := wMB fun b => { b with ctxs := [(7, wNc)], ports := [(0, { st := .up, nbrs := wNbrs }), (1, { st := .up, nbrs := wNbrs })], wins := [(2, { gen := 4, open_ := true })], cfg := { b.cfg with position := 0, groups := [wGrp] } }
def wNB (f : Blk → Blk) : State := wNet.setB (f wNet.b)
/-- The same with a number at the start of core 0's local memory. -/
def wNl (v : Nat) : State := wNB fun b => { b with rk := [(0, { prog := some wP, loc := wLoc 64 v })] }
def wMcp : Pan := leafPan 0 kMC 0
def wFlash : Pan := leafPan dFD kMC 16
/-- No control packet waits at a port. -/
theorem wNoCtl {s : State} (h : (s.b.ports.all fun e => decide (e.2.ctl = [])) = true) (j : Nat) : (s.b.portOf j).ctl = [] := by
  have g : ∀ l : Tbl Port, (l.all fun e => decide (e.2.ctl = [])) = true → (Tbl.get l {} j).ctl = [] := by
    intro l
    induction l with
    | nil => intro _; rfl
    | cons e l ih =>
      intro a
      simp only [List.all_cons, Bool.and_eq_true, decide_eq_true_eq] at a
      unfold Tbl.get Tbl.find
      split
      · exact a.1
      · exact ih a.2
  exact g _ h
theorem wMayAnswer {s : State} {n : Nat} (h : ((s.b.ports.all fun e => decide (e.2.ctl = [])) && (s.b.strm.all fun e => e.2.unsent.isEmpty && e.2.serves.isEmpty && (nextRead e.2).isNone) &&
    decide (s.b.paths n 0x7F ≠ []) && ((s.b.paths n 0x7F).all fun p => wNearB s.b p.1 (s.b.peerAddr n)) && !s.b.spare.displaced) = true) : MayAnswer s.b n := by
  simp only [Bool.and_eq_true, decide_eq_true_eq, Bool.not_eq_true'] at h
  obtain ⟨⟨⟨⟨a, b⟩, c⟩, k⟩, d⟩ := h
  refine ⟨c, fun p hp => wNear (List.all_eq_true.mp k p hp), fun i => ⟨?_, wNoCtl a i⟩, d⟩
  have g : ∀ l : Tbl Strm, (l.all fun e => e.2.unsent.isEmpty && e.2.serves.isEmpty && (nextRead e.2).isNone) = true → ∀ n,
      (Tbl.get l {} n).unsent = [] ∧ (Tbl.get l {} n).serves = [] ∧ nextRead (Tbl.get l {} n) = none := by
    intro l
    induction l with
    | nil => intro _ _; exact ⟨rfl, rfl, rfl⟩
    | cons e l ih =>
      intro a n
      simp only [List.all_cons, Bool.and_eq_true] at a
      unfold Tbl.get Tbl.find
      split
      · exact ⟨List.isEmpty_iff.mp a.1.1.1, List.isEmpty_iff.mp a.1.1.2, Option.isNone_iff_eq_none.mp a.1.2⟩
      · exact ih a.2 n
  simp only [Blk.dataWaits, List.any_eq_false]
  intro e _
  obtain ⟨x, y, z⟩ := g _ b e.1
  have w : nextNew (s.b.strmOf e.1) = none := by
    have x' : (s.b.strmOf e.1).unsent = [] := x
    simp [nextNew, x']
  have y' : (s.b.strmOf e.1).serves = [] := y
  have z' : nextRead (s.b.strmOf e.1) = none := z
  simp [Blk.waitsOn, w, y', z']
/-- How a packet arrives at port 1: its sender, its VER, its CRC-32C. -/
def wArrX (src ver : Nat) (crc : Option Nat) (p : Packet) : Arrival :=
  let c := crc.getD (crc32c (crcCover ver 0 p.h p.data))
  { (datagram src 0 0 30211 30211 p).arrive 1 with ver := ver, crc := c, udpSum := udpChecksum src 0 30211 30211 (udpPayload ver 0 p.h p.data c) }
def wArrOf (p : Packet) : Arrival := wArrX 99 1 none p
def wHd (typ : Nat) (f : SkyHdr → SkyHdr) : SkyHdr := f { typ := typ, solicit := decide (typ = tWrite), ctx := 7, stream := 3, winId := 2, winGen := 4, length := 64, psn := 10, msgId := 6, msgLen := 64, offset := 128, ts := 5 }
def wPk (typ : Nat) (f : SkyHdr → SkyHdr) : Packet := { h := wHd typ f, data := List.range (wHd typ f).length }
def wSt (f : Strm → Strm) : State := wNB fun b => { b with strm := [(3, f { known := true, e := 10 })] }
def wWin : WindowRec := { winId := 2, rd := true, wr := true, base := 0, size := 4096 }
def wRx (w : WindowRec) : RxStream := { owner := some 7, pd := { pdId := 1, streams := [{ stream := 3, peerStream := 5, peerCtx := 7, peerAddr := 99 }, { stream := 9, peerHost := true, peerAddr := 55 }], windows := [w] }, e := { stream := 3, peerStream := 5, peerCtx := 7, peerAddr := 99 } }
/-- The same with other window rights. -/
def wSw (w : WindowRec) : State := (wSt id).setB { (wSt id).b with ctxs := [(7, { wNc with rec_ := { wNc.rec_ with pds := [(wRx w).pd] } })] }
def wMsg : OutMsg := { typ := tWrite, ctx := 7, msgId := 6, psn := 20, count := 1, len := 64, use_ := .program 0 .generate 0 }
/-- A collective of context 7, its shards and its control records. -/
def wK (op : Nat) (f : Coll → Coll) : Coll := f { ctx := 7, group := 1, seq := 3, d := { op := op, group := 1, epoch := 6, src := 0, dst := 128, count := 64 }, who := progIssuer 0 wP, st := .running, engine := some 0 }
def wKs (ks : List Coll) : State := wNB fun b => { b with strm := [(3, { known := true, e := 10 })], colls := ks, ctxs := [(7, { wNc with epoch := 6, collSeq := [(1, 3)] })] }
def wSh (typ : Nat) (f : SkyHdr → SkyHdr) : Packet := wPk typ fun h => f { h with winId := 1, winGen := 6, offset := 3 * 2^40 }
def wCtl (r : CtlRec) (seq : Nat) : Packet := { h := (wSh tReduce fun h => { h with offset := 2^63 + seq * 2^40 }).h, data := ctlBytes r }
theorem wSome {α : Type} {o : Option α} {a : α} {P : α → Prop} (h : o = some a) (p : P a) : ∀ x, o = some x → P x := fun x k => by
  rw [h] at k
  cases k
  exact p

/-! ### The hypotheses of every statement are met, each clause by a state and operands at the end of its range -/

theorem test_meets_StepIsExec :
    (∃ (s : State), ∃ c, ∃ rest, s.pending = c :: rest) ∧
    (∃ (s : State), s.pending = []) :=
  ⟨⟨{ wOn with pending := [.pwrEnRise] }, Instr.pwrEnRise, [], by decide +kernel⟩,
   ⟨wOn, by decide +kernel⟩⟩

theorem test_meets_StepKeepsInv :
    (∃ (s : State), ∃ (t : State), s.Inv ∧ Machine.step s = .next t) :=
  ⟨wOn, (wOn.tick), by unfold State.Inv; decide +kernel, rfl⟩

theorem test_meets_RunsAreSafe :
    (∃ (s : State), s.Inv) :=
  ⟨wOn, by unfold State.Inv; decide +kernel⟩

theorem test_meets_MemoryBytes :
    (∃ (s : State), ∃ (bs : List Nat), ∃ i, s.Inv ∧ i < bs.length) ∧
    (∃ (s : State), ∃ (k : Nat), ∃ (j : Nat), ∃ (bs : List Nat), s.Inv ∧ (j < k ∨ k + bs.length ≤ j)) ∧
    (∃ (s : State), ∃ (t : State), s.Inv ∧ t.Inv ∧ (∀ a, memRead t.mem a = memRead s.mem a)) :=
  ⟨⟨wOn, [1], 0, by unfold State.Inv; decide +kernel, by decide +kernel⟩,
   ⟨wOn, 5, 6, [1], by unfold State.Inv; decide +kernel, by decide +kernel⟩,
   ⟨wOn, wOn, by unfold State.Inv; decide +kernel, by unfold State.Inv; decide +kernel, fun _ => rfl⟩⟩

theorem test_meets_TideInPulse :
    (∃ (high : Nat), high < 100) ∧
    (∃ (s : State), ∃ (high : Nat), 100 ≤ high ∧ s.b.tide.train = none) ∧
    (∃ (s : State), ∃ (high : Nat), ∃ last, 100 ≤ high ∧ s.b.tide.train = some last ∧ 2 * (s.b.now - last) < s.b.tide.period) ∧
    (∃ (s : State), ∃ (high : Nat), ∃ last, 100 ≤ high ∧ s.b.tide.train = some last ∧ s.b.tide.period ≤ 2 * (s.b.now - last) ∧ (s.b.now + 500 < s.b.tide.expect ∨ s.b.tide.expect + 500 < s.b.now) ∧ s.b.tide.tin.ok = false) ∧
    (∃ (s : State), ∃ (high : Nat), ∃ last, 100 ≤ high ∧ s.b.tide.train = some last ∧ s.b.tide.period ≤ 2 * (s.b.now - last) ∧ (s.b.now + 500 < s.b.tide.expect ∨ s.b.tide.expect + 500 < s.b.now) ∧ s.b.tide.tin.ok = true ∧ s.b.tide.missRun < 3) ∧
    (∃ (s : State), ∃ (high : Nat), ∃ last, 100 ≤ high ∧ s.b.tide.train = some last ∧ s.b.tide.period ≤ 2 * (s.b.now - last) ∧ s.b.tide.expect ≤ s.b.now + 500 ∧ s.b.now ≤ s.b.tide.expect + 500 ∧ s.b.tide.tin.ok = false ∧ s.b.tide.tin.count < 7) :=
  ⟨⟨99, by decide +kernel⟩,
   ⟨wOn, 100, by decide +kernel⟩,
   ⟨wT fun t => { t with train := some 4500001 }, 100, 4500001, by decide +kernel⟩,
   ⟨wT fun t => { t with train := some 4500000, expect := 5000501 }, 100, 4500000, by decide +kernel⟩,
   ⟨wT fun t => { t with train := some 4500000, expect := 5000501, tin := { ok := true } }, 100, 4500000, by decide +kernel⟩,
   ⟨wT fun t => { t with train := some 4500000, expect := 5000500, tin := { count := 6 } }, 100, 4500000, by decide +kernel⟩⟩

theorem test_meets_TideInPulse_2 :
    (∃ (s : State), ∃ (high : Nat), ∃ last, 100 ≤ high ∧ s.b.tide.train = some last ∧ s.b.tide.period ≤ 2 * (s.b.now - last) ∧ s.b.tide.expect ≤ s.b.now + 500 ∧ s.b.now ≤ s.b.tide.expect + 500 ∧ s.b.tide.tin.count = 7 ∧ s.b.numberNow ≠ none) :=
  ⟨wT fun t => { t with train := some 4000000, expect := 5000500, tin := { count := 7 } }, 100, 4000000, by decide +kernel⟩

theorem test_meets_TideInLost :
    (∃ (s : State), s.b.tide.train ≠ none ∧ s.b.tide.expect + 500 < s.b.now ∧ s.b.tide.missRun < 3) ∧
    (∃ (s : State), s.b.tide.train ≠ none ∧ s.b.tide.expect + 500 < s.b.now ∧ 3 ≤ s.b.tide.missRun) ∧
    (∃ (s : State), s.b.tide.stuck = false) ∧
    (∃ (s : State), s.b.tide.stuck = true) :=
  ⟨⟨wT fun t => { t with train := some 1, expect := 4999499, missRun := 2 }, by decide +kernel⟩,
   ⟨wT fun t => { t with train := some 1, expect := 4999499, missRun := 3 }, by decide +kernel⟩,
   ⟨wOn, by decide +kernel⟩,
   ⟨wT fun t => { t with stuck := true }, by decide +kernel⟩⟩

theorem test_meets_TideSources :
    (∃ (s : State), ∃ t0, s.b.masterHeard ∧ s.b.tide.ptpRx.lastSync = some t0 ∧ t0 + max (4 * s.b.tide.period) (3 * s.b.tide.ptpRx.interval) ≤ s.b.now) ∧
    (∃ (s : State), ∃ e, s.b.tide.bcn.edge = some e ∧ e + 9 * s.b.tide.period ≤ s.b.now) ∧
    (∃ (s : State), s.b.tide.st = .locked ∧ s.b.tide.src = .beacon ∧ s.b.tide.order = [.tideIn, .beacon] ∧ s.b.tide.tin.ok = true ∧ s.b.tide.tin.rej = false ∧ s.b.tide.tin.run = 64 ∧ s.b.now = s.b.tide.countedAt) ∧
    (∃ (s : State), s.b.tide.slewLeft ≠ 0 ∧ s.b.tide.slewAt + s.b.tide.slewLeft.natAbs * 10000 ≤ s.b.now) ∧
    (∃ (s : State), ∃ (b : Blk), b.tide = s.b.tide ∧ s.b.now ≤ b.now ∧ s.b.tide.slewAt ≤ s.b.now) :=
  ⟨⟨wT fun t => { t with ptpRx := { lastSync := some 1000000 } }, 1000000, wHeard (by decide +kernel), by decide +kernel⟩,
   ⟨wB fun b => { b with now := 9000001, tide := { b.tide with bcn := { edge := some 1 } } }, 1, by decide +kernel⟩,
   ⟨wT fun t => { t with src := .beacon, order := [.tideIn, .beacon], tin := { ok := true, run := 64 }, countedAt := 5000000 }, by decide +kernel⟩,
   ⟨wT fun t => { t with slewLeft := -5, slewAt := 4950000 }, by decide +kernel⟩,
   ⟨wOn, wOn.b, by decide +kernel⟩⟩

theorem test_meets_PtpMessages :
    (∃ (s : State), ∃ (mac : MacsecIn), ∃ (seq : Nat), ∃ t2, ∃ c, s.b.takesFrame 0 mac ∧ s.b.masterHeard ∧ s.b.tide.ptpRx.twoStep = some (seq, t2, c)) ∧
    (∃ (s : State), ∃ (mac : MacsecIn), s.b.takesFrame 0 mac ∧ s.b.masterHeard ∧ s.b.tide.ptpRx.slave = true ∧ s.b.tide.ptpRx.delta ≠ none ∧ s.b.spare.displaced = false) ∧
    (∃ (s : State), ∃ (mac : MacsecIn), ∃ (seq : Nat), ∃ (t3 : Nat), s.b.takesFrame 0 mac ∧ s.b.masterHeard ∧ s.b.tide.ptpRx.req = some (seq, t3)) ∧
    (∃ (s : State), ∃ (mac : MacsecIn), ∃ (key : Nat), ∃ (source : Nat), s.b.takesFrame 0 mac ∧ s.b.masterHeard ∧ (s.b.tide.ptpRx.master = none ∨ ∃ k other at_, s.b.tide.ptpRx.master = some (k, other, at_) ∧ other ≠ source ∧ key < k)) ∧
    (∃ (s : State), ∃ (mac : MacsecIn), ∃ (source : Nat), ∃ k, ∃ at_, s.b.takesFrame 0 mac ∧ s.b.masterHeard ∧ s.b.tide.ptpRx.master = some (k, source, at_)) :=
  ⟨⟨wHp fun t => { t with st := .acquire, ptpRx := { twoStep := some (7, 9, 1) } }, .valid, 7, 9, 1, (by constructor <;> decide +kernel), wHeard (by decide +kernel), by decide +kernel⟩,
   ⟨wHp fun t => { t with ptpRx := { slave := true, delta := some 3 } }, .valid, (by constructor <;> decide +kernel), wHeard (by decide +kernel), by decide +kernel⟩,
   ⟨wHp fun t => { t with ptpRx := { req := some (7, 9) } }, .valid, 7, 9, (by constructor <;> decide +kernel), wHeard (by decide +kernel), by decide +kernel⟩,
   ⟨wHp id, .valid, 0, 0, (by constructor <;> decide +kernel), wHeard (by decide +kernel), Or.inl (by decide +kernel)⟩,
   ⟨wHp fun t => { t with ptpRx := { master := some (1, 2, 3) } }, .valid, 2, 1, 3, (by constructor <;> decide +kernel), wHeard (by decide +kernel), by decide +kernel⟩⟩

theorem test_meets_PtpSilence :
    (∃ (s : State), ∃ (k : Nat), ∃ (source : Nat), ∃ (at_ : Nat), s.b.tide.ptpRx.master = some (k, source, at_) ∧ at_ + announceTimeout ≤ s.b.now) :=
  ⟨wB fun b => { b with now := 7000000000, tide := { b.tide with ptpRx := { master := some (1, 2, 3) } } }, 1, 2, 3, by decide +kernel⟩

theorem test_meets_TideEdge :
    (∃ (s : State), s.b.running = true ∧ s.b.edgeDue = true) :=
  ⟨wB fun b => { b with now := 6000000 }, by decide +kernel⟩

theorem test_meets_TideEnds :
    (∃ (s : State), s.b.tide.st = .holdover ∧ s.b.tide.holdLimit ≤ s.b.tide.holdCnt ∧ (∀ k, srcGood s.b.tide k = false)) :=
  ⟨wT fun t => { t with st := .holdover, holdLimit := 2000, holdCnt := 2000 }, wJ2 (by decide +kernel) (fun k => by cases k <;> decide +kernel)⟩

theorem test_meets_Beacons :
    (∃ (s : State), ∃ (l : List Nat), ∃ (pos : Nat), ∃ (flags : Nat), ∃ (serial : Nat), ∃ (num : Nat), ∃ (delay : Nat), s.b.mgtOn = true ∧ s.b.sec.configured = true ∧ s.b.busIn l = .frame (.beacon pos flags serial num delay) ∧ s.b.tide.bcnFrom = none ∧ s.b.tide.bcn.ok = false ∧ s.b.tide.bcn.num = none ∧ tideRuns s.b.tide = false) ∧
    (∃ (s : State), ∃ (l : List Nat), ∃ (pos : Nat), ∃ (flags : Nat), ∃ (serial : Nat), ∃ (num : Nat), ∃ (delay : Nat), ∃ (age : Nat), ∃ n, ∃ e, s.b.mgtOn = true ∧ s.b.sec.configured = true ∧ s.b.busIn l = .frame (.beacon pos flags serial num delay) ∧ s.b.tide.bcnFrom = some pos ∧ s.b.tide.bcn.num = some n ∧ s.b.tide.bcn.edge = some e ∧ num = n + (s.b.now - age - delay - e + s.b.tide.period / 2) / s.b.tide.period) ∧
    (∃ (s : State), ∃ (l : List Nat), ∃ (pos : Nat), ∃ (flags : Nat), ∃ (serial : Nat), ∃ (num : Nat), ∃ (delay : Nat), ∃ q, s.b.mgtOn = true ∧ s.b.sec.configured = true ∧ s.b.busIn l = .frame (.beacon pos flags serial num delay) ∧ s.b.tide.bcnFrom = some q ∧ q < pos ∧ s.b.tide.beaconDup = false) :=
  ⟨⟨wT fun t => { t with st := .acquire }, wFr (.beacon 71 0 0 0 0), 71, 0, 0, 0, 0, by decide +kernel⟩,
   ⟨wT fun t => { t with bcnFrom := some 71, bcn := { num := some 5, edge := some 4000000 } }, wFr (.beacon 71 0 0 6 0), 71, 0, 0, 6, 0, 0, 5, 4000000, by decide +kernel⟩,
   ⟨wT fun t => { t with bcnFrom := some 70 }, wFr (.beacon 71 0 0 0 0), 71, 0, 0, 0, 0, 70, by decide +kernel⟩⟩

theorem test_meets_Crossings :
    (∃ (s : State), ∃ (leaf : Nat), (s.b.xingOf leaf).queue.length < 8 ∧ (s.b.xingOf leaf).waiting = []) ∧
    (∃ (s : State), ∃ (leaf : Nat), ∃ (r : Nat × Nat), (s.b.xingOf leaf).queue.length = 8 ∧ (s.b.xingOf leaf).queue.contains r = true ∧ (s.b.xingOf leaf).waiting = []) ∧
    (∃ (s : State), ∃ (leaf : Nat), ∃ (r : Nat × Nat), 8 ≤ (s.b.xingOf leaf).queue.length ∧ (s.b.xingOf leaf).queue.contains r = false) ∧
    (∃ (s : State), ∃ (leaf : Nat), (s.b.panSt leaf).st ≠ .reset ∧ (s.b.panSt leaf).st ≠ .off ∧ s.b.rst.stopped.contains leaf = false) :=
  ⟨⟨wOn, 67, by decide +kernel⟩,
   ⟨wB fun b => { b with xing := [(67, { queue := List.replicate 8 (1, 2) })] }, 67, (1, 2), by decide +kernel⟩,
   ⟨wB fun b => { b with xing := [(67, { queue := List.replicate 8 (1, 2) })] }, 67, (1, 3), by decide +kernel⟩,
   ⟨wB fun b => b.setSts [67] .ready, 67, by decide +kernel⟩⟩

theorem test_meets_Supplies :
    (∃ (s : State), s.b.pwr.aux = true ∧ s.b.pwr.p54v = true ∧ s.b.pwr.stable = true ∧ s.b.pwr.rails = false) ∧
    (∃ (s : State), s.b.pwr.aux = true ∧ s.b.pwr.pwrEn = true ∧ s.b.pwr.rails = false) ∧
    (∃ (s : State), s.b.pwr.ramping = true) ∧
    (∃ (s : State), s.b.pwr.aux = false) ∧
    (∃ (s : State), s.b.pwr.rails = true) :=
  ⟨⟨wB fun b => { b with pwr := { b.pwr with rails := false } }, by decide +kernel⟩,
   ⟨wB fun b => { b with pwr := { b.pwr with rails := false } }, by decide +kernel⟩,
   ⟨wB fun b => { b with pwr := { b.pwr with ramping := true } }, by decide +kernel⟩,
   ⟨wB fun b => { b with pwr := { b.pwr with aux := false } }, by decide +kernel⟩,
   ⟨wOn, by decide +kernel⟩⟩

theorem test_meets_Monitors :
    (∃ (s : State), 16 ≤ s.b.mon.overRun) ∧
    (∃ (s : State), s.b.pwr.rails = true ∧ s.b.pwr.rstN = true) ∧
    (∃ (s : State), ∃ (r : Int), s.b.pwr.rails = true ∧ 100 ≤ r ∧ r < 105 ∧ (s.b.mon.sites.get {} 0).high = false ∧ (s.b.mon.sites.get {} 0).maxC = none ∧ (∀ i, (s.b.mon.sites.get {} i).trip < 2)) ∧
    (∃ (s : State), ∃ mv, s.b.pwr.rails = true ∧ 4400 ≤ mv ∧ mv < 4600 ∧ (s.b.mon.rails.get {} 0).raised ≠ s.b.tide.num + 1) :=
  ⟨⟨wB fun b => { b with mon := { b.mon with overRun := 16 } }, by decide +kernel⟩,
   ⟨wOn, by decide +kernel⟩,
   ⟨wOn, 104, wJ5 (by decide +kernel) (fun _ => (by decide : (0 : Nat) < 2))⟩,
   ⟨wOn, 4400, by decide +kernel⟩⟩

theorem test_meets_OperatingPoint :
    (∃ (s : State), ∃ (h : Nat), ∃ (hs : List Nat), s.b.mon.stackQ = h :: hs ∧ s.b.mon.stackNow = none ∧ tideRuns s.b.tide = true ∧ s.b.mon.stackTide ≤ s.b.tide.num) ∧
    (∃ (s : State), ∃ (h : Nat), ∃ (rate : Nat), s.b.mon.stackNow = some (h, rate) ∧ s.b.mon.raising = true) ∧
    (∃ (s : State), s.b.mon.raising = true ∧ s.b.mon.changing = true ∧ s.b.mon.stackQ = [] ∧ s.b.mon.stackNow = none ∧ s.b.mon.stackTide ≤ s.b.tide.num) :=
  ⟨⟨wB fun b => { b with mon := { b.mon with stackQ := [3] } }, 3, [], by decide +kernel⟩,
   ⟨wB fun b => { b with mon := { b.mon with stackNow := some (3, 6), raising := true } }, 3, 6, by decide +kernel⟩,
   ⟨wB fun b => { b with mon := { b.mon with raising := true, changing := true } }, by decide +kernel⟩⟩

theorem test_meets_HubCores :
    (∃ (s : State), s.b.running = true ∧ s.b.rst.hc0 = .active ∧ s.b.rst.hc1 = .standby) ∧
    (∃ (s : State), s.b.running = true ∧ s.b.rst.hc0 = .active ∧ s.b.rst.hc1 ≠ .standby) ∧
    (∃ (s : State), ∃ t0, s.b.rst.loadAt.find 1 = some t0 ∧ s.b.rst.hc1 = .loading ∧ s.b.now < t0 + 50000000) ∧
    (∃ (s : State), ∃ t0, s.b.rst.loadAt.find 1 = some t0 ∧ s.b.rst.hc1 = .loading ∧ t0 + 50000000 ≤ s.b.now) :=
  ⟨⟨wOn, by decide +kernel⟩,
   ⟨wB fun b => { b with rst := { b.rst with hc1 := .fault } }, by decide +kernel⟩,
   ⟨wB fun b => { b with now := 51000000, rst := { b.rst with hc1 := .loading, loadAt := [(1, 1000001)] } }, 1000001, by decide +kernel⟩,
   ⟨wB fun b => { b with now := 51000000, rst := { b.rst with hc1 := .loading, loadAt := [(1, 1000000)] } }, 1000000, by decide +kernel⟩⟩

theorem test_meets_ModuleReset :
    (∃ (s : State), s.b.pwr.rails = true ∧ s.b.pwr.rstN = true) ∧
    (∃ (s : State), s.b.pwr.rstN = false) :=
  ⟨⟨wOn, by decide +kernel⟩,
   ⟨wB fun b => { b with pwr := { b.pwr with rstN := false } }, by decide +kernel⟩⟩

theorem test_meets_Ports :
    (∃ (s : State), ∃ (i : Nat), ∃ abil, ∃ r, (s.b.portOf i).st = .an ∧ (r = 2 ∧ bitAt abil (b2n (s.b.portOf i).cfg.kr) = true ∧ ((s.b.portOf i).cfg.rateSel = 0 ∨ (s.b.portOf i).cfg.rateSel = 2) ∨ r = 1 ∧ bitAt abil (2 + b2n (s.b.portOf i).cfg.kr) = true ∧ ((s.b.portOf i).cfg.rateSel = 1 ∨ (s.b.portOf i).cfg.rateSel = 2 ∧ bitAt abil (b2n (s.b.portOf i).cfg.kr) = false))) ∧
    (∃ (s : State), ∃ (i : Nat), ∃ abil, (s.b.portOf i).st = .an ∧ (bitAt abil (b2n (s.b.portOf i).cfg.kr) = false ∨ (s.b.portOf i).cfg.rateSel = 1) ∧ (bitAt abil (2 + b2n (s.b.portOf i).cfg.kr) = false ∨ (s.b.portOf i).cfg.rateSel = 0)) ∧
    (∃ (s : State), ∃ (i : Nat), (s.b.portOf i).st = .training ∧ (s.b.portOf i).cfg.macsec = true) ∧
    (∃ (s : State), ∃ (i : Nat), (s.b.portOf i).st = .training ∧ (s.b.portOf i).cfg.macsec = false ∧ (∀ j, (s.b.portOf j).want = false)) ∧
    (∃ (s : State), ∃ (i : Nat), (s.b.portOf i).st = .held ∧ (∀ j, (s.b.portOf j).want = false)) ∧
    (∃ (s : State), ∃ (i : Nat), (s.b.portOf i).st = .up ∧ (s.b.portOf i).cfg.macsec = true) :=
  ⟨⟨wB fun b => { b with ports := [(1, { st := .an, cfg := { enable := true, rateSel := 2 } })] }, 1, 4, 1, by decide +kernel⟩,
   ⟨wB fun b => { b with ports := [(1, { st := .an, cfg := { enable := true, rateSel := 1 } })] }, 1, 1, by decide +kernel⟩,
   ⟨wB fun b => { b with ports := [(1, { st := .training, cfg := { macsec := true } })] }, 1, by decide +kernel⟩,
   ⟨wB fun b => { b with ports := [(1, { st := .training, rate := 2 })] }, 1, wJ2 (by decide +kernel) (wNoWant (by decide +kernel))⟩,
   ⟨wB fun b => { b with ports := [(1, { st := .held, rate := 2 })] }, 1, by decide +kernel, wNoWant (by decide +kernel)⟩,
   ⟨wB fun b => { b with ports := [(1, { st := .up, cfg := { macsec := true } })] }, 1, by decide +kernel⟩⟩

theorem test_meets_Ports_2 :
    (∃ (s : State), ∃ (i : Nat), ∃ u, (s.b.portOf i).st = .up ∧ (s.b.portOf i).ucwTide + u ≤ 16) :=
  ⟨wB fun b => { b with ports := [(1, { st := .up, ucwTide := 10 })] }, 1, 6, by decide +kernel⟩

theorem test_meets_PortsDown :
    (∃ (s : State), ∃ (i : Nat), ∃ l, (s.b.portOf i).st = .up ∧ l = ((s.b.portOf i).losses.filter fun t0 => decide (s.b.now < t0 + 60000000000)) ++ [s.b.now] ∧ l.length < 8) ∧
    (∃ (s : State), ∃ (i : Nat), ∃ t0, (s.b.portOf i).st = .training ∧ (s.b.portOf i).noCommon = false ∧ (s.b.portOf i).retrainAt = some t0 ∧ t0 + (s.b.portOf i).cfg.retrainMax * 1000000 ≤ s.b.now ∧ (∀ j, (s.b.portOf j).want = false)) :=
  ⟨⟨wB fun b => { b with ports := [(1, { st := .up, losses := [2] })] }, 1, [2, 5000000], by decide +kernel⟩,
   ⟨wB fun b => { b with now := 60000000000, ports := [(1, { st := .training, retrainAt := some 0, cfg := { retrainMax := 60 } })] }, 1, 0, wJ4 (by decide +kernel) (wNoWant (by decide +kernel))⟩⟩

theorem test_meets_PortFrames :
    (∃ (s : State), ∃ (i : Nat), ∃ (arr : Arrival), (s.b.portOf i).st = .up ∧ arr.port = i ∧ ((s.b.portOf i).cfg.macsec = false ∨ arr.macsec = true)) ∧
    (∃ (s : State), ∃ (i : Nat), ∃ (arr : Arrival), (s.b.portOf i).st = .up ∧ arr.port = i ∧ (s.b.portOf i).cfg.macsec = true ∧ arr.macsec = false ∧ arr.unprot = true) ∧
    (∃ (s : State), ∃ (i : Nat), ∃ (arr : Arrival), (s.b.portOf i).st = .up ∧ arr.port = i ∧ (s.b.portOf i).cfg.macsec = true ∧ arr.macsec = false ∧ arr.unprot = false) :=
  ⟨⟨wB fun b => { b with ports := [(1, { st := .up, cfg := { macsec := true } })] }, 1, { port := 1, macsec := true }, by decide +kernel⟩,
   ⟨wB fun b => { b with ports := [(1, { st := .up, cfg := { macsec := true } })] }, 1, { port := 1, macsec := false, unprot := true }, by decide +kernel⟩,
   ⟨wB fun b => { b with ports := [(1, { st := .up, cfg := { macsec := true } })] }, 1, { port := 1, macsec := false }, by decide +kernel⟩⟩

theorem test_meets_Neighbors :
    (∃ (s : State), ∃ (i : Nat), ∃ (mac : MacsecIn), ∃ a, s.b.takesFrame i mac ∧ s.b.spare.displaced = false ∧ s.b.cfg.mod.portAddr.contains a = true) ∧
    (∃ (s : State), ∃ (i : Nat), ∃ (mac : MacsecIn), ∃ a, ∃ src, s.b.takesFrame i mac ∧ s.b.spare.displaced = false ∧ s.b.cfg.mod.portAddr.contains a = true ∧ src ≠ 0 ∧ s.b.Near i src) ∧
    (∃ (s : State), ∃ (i : Nat), ∃ (mac : MacsecIn), ∃ a, ∃ src, s.b.takesFrame i mac ∧ s.b.spare.displaced = false ∧ s.b.cfg.mod.portAddr.contains a = true ∧ src ≠ 0 ∧ s.b.nbr i src = none) ∧
    (∃ (s : State), ∃ (i : Nat), ∃ (mac : MacsecIn), ∃ a, ∃ n, s.b.takesFrame i mac ∧ s.b.spare.displaced = false ∧ s.b.nbr i a = some n ∧ n.st = .incomplete) ∧
    (∃ (s : State), ∃ (i : Nat), (s.b.portOf i).st = .up ∧ (s.b.portOf i).cfg.macsec = true) :=
  ⟨⟨wB fun b => { b with ports := [(1, { st := .up })], cfg := { b.cfg with mod := { b.cfg.mod with portAddr := [0, 77] } } }, 1, .valid, 77, (by constructor <;> decide +kernel), by decide +kernel⟩,
   ⟨wB fun b => { b with ports := [(1, { st := .up, nbrs := wNbrs })], cfg := { b.cfg with mod := { b.cfg.mod with portAddr := [0, 77] } } }, 1, .valid, 77, 99, (by constructor <;> decide +kernel), wJ3 (by decide +kernel) (wNear (by decide +kernel))⟩,
   ⟨wB fun b => { b with ports := [(1, { st := .up })], cfg := { b.cfg with mod := { b.cfg.mod with portAddr := [0, 77] } } }, 1, .valid, 77, 99, (by constructor <;> decide +kernel), by decide +kernel⟩,
   ⟨wB fun b => { b with ports := [(1, { st := .up, nbrs := [(99, { st := .incomplete, at_ := 0 })] })] }, 1, .valid, 99, { st := .incomplete, at_ := 0 }, (by constructor <;> decide +kernel), by decide +kernel⟩,
   ⟨wB fun b => { b with ports := [(1, { st := .up, cfg := { macsec := true } })] }, 1, by decide +kernel⟩⟩

theorem test_meets_UnitResets :
    (∃ (s : State), ∃ (p : Pan), ∃ (reason : RstReason), isEngine p = true ∧ s.b.mayReset p reason = true ∧ s.b.inReset p = false ∧ s.b.workOf p = []) ∧
    (∃ (s : State), ∃ (p : Pan), ∃ (reason : RstReason), ∃ (t0 : Nat), isEngine p = true ∧ s.b.rst.running = [{ pan := p, reason := reason, at_ := t0 }] ∧ s.b.now < t0 + 10000) ∧
    (∃ (s : State), ∃ (p : Pan), ∃ (reason : RstReason), ∃ (t0 : Nat), isEngine p = true ∧ s.b.rst.running = [{ pan := p, reason := reason, at_ := t0 }] ∧ t0 + 10000 ≤ s.b.now) :=
  ⟨⟨wB fun b => { b with rst := { b.rst with notLive := [mePan 3] } }, mePan 3, .liveness, by decide +kernel⟩,
   ⟨wB fun b => { b with rst := { b.rst with running := [{ pan := mePan 3, reason := .liveness, at_ := 4990001 }] } }, mePan 3, .liveness, 4990001, by decide +kernel⟩,
   ⟨wB fun b => { b with rst := { b.rst with running := [{ pan := mePan 3, reason := .liveness, at_ := 4990000 }] } }, mePan 3, .liveness, 4990000, by decide +kernel⟩⟩

theorem test_meets_PortResets :
    (∃ (s : State), ∃ (i : Nat), ∃ (reason : RstReason), i < 7 ∧ s.b.mayReset (portPan i) reason = true ∧ s.b.inReset (portPan i) = false ∧ (s.b.portOf i).cfg.enable = true) ∧
    (∃ (s : State), ∃ (i : Nat), ∃ (t0 : Nat), ∃ (reason : RstReason), s.b.rst.running = [{ pan := portPan i, reason := reason, at_ := t0 }] ∧ t0 + 10000 ≤ s.b.now) :=
  ⟨⟨wB fun b => { b with rst := { b.rst with stopped := [portPan 6] }, ports := [(6, { cfg := { enable := true } })] }, 6, .clkstop, by decide +kernel⟩,
   ⟨wB fun b => { b with rst := { b.rst with running := [{ pan := portPan 6, reason := .clkstop, at_ := 4990000 }] } }, 6, 4990000, .clkstop, by decide +kernel⟩⟩

theorem test_meets_DieResets :
    (∃ (s : State), ∃ (p : Pan), ∃ (reason : RstReason), ∃ (d : Nat), resetDie p = some d ∧ s.b.mayReset p reason = true ∧ s.b.inReset (diePan d) = false) ∧
    (∃ (s : State), ∃ (p : Pan), ∃ (reason : RstReason), ∃ (t0 : Nat), ∃ q, panShape p = some .die ∧ s.b.rst.running = [{ pan := p, reason := reason, at_ := t0 }] ∧ s.b.now < t0 + 1000000 ∧ s.b.rst.failed = [] ∧ q ∈ dieLeaves (panDie p) ∧ panKind q ≠ kLP ∧ (s.b.panSt q).st = .reset) ∧
    (∃ (s : State), ∃ (p : Pan), ∃ (reason : RstReason), ∃ (t0 : Nat), panShape p = some .die ∧ s.b.rst.running = [{ pan := p, reason := reason, at_ := t0 }] ∧ t0 + 1000000 ≤ s.b.now) :=
  ⟨⟨wB fun b => { b with rst := { b.rst with notLive := [diePan 1] } }, diePan 1, .liveness, 1, by decide +kernel⟩,
   ⟨wB fun b => { b with rst := { b.rst with running := [{ pan := diePan 1, reason := .liveness, at_ := 4000001 }] } }.setSts [mePan 8] .reset, diePan 1, .liveness, 4000001, mePan 8, by decide +kernel⟩,
   ⟨wB fun b => { b with rst := { b.rst with running := [{ pan := diePan 1, reason := .liveness, at_ := 4000000 }] } }, diePan 1, .liveness, 4000000, by decide +kernel⟩⟩

theorem test_meets_Scheduled :
    (∃ (s : State), s.b.rst.handover = true ∧ s.b.rst.handoverReady = false ∧ hcOf s.b.rst (1 - activeHc s.b.rst) = .standby) ∧
    (∃ (s : State), ∃ t0, s.b.switchTide = some t0 ∧ s.b.rst.handover = true ∧ s.b.rst.handoverReady = false ∧ t0 ≤ s.b.tide.num + 1) ∧
    (∃ (s : State), ∃ x, ∃ n, ∃ c, s.b.nextSched = some x ∧ x.act = .imageSwitch ∧ s.b.firstDue x.tide x.phase (rankAct x.act) = true ∧ s.b.sec.switchPend = some n ∧ s.b.sec.switchCfg = some c ∧ s.b.rst.handover = false ∧ s.b.spare.adopted = none) ∧
    (∃ (s : State), ∃ x, s.b.nextSched = some x ∧ x.act = .reset modulePan ∧ s.b.firstDue x.tide x.phase (rankAct x.act) = true) ∧
    (∃ (s : State), ∃ x, ∃ p, s.b.nextSched = some x ∧ x.act = .reset p ∧ s.b.firstDue x.tide x.phase (rankAct x.act) = true ∧ isEngine p = true ∧ s.b.inReset p = false ∧ s.b.workOf p = []) ∧
    (∃ (s : State), ∃ x, s.b.nextSched = some x ∧ x.act = .retire ∧ s.b.firstDue x.tide x.phase (rankAct x.act) = true) :=
  ⟨⟨wB fun b => { b with rst := { b.rst with handover := true } }, by decide +kernel⟩,
   ⟨(wT fun t => { t with sched := [{ tide := 6, phase := 0, act := .imageSwitch }] }) |> fun s => s.setB { s.b with rst := { s.b.rst with handover := true } }, 6, by decide +kernel⟩,
   ⟨(wT fun t => { t with sched := [{ tide := 4, phase := 0, act := .imageSwitch }] }) |> fun s => s.setB { s.b with sec := { s.b.sec with switchPend := some 1, switchCfg := some { svn := 9 } } }, { tide := 4, phase := 0, act := .imageSwitch }, 1, { svn := 9 }, by decide +kernel⟩,
   ⟨wT fun t => { t with sched := [{ tide := 4, phase := 0, act := .reset modulePan }] }, { tide := 4, phase := 0, act := .reset modulePan }, by decide +kernel⟩,
   ⟨wT fun t => { t with sched := [{ tide := 4, phase := 0, act := .reset (mePan 3) }] }, { tide := 4, phase := 0, act := .reset (mePan 3) }, mePan 3, by decide +kernel⟩,
   ⟨wT fun t => { t with sched := [{ tide := 4, phase := 0, act := .retire }] }, { tide := 4, phase := 0, act := .retire }, by decide +kernel⟩⟩

theorem test_meets_Boot :
    (∃ (s : State), s.b.mayBoot = true ∧ s.b.sec.select = 0 ∧ s.b.sec.glitchPend = none) ∧
    (∃ (s : State), s.b.bootStateNow = 5 ∧ s.b.tide.st = .locked ∧ s.b.tide.numSet = true ∧ s.b.sec.unlock ≠ 2) ∧
    (∃ (s : State), s.b.pwr.rails = true ∧ s.b.pwr.rstN = true ∧ s.b.sec.ready = false ∧ s.b.sec.bootLate = false ∧ s.b.pwr.pgAt + 150000000000 ≤ s.b.now) :=
  ⟨⟨State.reset, by decide +kernel⟩,
   ⟨{ b := { sec := { configured := true, bootState := 4, booting := true }, tide := { st := .locked, numSet := true } } }, by decide +kernel⟩,
   ⟨{ b := { now := 150000000000 } }, by decide +kernel⟩⟩

def wBare (req : Nat) (body : List Nat) : OmpReq := { req := req, body := body }
def wRst : State := wSB fun b => { b with sec := { b.sec with sessions := [(3, { wX with rstPan := 0xFFFF00 })] } }
def wUnl : State := wSB fun b => { b with sec := { b.sec with unlock := 1 } }
def wTst (off v : Nat) : OmpReq := wWr (0x09000000 + hubPan + off) v
def wSlot (req : Nat) (n : Nat) (l : List Nat) : OmpReq := wReq req ([n, 0, 0, 0] ++ l)
def wSeal : State := wSB fun b => { b with cfg := { b.cfg with hrv := { b.cfg.hrv with pd := { b.cfg.hrv.pd with streams := [{ stream := 40, peerHost := true }] } } } }
/-- A package of three bytes, "abc", with the digest of FIPS 180-4's example. -/
def wPkg : Package := { id := 5, ver := 2, man := flashWriteBytes [] 64 (beBytes 32 0xBA7816BF8F01CFEA414140DE5DAE2223B00361A396177A9CB410FF61F20015AD), body := flashOf [97, 98, 99], bodyLen := 3 }
def wJob (p : Package) : SealJob := { stream := 40, winId := 7, winGen := 1, bytes := 5000, pkg := some p, done := 5000 }
def wSealing (p : Package) : State := wSeal.setB { wSeal.b with store := { wSeal.b.store with job := some (wJob p) } }

theorem test_meets_OmpBare :
    (∃ (s : State), ∃ (m : OmpReq), s.b.ompHere m = true ∧ m.bus = false ∧ s.b.Near 0 m.src ∧ formOk m = true ∧ m.session = 0 ∧ m.req = qIdentity) ∧
    (∃ (s : State), ∃ (m : OmpReq), s.b.ompHere m = true ∧ m.bus = false ∧ s.b.Near 0 m.src ∧ formOk m = true ∧ m.session = 0 ∧ m.req = qAttest) ∧
    (∃ (s : State), ∃ (m : OmpReq), ∃ p, s.b.ompHere m = true ∧ m.bus = false ∧ s.b.Near 0 m.src ∧ formOk m = true ∧ m.session = 0 ∧ m.req = qPanRead ∧ panRef s.b.pos (fieldAt m.body 0 4) = .own p) ∧
    (∃ (s : State), ∃ (m : OmpReq), s.b.ompHere m = true ∧ m.bus = false ∧ s.b.Near 0 m.src ∧ formOk m = true ∧ m.session = 0 ∧ m.req = qPanRead ∧ panRef s.b.pos (fieldAt m.body 0 4) = .remote) ∧
    (∃ (s : State), ∃ (m : OmpReq), ∃ (d : OpenDraw), ∃ (o : OperatorRec), ∃ signed, ∃ body, s.b.ompHere m = true ∧ m.bus = false ∧ s.b.Near 0 m.src ∧ formOk m = true ∧ m.session = 0 ∧ m.req = qOpen ∧ s.b.sec.recovery = false ∧ s.b.sec.sessions = [] ∧ s.b.cfg.operators[fieldAt m.body 0 1]? = some o ∧ signed = openSigned m 1 d o.modulus ∧ body = leBytes 32 d.nonce ++ oaepSeal o.modulus (leBytes 32 d.key) (leBytes 32 d.seed) ++ sigMake s.b.sec.identKey signed (leBytes 32 d.salt)) :=
  ⟨⟨wS, wBare qIdentity (List.replicate 8 0), wJ2 (by decide +kernel) ⟨wNear (by decide +kernel), by decide +kernel⟩⟩,
   ⟨wS, wBare qAttest (List.replicate 32 9), wJ2 (by decide +kernel) ⟨wNear (by decide +kernel), by decide +kernel⟩⟩,
   ⟨wS, wBare qPanRead (leBytes 4 0x00FFFF00), modulePan, wJ2 (by decide +kernel) ⟨wNear (by decide +kernel), by decide +kernel⟩⟩,
   ⟨wS, wBare qPanRead (leBytes 4 0x01FFFF00), wJ2 (by decide +kernel) ⟨wNear (by decide +kernel), by decide +kernel⟩⟩,
   ⟨wSB fun b => { b with sec := { b.sec with sessions := [] } }, wBare qOpen (0 :: List.replicate 35 0), {}, { roles := 15 }, _, _, wJ2 (by decide +kernel) ⟨wNear (by decide +kernel), wJ5 (by decide +kernel) ⟨rfl, rfl, rfl⟩⟩⟩⟩

theorem test_meets_OmpSessions :
    (∃ (s : State), ∃ (m : OmpReq), ∃ (x : Session), ∃ o, s.b.ompHere m = true ∧ m.bus = false ∧ s.b.Near 0 m.src ∧ formOk m = true ∧ m.session ≠ 0 ∧ s.b.sec.sessions.find m.session = some x ∧ x.confirmed = false ∧ m.tag = tagFor x.key (reqBytes m tagZero) ∧ m.seq = x.seq + 1 ∧ m.req = qConfirm ∧ s.b.cfg.operators[x.op]? = some o) ∧
    (∃ (s : State), ∃ (m : OmpReq), ∃ (x : Session), OmpReady s m x ∧ m.req = qClose) ∧
    (∃ (s : State), ∃ (x : Session), ∃ n, s.b.sec.sessions.find n = some x ∧ x.lastAt + 60000000000 ≤ s.b.now) :=
  ⟨⟨wSB fun b => { b with sec := { b.sec with sessions := [(3, { wX with confirmed := false })] } }, wReq qConfirm (List.replicate 384 0), { wX with confirmed := false }, { roles := 15 }, wJ2 (by decide +kernel) ⟨wNear (by decide +kernel), wJ5 (by decide +kernel) ⟨rfl, by decide +kernel, rfl⟩⟩⟩,
   ⟨wS, wReq qClose [], wX, wReady (by decide +kernel), rfl⟩,
   ⟨wSB fun b => { b with now := 60000000000 }, wX, 3, by decide +kernel⟩⟩

theorem test_meets_Registers :
    (∃ (s : State), ∃ (m : OmpReq), ∃ (x : Session), OmpReady s m x ∧ m.req = qRegRead ∧ fieldAt m.body 0 4 = 0x00FFFF00 ∧ fieldAt m.body 4 4 = 1) ∧
    (∃ (s : State), ∃ (m : OmpReq), ∃ (x : Session), ∃ (v : Nat), OmpReady s m x ∧ m.req = qRegWrite ∧ fieldAt m.body 0 4 = 0x046FFF00 ∧ fieldAt m.body 4 4 = v ∧ v < 1024) ∧
    (∃ (s : State), ∃ (m : OmpReq), ∃ (x : Session), OmpReady s m x ∧ m.req = qRegWrite ∧ fieldAt m.body 0 4 = 0x00FFFF00) ∧
    (∃ (s : State), ∃ (m : OmpReq), ∃ (x : Session), ∃ (v : Nat), OmpReady s m x ∧ m.req = qRegWrite ∧ fieldAt m.body 0 4 = 0x086FFF04 ∧ fieldAt m.body 4 4 = v ∧ v < 1024 ∧ 250 ≤ v ∧ v ≤ 600) ∧
    (∃ (s : State), ∃ (m : OmpReq), ∃ (x : Session), ∃ (v : Nat), OmpReady s m x ∧ m.req = qRegWrite ∧ fieldAt m.body 0 4 = 0x086FFF04 ∧ fieldAt m.body 4 4 = v ∧ v < 1024 ∧ (v < 250 ∨ 600 < v)) ∧
    (∃ (s : State), ∃ (m : OmpReq), ∃ (x : Session), OmpReady s m x ∧ m.req = qRegWrite ∧ fieldAt m.body 0 4 = 0x096FFF00 ∧ fieldAt m.body 4 4 = 0x80000000 ∧ s.b.sec.unlock ≠ 0) :=
  ⟨⟨wS, wReq qRegRead (leBytes 4 0x00FFFF00 ++ leBytes 4 1), wX, wReady (by decide +kernel), by decide +kernel⟩,
   ⟨wS, wWr 0x046FFF00 77, wX, 77, wReady (by decide +kernel), by decide +kernel⟩,
   ⟨wS, wWr 0x00FFFF00 77, wX, wReady (by decide +kernel), by decide +kernel⟩,
   ⟨wS, wWr 0x086FFF04 600, wX, 600, wReady (by decide +kernel), by decide +kernel⟩,
   ⟨wS, wWr 0x086FFF04 249, wX, 249, wReady (by decide +kernel), by decide +kernel⟩,
   ⟨wUnl, wWr 0x096FFF00 0x80000000, wX, wReady (by decide +kernel), by decide +kernel⟩⟩

theorem test_meets_Registers_2 :
    (∃ (s : State), ∃ (m : OmpReq), ∃ (x : Session), ∃ (v : Nat), OmpReady s m x ∧ m.req = qRegWrite ∧ fieldAt m.body 0 4 = 0x096FFF00 ∧ fieldAt m.body 4 4 = v ∧ s.b.sec.unlock = 0) :=
  ⟨wS, wWr 0x096FFF00 0, wX, 0, wReady (by decide +kernel), by decide +kernel⟩

theorem test_meets_ServiceActions :
    (∃ (s : State), ∃ (m : OmpReq), ∃ (x : Session), ∃ p, OmpReady s m x ∧ m.req = qRegWrite ∧ regAddr (fieldAt m.body 0 4) = .reg { block := .mem, pan := p, off := 0x20 } ∧ fieldAt m.body 4 4 = 1 ∧ mcKind p ≠ 5) ∧
    (∃ (s : State), ∃ (m : OmpReq), ∃ (x : Session), ∃ i, OmpReady s m x ∧ m.req = qRegWrite ∧ i < 7 ∧ regAddr (fieldAt m.body 0 4) = .reg { block := .lnk, pan := portPan i, off := 8 } ∧ fieldAt m.body 4 4 = 1 ∧ (s.b.portOf i).cfg.enable = true ∧ (s.b.portOf i).retrainAt = none ∧ (∀ e ∈ s.b.ports, e.2.service = false ∧ e.2.want = false)) ∧
    (∃ (s : State), ∃ (m : OmpReq), ∃ (x : Session), ∃ (v : Nat), ∃ p, OmpReady s m x ∧ m.req = qRegWrite ∧ fieldAt m.body 0 4 = 0x0B6FFF08 ∧ fieldAt m.body 4 4 = 0x80000000 + v ∧ v < 2 ^ 16 ∧ panRef s.b.pos x.rstPan = .own p ∧ (p = modulePan ∨ panDie p ≠ dHD) ∧ s.b.schedCheck (s.b.tide.num + v) 0 = .accepted) ∧
    (∃ (s : State), ∃ (m : OmpReq), ∃ (x : Session), ∃ (v : Nat), OmpReady s m x ∧ m.req = qRegWrite ∧ fieldAt m.body 0 4 = 0x0B6FFF08 ∧ fieldAt m.body 4 4 = 0x40000000 + v ∧ v < 2 ^ 16 ∧ s.b.schedCheck (s.b.tide.num + v) 0 = .accepted) :=
  ⟨⟨wS, wWr 0x07D40920 1, wX, 0xD40900, wReady (by decide +kernel), by decide +kernel⟩,
   ⟨wSB fun b => { b with ports := [(0, { st := .up, nbrs := wNbrs }), (2, { st := .up, cfg := { enable := true } })] }, wWr (0x06000008 + portPan 2) 1, wX, 2, wReady (by decide +kernel), by decide +kernel⟩,
   ⟨wRst, wWr 0x0B6FFF08 (0x80000000 + 7), { wX with rstPan := 0xFFFF00 }, 7, modulePan, wReady (by decide +kernel), by decide +kernel⟩,
   ⟨wRst, wWr 0x0B6FFF08 (0x40000000 + 7), { wX with rstPan := 0xFFFF00 }, 7, wReady (by decide +kernel), by decide +kernel⟩⟩

theorem test_meets_TestRegisters :
    (∃ (s : State), ∃ (m : OmpReq), ∃ (x : Session), ∃ (v : Nat), ∃ (off : Nat), ∃ (k : Nat), OmpReady s m x ∧ m.req = qRegWrite ∧ regAddr (fieldAt m.body 0 4) = .reg { block := .tst, pan := hubPan, off := off } ∧ rsvMask { block := .tst, pan := hubPan, off := off } = some k ∧ v = fieldAt m.body 4 4 ∧ s.b.sec.unlock = 0) ∧
    (∃ (s : State), ∃ (m : OmpReq), ∃ (x : Session), ∃ (v : Nat), ∃ (off : Nat), ∃ (k : Nat), OmpReady s m x ∧ m.req = qRegWrite ∧ regAddr (fieldAt m.body 0 4) = .reg { block := .tst, pan := hubPan, off := off } ∧ rsvMask { block := .tst, pan := hubPan, off := off } = some k ∧ v = fieldAt m.body 4 4 ∧ s.b.sec.unlock ≠ 0 ∧ v &&& k = 0 ∧ off = 0x28 ∧ 10000 < v % 2 ^ 16 + v / 2 ^ 16) ∧
    (∃ (s : State), ∃ (m : OmpReq), ∃ (x : Session), ∃ (v : Nat), ∃ (off : Nat), ∃ (k : Nat), OmpReady s m x ∧ m.req = qRegWrite ∧ regAddr (fieldAt m.body 0 4) = .reg { block := .tst, pan := hubPan, off := off } ∧ rsvMask { block := .tst, pan := hubPan, off := off } = some k ∧ v = fieldAt m.body 4 4 ∧ s.b.sec.unlock ≠ 0 ∧ v &&& k = 0 ∧ off = 0x2C ∧ 10000 < v % 2 ^ 16) ∧
    (∃ (s : State), ∃ (m : OmpReq), ∃ (x : Session), ∃ (v : Nat), ∃ (off : Nat), ∃ (k : Nat), OmpReady s m x ∧ m.req = qRegWrite ∧ regAddr (fieldAt m.body 0 4) = .reg { block := .tst, pan := hubPan, off := off } ∧ rsvMask { block := .tst, pan := hubPan, off := off } = some k ∧ v = fieldAt m.body 4 4 ∧ s.b.sec.unlock ≠ 0 ∧ v &&& k = 0 ∧ off = 0x30 ∧ (90 < bits v 16 8 ∨ v % 2 ^ 16 = 0 ∨ 10000 < v % 2 ^ 16)) ∧
    (∃ (s : State), ∃ (m : OmpReq), ∃ (x : Session), ∃ (v : Nat), ∃ (off : Nat), ∃ (k : Nat), OmpReady s m x ∧ m.req = qRegWrite ∧ regAddr (fieldAt m.body 0 4) = .reg { block := .tst, pan := hubPan, off := off } ∧ rsvMask { block := .tst, pan := hubPan, off := off } = some k ∧ v = fieldAt m.body 4 4 ∧ s.b.sec.unlock ≠ 0 ∧ v &&& k = 0 ∧ off = 0x3C ∧ (v % 2 ^ 16 = 0 ∨ 1000 < v % 2 ^ 16 ∨ s.b.mpl ≤ v % 2 ^ 16 * 1000 * 2)) ∧
    (∃ (s : State), ∃ (m : OmpReq), ∃ (x : Session), ∃ (v : Nat), ∃ (off : Nat), ∃ (k : Nat), OmpReady s m x ∧ m.req = qRegWrite ∧ regAddr (fieldAt m.body 0 4) = .reg { block := .tst, pan := hubPan, off := off } ∧ rsvMask { block := .tst, pan := hubPan, off := off } = some k ∧ v = fieldAt m.body 4 4 ∧ s.b.sec.unlock ≠ 0 ∧ v &&& k = 0 ∧ s.b.tstInRange off v = true) :=
  ⟨⟨wS, wTst 0x28 5, wX, 5, 0x28, 0, wReady (by decide +kernel), by decide +kernel⟩,
   ⟨wUnl, wTst 0x28 0x00012710, wX, 0x00012710, 0x28, 0, wReady (by decide +kernel), by decide +kernel⟩,
   ⟨wUnl, wTst 0x2C 10001, wX, 10001, 0x2C, maskAt 16 13, wReady (by decide +kernel), by decide +kernel⟩,
   ⟨wUnl, wTst 0x30 (91 * 65536 + 10000), wX, (91 * 65536 + 10000), 0x30, maskAt 31 1, wReady (by decide +kernel), by decide +kernel⟩,
   ⟨wUnl, wTst 0x3C 1001, wX, 1001, 0x3C, 0, wReady (by decide +kernel), by decide +kernel⟩,
   ⟨wUnl, wTst 0x28 0x00002710, wX, 0x00002710, 0x28, 0, wReady (by decide +kernel), by decide +kernel⟩⟩

theorem test_meets_TestRegisters_2 :
    (∃ (s : State), ∃ (m : OmpReq), ∃ (x : Session), OmpReady s m x ∧ s.b.pwr.rails = true ∧ s.b.pwr.rstN = true) :=
  ⟨wUnl, wTst 0x28 5, wX, wReady (by decide +kernel), by decide +kernel⟩

theorem test_meets_Slots :
    (∃ (s : State), ∃ (m : OmpReq), ∃ (x : Session), ∃ (n : Nat), OmpReady s m x ∧ n < 2 ∧ m.req = qSlotWrite ∧ fieldAt m.body 0 1 = n ∧ (s.b.sec.configured = false ∨ n ≠ s.b.sec.slot) ∧ s.b.sec.switchPend ≠ some n) ∧
    (∃ (s : State), ∃ (m : OmpReq), ∃ (x : Session), ∃ (n : Nat), OmpReady s m x ∧ n < 2 ∧ m.req = qSlotWrite ∧ fieldAt m.body 0 1 = n ∧ s.b.sec.configured = true ∧ n = s.b.sec.slot) ∧
    (∃ (s : State), ∃ (m : OmpReq), ∃ (x : Session), ∃ (n : Nat), OmpReady s m x ∧ n < 2 ∧ m.req = qSlotCheck ∧ fieldAt m.body 0 1 = n) ∧
    (∃ (s : State), ∃ (m : OmpReq), ∃ (x : Session), ∃ (n : Nat), OmpReady s m x ∧ n < 2 ∧ m.req = qSwitch ∧ fieldAt m.body 0 1 = n ∧ (slotOf s.b.sec n).valid = true ∧ s.b.sec.recovery = false ∧ s.b.sec.switchPend = none ∧ s.b.schedCheck (fieldAt m.body 4 6) 0 = .accepted) ∧
    (∃ (s : State), ∃ (m : OmpReq), ∃ (x : Session), ∃ (n : Nat), OmpReady s m x ∧ n < 2 ∧ m.req = qUnlock) :=
  ⟨⟨wS, wSlot qSlotWrite 1 (leBytes 4 5 ++ leBytes 4 3 ++ [9, 8, 7]), wX, 1, wReady (by decide +kernel), by decide +kernel⟩,
   ⟨wS, wSlot qSlotWrite 0 (leBytes 4 5 ++ leBytes 4 3 ++ [9, 8, 7]), wX, 0, wReady (by decide +kernel), by decide +kernel⟩,
   ⟨wS, wSlot qSlotCheck 1 [], wX, 1, wReady (by decide +kernel), by decide +kernel⟩,
   ⟨wSB fun b => { b with sec := { b.sec with slot1 := { valid := true } } }, wSlot qSwitch 1 (leBytes 6 10 ++ [0, 0]), wX, 1, wReady (by decide +kernel), by decide +kernel⟩,
   ⟨wS, wReq qUnlock (List.replicate 416 0), wX, 0, wReady (by decide +kernel), by decide +kernel⟩⟩

theorem test_meets_SealStore :
    (∃ (s : State), ∃ (m : OmpReq), ∃ (x : Session), OmpReady s m x ∧ m.req = qSeal ∧ s.b.store.job = none ∧ s.b.sealStreamOk (fieldAt m.body 0 2) = true ∧ 64 ≤ fieldAt m.body 8 8) ∧
    (∃ (s : State), ∃ (m : OmpReq), ∃ (x : Session), OmpReady s m x ∧ m.req = qSeal ∧ s.b.store.job ≠ none) ∧
    (∃ (s : State), ∃ j, ∃ p, ∃ (f : SealFound), s.b.store.job = some j ∧ j.pkg = some p ∧ j.bytes ≤ j.done ∧ (∀ k < p.chunks, chunkFits p p.man (flashWrong p.body f.wrong) k = true)) ∧
    (∃ (s : State), ∃ j, ∃ p, ∃ (f : SealFound), ∃ k, s.b.store.job = some j ∧ j.pkg = some p ∧ j.bytes ≤ j.done ∧ k < p.chunks ∧ chunkFits p p.man (flashWrong p.body f.wrong) k = false) ∧
    (∃ (s : State), ∃ (m : OmpReq), ∃ (x : Session), ∃ q, OmpReady s m x ∧ m.req = qErase ∧ q ∈ s.b.store.pkgs ∧ q.id = fieldAt m.body 0 8 ∧ q.ver = fieldAt m.body 8 4 ∧ s.b.loadReads (q.id, q.ver) = false ∧ s.b.imageNames (q.id, q.ver) = false) ∧
    (∃ (s : State), ∃ (m : OmpReq), ∃ (x : Session), OmpReady s m x ∧ m.req = qErase ∧ (s.b.loadReads (fieldAt m.body 0 8, fieldAt m.body 8 4) = true ∨ s.b.imageNames (fieldAt m.body 0 8, fieldAt m.body 8 4) = true)) :=
  ⟨⟨wSeal, wReq qSeal (leBytes 2 40 ++ leBytes 2 7 ++ leBytes 2 1 ++ [0, 0] ++ leBytes 8 64), wX, wReady (by decide +kernel), by decide +kernel⟩,
   ⟨wSealing wPkg, wReq qSeal (leBytes 2 40 ++ leBytes 2 7 ++ leBytes 2 1 ++ [0, 0] ++ leBytes 8 64), wX, wReady (by decide +kernel), by decide +kernel⟩,
   ⟨wSealing wPkg, wJob wPkg, wPkg, {}, by decide +kernel⟩,
   ⟨wSealing wPkg, wJob wPkg, wPkg, { wrong := [(2, 9)] }, 0, by decide +kernel⟩,
   ⟨wSB fun b => { b with store := { b.store with dir0 := { seq := 1, pkgs := [wPkg] } } }, wReq qErase (leBytes 8 5 ++ leBytes 4 2), wX, wPkg, wReady (by decide +kernel), by decide +kernel⟩,
   ⟨wSB fun b => { b with cfg := { b.cfg with ctxs := [{ ctx := 7, genSeal := some (5, 2) }] } }, wReq qErase (leBytes 8 5 ++ leBytes 4 2), wX, wReady (by decide +kernel), by decide +kernel⟩⟩

def wBus (f : MgtSt → MgtSt) : State := wB fun b => { b with now := 5600000, mgt := f { b.mgt with hbK := 1, nslot := 8 } }
def wHb : MgtQ := { f := .heartbeat 0 0 0 0 3 4, prio := 1, deadline := some 9 }
def wSpare : State := wB fun b => { b with now := 5600000, cfg := { b.cfg with position := 64, hrv := { b.cfg.hrv with spare := true }, adopt := [{ position := 3 }] }, mgt := { b.mgt with hbK := 1, nslot := 8, peers := [(3, { heard := true, declared := true, declaredTide := 4 })] } }
def wMe (c : TileCmd) (ag : Tbl Ag) : State := wMB fun b => { b with me := [(0, { q := [c], ag := ag })] }
def wCmd (op : Nat) (run : Bool) : TileCmd := { seq := 5, ctx := 7, r := { op := op, k := 1, passes := 1, pitch0 := 256, a1 := if op = opMma then 65536 else 0, pitch1 := 256, rowMask := 3, colMask := 1 }, ag := 2, running := run }
def wSample : Sample := { cmd := wCmd opMma true, kp := 0, mem := [] }
def wFar : Sample := { cmd := { seq := 5, ctx := 7, r := { op := opMma, fmt := 6, k := 1, passes := 1, sa := 200, rowMask := 1, colMask := 1 } }, kp := 1, mem := [(0, 0x78), (200, 254)] }
def wTile : Nat := 1 + 0xF * 2^32 + 0xF * 2^36 + 0xF * 2^40

theorem test_meets_ManagementMac :
    (∃ (s : State), ∃ (q : MgtQ), s.b.mgtOn = true ∧ s.b.mgt.sending = none ∧ s.b.mgt.backoff = none ∧ s.b.mgt.txEnd + 9600 ≤ s.b.now ∧ s.b.mgtNext = some q ∧ isClaim q.f = false) ∧
    (∃ (s : State), ∃ (q : MgtQ), s.pending = [] ∧ s.b.mgt.sending = some q ∧ s.b.mgt.txEnd ≤ s.b.now + 1) ∧
    (∃ (s : State), s.b.mgtActive = true ∧ tideRuns s.b.tide = true ∧ (if s.b.hbFree then s.b.freeStart else s.b.slotStart) ≤ s.b.intPhase ∧ s.b.mgt.hbTide ≠ s.b.intNo + 1) ∧
    (∃ (s : State), ∃ (q : MgtQ), s.b.mgt.sending = some q ∧ q.attempts < 15) ∧
    (∃ (s : State), ∃ (q : MgtQ), s.b.mgt.sending = some q ∧ q.attempts = 15 ∧ isHeartbeat q.f = false) ∧
    (∃ (s : State), ∃ (q : MgtQ), ∃ t0, s.b.mgt.backoff = some (q, t0) ∧ t0 ≤ s.b.now ∧ s.b.mayBegin q.f = true ∧ s.b.expired q = false ∧ isClaim q.f = false) :=
  ⟨⟨wBus fun m => { m with queue := [wHb] }, wHb, by decide +kernel⟩,
   ⟨wBus fun m => { m with sending := some wHb, txEnd := 5600001 }, wHb, by decide +kernel⟩,
   ⟨wBus fun m => { m with hbTide := 0 }, by decide +kernel⟩,
   ⟨wBus fun m => { m with sending := some { wHb with attempts := 14 } }, { wHb with attempts := 14 }, by decide +kernel⟩,
   ⟨wBus fun m => { m with sending := some { f := .capacity 0 0 0 0 [], prio := 3, attempts := 15 } }, { f := .capacity 0 0 0 0 [], prio := 3, attempts := 15 }, by decide +kernel⟩,
   ⟨wBus fun m => { m with backoff := some (wHb, 5600000) }, wHb, 5600000, by decide +kernel⟩⟩

theorem test_meets_ManagementMac_2 :
    (∃ (s : State), ∃ (q : MgtQ), s.b.mgt.sending = some q ∧ s.b.expired q = false ∧ (∀ x ∈ s.b.mgt.queue, s.b.expired x = false) ∧ s.b.mgt.backoff = none) ∧
    (∃ (s : State), ∃ (q : MgtQ), s.b.mgt.queue = [q] ∧ s.b.mgt.backoff = none ∧ s.b.expired q = true ∧ q.prio ≠ pClaim) ∧
    (∃ (s : State), s.b.mgtOn = true ∧ s.b.mgt.jamNow = none) ∧
    (∃ (s : State), ∃ (l : List Nat), ∃ src, ∃ msgId, ∃ (bytes : List Nat), s.b.mgtOn = true ∧ s.b.busIn l = .omp src false msgId 0 true bytes ∧ ompLen bytes ≤ bytes.length) ∧
    (∃ (s : State), ∃ (l : List Nat), s.b.mgtOn = true ∧ l.drop (l.length - 4) ≠ fcsOf (l.take (l.length - 4))) ∧
    (∃ (s : State), ∃ (l : List Nat), s.b.mgtOn = true ∧ l.drop (l.length - 4) = fcsOf (l.take (l.length - 4)) ∧ (l.length < 64 ∨ beField l 12 2 ≠ 0x88B5 ∧ beField l 12 2 ≠ 0x88B6)) :=
  ⟨⟨wBus fun m => { m with sending := some wHb }, wHb, by decide +kernel⟩,
   ⟨wBus fun m => { m with queue := [{ wHb with deadline := some 2 }] }, { wHb with deadline := some 2 }, by decide +kernel⟩,
   ⟨wOn, by decide +kernel⟩,
   ⟨wOn, wFrag wIdent, ownMac 9, 5, wIdent, by decide +kernel⟩,
   ⟨wOn, [1, 2, 3, 4, 5], by decide +kernel⟩,
   ⟨wOn, [] ++ fcsOf [], by decide +kernel⟩⟩

theorem test_meets_ManagementMac_3 :
    (∃ (s : State), ∃ p, s.b.mgt.parts = [p] ∧ p.done = false ∧ p.lastAt + 2000000000 ≤ s.b.now) :=
  ⟨wB fun b => { b with now := 2000000005, mgt := { b.mgt with parts := [{ src := 4, msgId := 5, next := 1, bytes := [1], lastAt := 5, done := false }] } }, { src := 4, msgId := 5, next := 1, bytes := [1], lastAt := 5, done := false }, by decide +kernel⟩

theorem test_meets_Watch :
    (∃ (s : State), ∃ (l : List Nat), ∃ (pos : Nat), ∃ (flags : Nat), ∃ (serial : Nat), ∃ (tide : Nat), ∃ hb, ∃ status, s.b.mgtOn = true ∧ s.b.busIn l = .frame (.heartbeat pos flags serial tide hb status) ∧ pos ≠ s.b.pos ∧ (s.b.intPhase < s.b.slotStart ∨ s.b.slotStart + 75000 ≤ s.b.intPhase) ∧ bits status 28 4 ≠ PState.fault.code ∧ bits status 16 8 = 0 ∧ (s.b.peer pos).inInterval = false ∧ (s.b.peer pos).declared = false) ∧
    (∃ (s : State), ∃ (l : List Nat), ∃ (pos : Nat), ∃ (flags : Nat), ∃ (serial : Nat), ∃ (tide : Nat), ∃ (target : Nat), ∃ k, s.b.mgtOn = true ∧ s.b.busIn l = .frame (.claim pos flags serial tide target k) ∧ s.b.spare.claim = none) ∧
    (∃ (s : State), ∃ (l : List Nat), ∃ (pos : Nat), ∃ (flags : Nat), ∃ (serial : Nat), ∃ (tide : Nat), ∃ (target : Nat), s.b.mgtOn = true ∧ s.b.busIn l = .frame (.takeover pos flags serial tide target) ∧ target ≠ s.b.pos ∧ s.b.spare.claim = none) ∧
    (∃ (s : State), ∃ (l : List Nat), ∃ (pos : Nat), ∃ (flags : Nat), ∃ (serial : Nat), ∃ (tide : Nat), ∃ (target : Nat), s.b.mgtOn = true ∧ s.b.busIn l = .frame (.takeover pos flags serial tide target) ∧ target = s.b.pos ∧ serial ≠ s.b.sec.serial ∧ s.b.sec.configured = true ∧ s.b.spare.displaced = false) ∧
    (∃ (s : State), ∃ (l : List Nat), ∃ (pos : Nat), ∃ (flags : Nat), ∃ (serial : Nat), ∃ (tide : Nat), ∃ (words : List Nat), s.b.mgtOn = true ∧ s.b.busIn l = .frame (.capacity pos flags serial tide words)) ∧
    (∃ (s : State), ∃ (pos : Nat), s.b.running = true ∧ tideRuns s.b.tide = true ∧ s.b.watched pos = true ∧ (s.b.peer pos).heard = true ∧ (s.b.peer pos).declared = false ∧ s.b.cfg.mod.silentTides ≤ (s.b.peer pos).missing) :=
  ⟨⟨wBus id, wFr (.heartbeat 71 0 0 0 0 (3 * 2^28)), 71, 0, 0, 0, 0, 3 * 2^28, by decide +kernel⟩,
   ⟨wOn, wFr (.claim 66 0 0 0 63 0), 66, 0, 0, 0, 63, 0, by decide +kernel⟩,
   ⟨wOn, wFr (.takeover 66 0 0 0 63), 66, 0, 0, 0, 63, by decide +kernel⟩,
   ⟨wB fun b => { b with sec := { b.sec with serial := 8 } }, wFr (.takeover 66 0 9 0 0), 66, 0, 9, 0, 0, by decide +kernel⟩,
   ⟨wOn, wFr (.capacity 71 0 0 0 (List.replicate 16 0)), 71, 0, 0, 0, List.replicate 16 0, by decide +kernel⟩,
   ⟨wBus fun m => { m with peers := [(3, { heard := true, missing := 8 })] }, 3, by decide +kernel⟩⟩

theorem test_meets_Watch_2 :
    (∃ (s : State), ∃ (pos : Nat), s.b.mayClaim pos = true ∧ s.b.tide.num = (s.b.peer pos).declaredTide + 1) ∧
    (∃ (s : State), ∃ (pos : Nat), ∃ t0, s.b.spare.claim = some (pos, t0) ∧ s.b.moduleState = .spare ∧ tideRuns s.b.tide = true ∧ s.b.due t0 0 = true ∧ s.b.claimWaits = false) :=
  ⟨⟨wSpare, 3, by decide +kernel⟩,
   ⟨wSpare.setB { wSpare.b with spare := { wSpare.b.spare with claim := some (3, 5) } }, 3, 5, by decide +kernel⟩⟩

theorem test_meets_Qcmd :
    (∃ (s : State), ∃ (core : Nat), ∃ (rs1 : Nat), ∃ (n : Nat), ∃ (p : Prog), s.b.mayIssue core = some p ∧ recordAddrOk rs1 = true ∧ n = s.b.rkNat core rs1 128 ∧ (s.b.ctx p.ctx).handles = [] ∧ (s.b.ctx p.ctx).open_.length < 4096 ∧ (∀ m, cmdMe (s.b.ctx p.ctx) (tileRec n) = some m → s.b.meLoad m < 32) ∧ s.b.pend = [] ∧ tileCheck (s.b.ctx p.ctx) n 0 = none ∧ s.b.agCheck p.ctx (tileRec n) = none) ∧
    (∃ (s : State), ∃ (core : Nat), ∃ (rs1 : Nat), ∃ (n : Nat), ∃ (p : Prog), ∃ cause, ∃ a, s.b.mayIssue core = some p ∧ recordAddrOk rs1 = true ∧ n = s.b.rkNat core rs1 128 ∧ (s.b.ctx p.ctx).handles = [] ∧ (s.b.ctx p.ctx).open_.length < 4096 ∧ (∀ m, cmdMe (s.b.ctx p.ctx) (tileRec n) = some m → s.b.meLoad m < 32) ∧ s.b.pend = [] ∧ tileCheck (s.b.ctx p.ctx) n 0 = some (cause, a)) ∧
    (∃ (s : State), ∃ (core : Nat), ∃ (rs1 : Nat), ∃ (n : Nat), ∃ (p : Prog), s.b.mayIssue core = some p ∧ recordAddrOk rs1 = true ∧ n = s.b.rkNat core rs1 128 ∧ (s.b.ctx p.ctx).handles = [] ∧ (4096 ≤ (s.b.ctx p.ctx).open_.length ∨ ∃ m, cmdMe (s.b.ctx p.ctx) (tileRec n) = some m ∧ 32 ≤ s.b.meLoad m)) :=
  ⟨⟨wRk fun k => { k with loc := wLoc 128 wTile }, 0, wLocal, wTile, wP, wJ5 (by decide +kernel) ⟨wNone (by decide +kernel), by decide +kernel⟩⟩,
   ⟨wMem, 0, wLocal, 0, wP, cCmdOp, 0, wJ5 (by decide +kernel) ⟨wNone (by decide +kernel), by decide +kernel⟩⟩,
   ⟨wCx fun c => { c with open_ := List.replicate 4096 (1, {}) }, 0, wLocal, 0, wP, wJ4 (by decide +kernel) (Or.inl (by decide +kernel))⟩⟩

theorem test_meets_Matrix :
    (∃ (s : State), ∃ (me : Nat), ∃ (c : TileCmd), s.b.works (mePan me) = true ∧ (s.b.meOf me).q = [c] ∧ c.r.op = opInit ∧ c.running = false ∧ c.r.a0 = 0) ∧
    (∃ (s : State), ∃ (me : Nat), ∃ (c : TileCmd), s.b.works (mePan me) = true ∧ (s.b.meOf me).q = [c] ∧ c.r.op = opInit ∧ c.running = false ∧ c.r.a0 ≠ 0 ∧ s.b.staged c.ctx (me / 8) (tileRanges c.r c.r.mode) = true ∧ accessAll (s.b.ctx c.ctx) c.who false (tileRanges c.r c.r.mode) = .ok) ∧
    (∃ (s : State), ∃ (me : Nat), ∃ (c : TileCmd), ∃ md, s.b.works (mePan me) = true ∧ (s.b.meOf me).q = [c] ∧ c.r.op = opMma ∧ c.running = false ∧ ((s.b.meOf me).agOf c.ag).mode = md ∧ s.b.staged c.ctx (me / 8) (tileRanges c.r md) = true ∧ accessAll (s.b.ctx c.ctx) c.who false (tileRanges c.r md) = .ok) ∧
    (∃ (s : State), ∃ (me : Nat), ∃ (c : TileCmd), ∃ md, s.b.works (mePan me) = true ∧ (s.b.meOf me).q = [c] ∧ c.r.op = opClose ∧ c.running = false ∧ ((s.b.meOf me).agOf c.ag).mode = md ∧ accessAll (s.b.ctx c.ctx) c.who true (tileRanges c.r md) = .ok ∧ (s.b.ctx c.ctx).hrv.cap = none ∧ (∀ y ∈ (closeRows c.r ((s.b.meOf me).agOf c.ag)).1, s.canWrite c.ctx y.1 y.2.length = true)) ∧
    (∃ (s : State), ∃ (me : Nat), ∃ (c : TileCmd), (∀ e ∈ s.b.ctxs, ∀ h ∈ e.2.handles, h.2.held = []) ∧ runningCmd (s.b.meOf me) opInit 0 = some c) ∧
    (∃ (s : State), ∃ (me : Nat), ∃ (c : TileCmd), (∀ e ∈ s.b.ctxs, ∀ h ∈ e.2.handles, h.2.held = []) ∧ runningCmd (s.b.meOf me) opMma 0 = some c) :=
  ⟨⟨wMe (wCmd opInit false) [], 0, wCmd opInit false, by decide +kernel⟩,
   ⟨wMe { wCmd opInit false with r := { (wCmd opInit false).r with a0 := 64 } } [], 0, { wCmd opInit false with r := { (wCmd opInit false).r with a0 := 64 } }, by decide +kernel⟩,
   ⟨wMe (wCmd opMma false) [(2, { st := .open_, mode := 1, owner := some (7, 0) })], 0, wCmd opMma false, 1, by decide +kernel⟩,
   ⟨wMe (wCmd opClose false) [(2, { st := .open_, mode := 0, owner := some (7, 0) })], 0, wCmd opClose false, 0, by decide +kernel⟩,
   ⟨wMe (wCmd opInit true) [], 0, wCmd opInit true, wNoHeld (by decide +kernel), by decide +kernel⟩,
   ⟨wMe (wCmd opMma true) [], 0, wCmd opMma true, wNoHeld (by decide +kernel), by decide +kernel⟩⟩

theorem test_meets_Matrix_2 :
    (∃ (s : State), ∃ (me : Nat), ∃ (lane : Nat), ∃ (c : TileCmd), (∀ e ∈ s.b.ctxs, ∀ h ∈ e.2.handles, h.2.held = []) ∧ runningCmd (s.b.meOf me) opClose lane = some c) ∧
    (∃ (s : State), ∃ (me : Nat), ∃ x, (s.b.meOf me).sample = some x ∧ (s.b.meOf me).q = [] ∧ gaugeSkips x.cmd.r (memRead x.mem) x.kp = true) ∧
    (∃ (s : State), ∃ (me : Nat), ∃ x, ∃ f, (s.b.meOf me).sample = some x ∧ (s.b.meOf me).q = [] ∧ gaugeSkips x.cmd.r (memRead x.mem) x.kp = false ∧ fmtOfCode (s.b.cfg.num.cmpFmt.getD x.cmd.r.cls 1) = some f) :=
  ⟨⟨wMe (wCmd opClose true) [], 0, 0, wCmd opClose true, wNoHeld (by decide +kernel), by decide +kernel⟩,
   ⟨wMB fun b => { b with me := [(0, { sample := some wFar })] }, 0, wFar, by decide +kernel⟩,
   ⟨wMB fun b => { b with me := [(0, { sample := some { wSample with kp := 1 } })] }, 0, { wSample with kp := 1 }, .bf16, by decide +kernel⟩⟩

theorem test_meets_AbsentTerms :
    (∃ (t : Terms), ∃ (a : Nat → Nat), ∃ (b : Nat → Nat), (∀ k, t.present k = true → a k = t.a k ∧ b k = t.b k)) ∧
    (∃ (t : Terms), (∀ k, t.present k = false)) ∧
    (∃ (r : TileRec), ∃ (i : Nat), ∃ (j : Nat), i < 64 ∧ j < 64 ∧ (bitAt r.rowMask i = false ∨ bitAt r.colMask j = false)) ∧
    (∃ (g : Ag), ∃ (n : Nat), g.mode ≠ 2 ∧ g.tot.find n = none) ∧
    (∃ (g : Ag), ∃ (n : Nat), g.mode ≠ 2 ∧ n < 4096) ∧
    (∃ (g : Ag), ∃ (n : Nat), g.mode = 2 ∧ (g.mv.get {} n).count = 0) :=
  ⟨⟨{ fmt := .bf16, passes := 1, bigK := 4, subn := false, sa := fun _ => 0, sb := fun _ => 0, present := fun _ => false, a := fun _ => 1, b := fun _ => 2 }, fun _ => 0, fun _ => 0, (fun _ h => by cases h)⟩,
   ⟨{ fmt := .bf16, passes := 1, bigK := 4, subn := false, sa := fun _ => 0, sb := fun _ => 0, present := fun _ => false, a := fun _ => 1, b := fun _ => 2 }, (fun _ => rfl)⟩,
   ⟨{}, 63, 63, by decide +kernel⟩,
   ⟨{}, 4095, by decide +kernel⟩,
   ⟨{}, 4095, by decide +kernel⟩,
   ⟨{ mode := 2 }, 4095, by decide +kernel⟩⟩

theorem test_meets_RakerWaits :
    (∃ (s : State), ∃ (core : Nat), ∃ (num : Nat), ∃ (p : Prog), s.b.mayIssue core = some p ∧ cmdStatus (s.b.ctx p.ctx) num = 1) ∧
    (∃ (s : State), ∃ (core : Nat), ∃ (num : Nat), ∃ (p : Prog), s.b.mayIssue core = some p ∧ cmdStatus (s.b.ctx p.ctx) num = 0) ∧
    (∃ (s : State), ∃ (core : Nat), ∃ (p : Prog), s.b.mayIssue core = some p ∧ (s.b.rkOf core).issued = []) ∧
    (∃ (s : State), ∃ (core : Nat), ∃ (p : Prog), s.b.mayIssue core = some p ∧ (s.b.rkOf core).issued ≠ []) ∧
    (∃ (s : State), ∃ (core : Nat), ∃ (p : Prog), ∃ w, s.b.mayIssue core = some p ∧ s.b.pend = [w] ∧ w.who = .rk core ∧ w.lost = []) ∧
    (∃ (s : State), ∃ (core : Nat), ∃ (p : Prog), ∃ a7, s.b.mayIssue core = some p ∧ 8 ≤ a7) :=
  ⟨⟨wCx fun c => { c with seq := 8, open_ := [(7, {})] }, 0, 7, wP, by decide +kernel⟩,
   ⟨wCx fun c => { c with seq := 8, open_ := [(7, {})] }, 0, 6, wP, by decide +kernel⟩,
   ⟨wMem, 0, wP, by decide +kernel⟩,
   ⟨wRk fun k => { k with issued := [4] }, 0, wP, by decide +kernel⟩,
   ⟨wMB fun b => { b with pend := [{ who := .rk 0, ctx := 7, bytes := [(64, 9)] }] }, 0, wP, { who := .rk 0, ctx := 7, bytes := [(64, 9)] }, by decide +kernel⟩,
   ⟨wMem, 0, wP, 8, by decide +kernel⟩⟩

theorem test_meets_RakerPrograms :
    (∃ (s : State), ∃ (core : Nat), ∃ ctx, ∃ r, ∃ pr, s.b.prog core = none ∧ phaseRun (s.b.ctx ctx) (s.b.ctx ctx).phase = some r ∧ s.b.programOf (s.b.ctx ctx) (s.b.ctx ctx).phase = some pr ∧ r.pending.contains core = true ∧ (s.b.ctx ctx).st = .active ∧ s.b.works (rkPan core) = true) ∧
    (∃ (s : State), ∃ (core : Nat), ∃ p, s.b.mayIssue core = some p ∧ (s.b.rkOf core).issued = [] ∧ s.b.pend = []) ∧
    (∃ (s : State), ∃ (core : Nat), ∃ p, s.b.mayIssue core = some p ∧ (s.b.rkOf core).issued ≠ []) ∧
    (∃ (s : State), ∃ (core : Nat), ∃ p, ∃ a0, ∃ a1, s.b.mayIssue core = some p ∧ 0x5800 ≤ a0 ∧ a0 ≤ 0x5FFF ∧ inUserLocal a1 32 = true) ∧
    (∃ (s : State), ∃ (core : Nat), ∃ p, s.b.mayIssue core = some p) ∧
    (∃ (s : State), ∃ (core : Nat), ∃ p, ∃ a0, ∃ a1, s.b.mayIssue core = some p ∧ a0 < 2 ^ 48 ∧ a1 < s.b.tide.period) :=
  ⟨⟨wMB fun b => { b with rk := [], ctxs := [(7, { wCtx with phase := .generate, gen := some { pending := [0] }, rec_ := { wCtx.rec_ with rkMask := 1, gen := some { entry := 0x44 } } })] }, 0, 7, { pending := [0] }, { entry := 0x44 }, by decide +kernel⟩,
   ⟨wMem, 0, wP, by decide +kernel⟩,
   ⟨wRk fun k => { k with issued := [4] }, 0, wP, by decide +kernel⟩,
   ⟨wMem, 0, wP, 0x5FFF, wLocal, by decide +kernel⟩,
   ⟨wMem, 0, wP, by decide +kernel⟩,
   ⟨wMem, 0, wP, 2^48 - 1, 999999, by decide +kernel⟩⟩

theorem test_meets_RakerPrograms_2 :
    (∃ (s : State), ∃ (core : Nat), ∃ n, ∃ ph, (s.b.rkOf core).wait = some (.tide n ph) ∧ s.b.due n ph = true) :=
  ⟨wRk fun k => { k with wait := some (.tide 4 9) }, 0, 4, 9, by decide +kernel⟩

theorem test_meets_RakerAccesses :
    (∃ (s : State), ∃ (core : Nat), ∃ (a : Nat), ∃ (p : Prog), ∃ acc, s.b.mayIssue core = some p ∧ localBase ≤ a ∧ inUserLocal a (accSize acc) = true) ∧
    (∃ (s : State), ∃ (core : Nat), ∃ (a : Nat), ∃ (p : Prog), ∃ acc, s.b.mayIssue core = some p ∧ localBase ≤ a ∧ inUserLocal a (accSize acc) = false) ∧
    (∃ (s : State), ∃ (core : Nat), ∃ (a : Nat), ∃ (p : Prog), ∃ acc, s.b.mayIssue core = some p ∧ a < localBase ∧ covered (s.b.ctx p.ctx) a (accSize acc) = false) ∧
    (∃ (s : State), ∃ (core : Nat), ∃ (a : Nat), ∃ (p : Prog), ∃ acc, s.b.mayIssue core = some p ∧ a < localBase ∧ covered (s.b.ctx p.ctx) a (accSize acc) = true ∧ a % accSize acc ≠ 0) ∧
    (∃ (s : State), ∃ (core : Nat), ∃ (a : Nat), ∃ (p : Prog), ∃ (n : Nat), s.b.mayIssue core = some p ∧ a < localBase ∧ covered (s.b.ctx p.ctx) a n = true ∧ a % n = 0 ∧ access (s.b.ctx p.ctx) (progIssuer core p) false a n = .ok) ∧
    (∃ (s : State), ∃ (core : Nat), ∃ (a : Nat), ∃ (p : Prog), ∃ (n : Nat), s.b.mayIssue core = some p ∧ a < localBase ∧ covered (s.b.ctx p.ctx) a n = true ∧ a % n = 0 ∧ access (s.b.ctx p.ctx) (progIssuer core p) true a n = .ok ∧ s.canWrite p.ctx a n = true ∧ (s.b.ctx p.ctx).hrv.cap = none ∧ (s.b.rkOf core).resv = some (p.ctx, a / 64)) :=
  ⟨⟨wMem, 0, wLocal, wP, RkAccess.load 8 false 5, by decide +kernel⟩,
   ⟨wMem, 0, 0xFFFFFFFFFFFFFFFF, wP, RkAccess.load 1 false 5, by decide +kernel⟩,
   ⟨wMem, 0, 4 * granBytes, wP, RkAccess.load 8 false 5, by decide +kernel⟩,
   ⟨wMem, 0, 65, wP, RkAccess.load 8 false 5, by decide +kernel⟩,
   ⟨wMem, 0, 4 * granBytes - 8, wP, 8, by decide +kernel⟩,
   ⟨wRk fun k => { k with resv := some (7, 1) }, 0, 64, wP, 8, by decide +kernel⟩⟩

theorem test_meets_RakerAccesses_2 :
    (∃ (s : State), ∃ (core : Nat), ∃ (a : Nat), ∃ (p : Prog), ∃ (n : Nat), s.b.mayIssue core = some p ∧ a < localBase ∧ covered (s.b.ctx p.ctx) a n = true ∧ a % n = 0 ∧ access (s.b.ctx p.ctx) (progIssuer core p) true a n = .ok ∧ s.canWrite p.ctx a n = true ∧ (s.b.ctx p.ctx).hrv.cap = none ∧ (s.b.rkOf core).resv ≠ some (p.ctx, a / 64)) ∧
    (∃ (s : State), ∃ (core : Nat), ∃ (a : Nat), ∃ (p : Prog), ∃ (n : Nat), s.b.mayIssue core = some p ∧ a < localBase ∧ covered (s.b.ctx p.ctx) a n = true ∧ a % n = 0 ∧ access (s.b.ctx p.ctx) (progIssuer core p) true a n = .ok ∧ s.canWrite p.ctx a n = true ∧ (s.b.ctx p.ctx).hrv.cap = none) :=
  ⟨⟨wMem, 0, 64, wP, 8, by decide +kernel⟩,
   ⟨wMem, 0, 4 * granBytes - 8, wP, 8, by decide +kernel⟩⟩

def wLaunch : Nat := 0xFF10 + 64 * 2^64
def wXs : Stream := { ctx := 7, seq := 5, addr := 0, off := 8, n := 100, db := 7, a := [64] }
def wEnc (op fmt vd vs1 vs2 vs3 mask lo : Nat) : Nat := op * 2^56 + fmt * 2^52 + vd * 2^47 + vs1 * 2^42 + vs2 * 2^37 + vs3 * 2^32 + mask * 2^29 + lo
def wVeN (n : Nat) (w : Nat) : State := { wMB fun b => { b with ve := [(0, { v := [(1, 0x3F8040004080), (2, 0x3F8000004080), (9, 7)], vl := 3, n := n, run := some wXs, a := [(0, 64)] })], ctxs := [(7, { wCtx with open_ := [(5, {})] })] } with mem := memWriteBytes [] (memKey 7 8) (leBytes 8 w) }
def wVe (w : Nat) : State := wVeN 40 w
def wVeA (w : Nat) : State := (wVe w).setB { (wVe w).b with ve := [(0, { v := [(1, 5)], vl := 3, run := some wXs, a := [(0, 2^32)] })] }
theorem wSmall (r : Nat) : Tbl.get (([] : Tbl Nat)) 0 r < 2 ^ 8192 := Nat.two_pow_pos 8192
def wDesc (op stream winId winGen len addr off : Nat) : Nat := op + stream * 2^16 + winId * 2^32 + winGen * 2^48 + len * 2^64 + addr * 2^128 + off * 2^192
def wCollD (op group epoch src dst count root : Nat) (queue slots slotB table tc inB : Nat) : Nat :=
  op + group * 2^16 + epoch * 2^32 + src * 2^64 + dst * 2^128 + count * 2^192 + root * 2^256 + queue * 2^264 + slots * 2^272 + slotB * 2^288 + table * 2^320 + tc * 2^384 + inB * 2^448
def wColl (st : CollSt) : State := wNB fun b => { b with colls := [{ ctx := 7, group := 1, seq := 0, d := { op := 7, group := 1 }, st := st }], ctxs := [(7, { wNc with collSeq := [(1, 1)] })] }
def wStat (st : Option (Nat × Nat)) : State := wNB fun b => { b with strm := [(3, { known := true, msgs := [{ wMsg with status := st }] })] }
def wMc (p : Pan) (m : Mc) : State := wMB fun b => Blk.setSt { b with mc := [(p, m)] } p .ready
def wCal (m : Mc) : State := (wMc wMcp m).setB ((wMc wMcp m).b.setSt wMcp .calib)
def wSlu (f : Sluice → Sluice) : State := (wMB fun b => b.setSts allMC .ready) |> fun s => s.setB { s.b with slu := f s.b.slu, ve := [(0, { run := some { ctx := 7, seq := 1, addr := 0 } })] }
def wRest : Gran := { rest := .t1 0 }
def wTwo (u : Sluice) : Sluice := { u with map := [(granKey 7 0, wGran), (granKey 7 1, wRest)] }
def wBusy : List Mig := (List.range 256).map fun i => { ctx := 9, gran := i, kind := .writeBack 3 }

theorem test_meets_VectorStreams :
    (∃ (s : State), ∃ (core : Nat), ∃ (rs1 : Nat), ∃ (ve : Nat), ∃ (n : Nat), ∃ (p : Prog), s.b.mayIssue core = some p ∧ recordAddrOk rs1 = true ∧ n = s.b.rkNat core rs1 128 ∧ (s.b.ctx p.ctx).open_.length < 4096 ∧ launchCheck n = none ∧ s.b.launchVe p.ctx (launchRec n) = some ve ∧ veRoom (s.b.veOf ve) = true ∧ s.b.pend = []) ∧
    (∃ (s : State), ∃ (core : Nat), ∃ (rs1 : Nat), ∃ (n : Nat), ∃ (p : Prog), ∃ cause, s.b.mayIssue core = some p ∧ recordAddrOk rs1 = true ∧ n = s.b.rkNat core rs1 128 ∧ (s.b.ctx p.ctx).open_.length < 4096 ∧ launchCheck n = some cause ∧ s.b.pend = []) ∧
    (∃ (s : State), ∃ (ve : Nat), ∃ (x : Stream), (s.b.veOf ve).run = none ∧ (s.b.veOf ve).next = some x ∧ s.b.works (vePan ve) = true) ∧
    (∃ (s : State), ∃ (ve : Nat), ∃ (x : Stream), (s.b.veOf ve).run = some x ∧ x.ended = true ∧ s.b.pend = [] ∧ (∀ e ∈ s.b.ctxs, ∀ h ∈ e.2.handles, h.2.held = [])) :=
  ⟨⟨wRk fun k => { k with loc := wLoc 128 wLaunch }, 0, wLocal, 0, wLaunch, wP, by decide +kernel⟩,
   ⟨wMem, 0, wLocal, 0, wP, cCmdOp, by decide +kernel⟩,
   ⟨wMB fun b => { b with ve := [(0, { next := some wXs })] }, 0, wXs, by decide +kernel⟩,
   ⟨wMB fun b => { b with ve := [(0, { run := some { wXs with ended := true } })] }, 0, { wXs with ended := true }, wJ3 (by decide +kernel) (wNoHeld (by decide +kernel))⟩⟩

theorem test_meets_VectorControl :
    (∃ (s : State), ∃ (ve : Nat), ∃ (x : Stream), ∃ (i : VeIns), ∃ (g : Nat), ∃ (vlmax : Nat), ∃ (want : Nat), VeFetches s ve x i ∧ i.op = oSetvl ∧ veFmtCheck i = none ∧ g = 2 ^ bits i.lo 23 2 ∧ vlmax = (if mxCode i.fmt then min 1024 (g * 8192 / codeWidth i.fmt) / 32 * 32 else min 1024 (g * 8192 / codeWidth i.fmt)) ∧ want = (if bitAt i.lo 25 then (s.b.veOf ve).n else bits i.lo 0 11)) ∧
    (∃ (s : State), ∃ (ve : Nat), ∃ (x : Stream), ∃ (i : VeIns), VeFetches s ve x i ∧ i.op = oLoop ∧ (s.b.veOf ve).n = 0) ∧
    (∃ (s : State), ∃ (ve : Nat), ∃ (x : Stream), ∃ (i : VeIns), ∃ off, VeFetches s ve x i ∧ i.op = oLoop ∧ (s.b.veOf ve).n ≠ 0 ∧ off < 2 ^ 64 ∧ (off + 8 * bits i.lo 0 16) % 2 ^ 64 = x.off % 2 ^ 64) ∧
    (∃ (s : State), ∃ (ve : Nat), ∃ (x : Stream), ∃ (i : VeIns), VeFetches s ve x i ∧ i.op = oEnd) :=
  ⟨⟨wVe (wEnc 1 1 0 0 0 0 0 (2^25)), 0, wXs, veIns (wEnc 1 1 0 0 0 0 0 (2^25)), 1, 512, 40, (by constructor <;> decide +kernel), by decide +kernel⟩,
   ⟨wVeN 0 (wEnc 2 0 0 0 0 0 0 1), 0, wXs, veIns (wEnc 2 0 0 0 0 0 0 1), (by constructor <;> decide +kernel), by decide +kernel⟩,
   ⟨wVe (wEnc 2 0 0 0 0 0 0 1), 0, wXs, veIns (wEnc 2 0 0 0 0 0 0 1), 0, (by constructor <;> decide +kernel), by decide +kernel⟩,
   ⟨wVe (wEnc 3 0 0 0 0 0 0 0), 0, wXs, veIns (wEnc 3 0 0 0 0 0 0 0), (by constructor <;> decide +kernel), by decide +kernel⟩⟩

theorem test_meets_VectorRegisters :
    (∃ (s : State), ∃ (ve : Nat), ∃ (x : Stream), ∃ (i : VeIns), ∃ (c : Instr), ∃ (op : Nat), ∃ (f : Ve → VeIns → Ve × NumFlags), (c, op, f) ∈ [(Instr.add ve, oAdd, vAdd), (.mul ve, oMul, vMul), (.fma ve, oFma, vFma), (.min ve, oMin, vMinMax true), (.max ve, oMax, vMinMax false), (.cmp ve, oCmp, vCmp), (.sel ve, oSel, vSel), (.cvt ve, oCvt, fun v i => vCvt v i (Config.freeNat (s.b.freeCtr + 1))), (.perm ve, oPerm, vPerm), (.bcast ve, oBcast, vBcast), (.rsum ve, oRsum, vSum), (.rsumsq ve, oRsumsq, vSum), (.rmax ve, oRmax, vExt false), (.rmin ve, oRmin, vExt true), (.upd ve, oUpd, fun v i => vUpd v i (s.b.ctx x.ctx).rec_.seed (s.b.ctx x.ctx).step (s.b.ctx x.ctx).pos (Config.freeNat (s.b.freeCtr + 1)))] ∧ VeFetches s ve x i ∧ i.op = op ∧ veFmtCheck i = none) ∧
    (∃ (s : State), ∃ (ve : Nat), ∃ (x : Stream), ∃ (i : VeIns), ∃ (c : Instr), ∃ (op : Nat), ∃ (f : Ve → VeIns → Ve × NumFlags), ∃ cause, (c, op, f) ∈ [(Instr.add ve, oAdd, vAdd), (.mul ve, oMul, vMul), (.fma ve, oFma, vFma), (.min ve, oMin, vMinMax true), (.max ve, oMax, vMinMax false), (.cmp ve, oCmp, vCmp), (.sel ve, oSel, vSel), (.cvt ve, oCvt, fun v i => vCvt v i (Config.freeNat (s.b.freeCtr + 1))), (.perm ve, oPerm, vPerm), (.bcast ve, oBcast, vBcast), (.rsum ve, oRsum, vSum), (.rsumsq ve, oRsumsq, vSum), (.rmax ve, oRmax, vExt false), (.rmin ve, oRmin, vExt true), (.upd ve, oUpd, fun v i => vUpd v i (s.b.ctx x.ctx).rec_.seed (s.b.ctx x.ctx).step (s.b.ctx x.ctx).pos (Config.freeNat (s.b.freeCtr + 1)))] ∧ VeFetches s ve x i ∧ i.op = op ∧ veFmtCheck i = some cause ∧ s.b.pend = [] ∧ (s.b.ctx x.ctx).st = .active) :=
  ⟨⟨wVe (wEnc 0x10 1 3 1 2 0 0 0), 0, wXs, veIns (wEnc 0x10 1 3 1 2 0 0 0), Instr.add 0, oAdd, vAdd, .head _, (by constructor <;> decide +kernel), by decide +kernel⟩,
   ⟨wVe (wEnc 0x10 6 3 1 2 0 0 0), 0, wXs, veIns (wEnc 0x10 6 3 1 2 0 0 0), Instr.add 0, oAdd, vAdd, cFmtRole, .head _, (by constructor <;> decide +kernel), by decide +kernel⟩⟩

theorem test_meets_VectorElements :
    (∃ (v : Ve), ∃ (i : VeIns), ∃ (w : Nat), ∃ n, w = codeWidth i.fmt ∧ v.vl ≤ 1024 ∧ i.vd < 32 ∧ (∀ r, v.v.get 0 r < 2 ^ 8192) ∧ v.vl ≤ n ∧ (n + 1) * w ≤ groupSize v.vl w * 8192) ∧
    (∃ (v : Ve), ∃ (i : VeIns), ∃ (w : Nat), ∃ r, w = codeWidth i.fmt ∧ v.vl ≤ 1024 ∧ i.vd < 32 ∧ (∀ r, v.v.get 0 r < 2 ^ 8192) ∧ (r < i.vd ∨ i.vd + groupSize v.vl w ≤ r)) ∧
    (∃ (v : Ve), ∃ (i : VeIns), ∃ (f : Nat → Nat × NumFlags), ∃ (w : Nat), w = codeWidth i.fmt ∧ v.vl ≤ 1024 ∧ i.vd < 32 ∧ (∀ r, v.v.get 0 r < 2 ^ 8192) ∧ (∀ n, n < v.vl → activeEl v i.mask n = true → (f n).2 = noFlags)) ∧
    (∃ (v : Ve), ∃ (i : VeIns), ∃ (w : Nat), ∃ n, w = codeWidth i.fmt ∧ v.vl ≤ 1024 ∧ i.vd < 32 ∧ (∀ r, v.v.get 0 r < 2 ^ 8192) ∧ n < v.vl ∧ activeEl v i.mask n = true) :=
  ⟨⟨{ vl := 3 }, veIns (wEnc 0x10 1 31 1 2 0 0 0), 16, 511, wJ3 (by decide +kernel) ⟨wSmall, by decide +kernel⟩⟩,
   ⟨{ vl := 3 }, veIns (wEnc 0x10 1 31 1 2 0 0 0), 16, 30, wJ3 (by decide +kernel) ⟨wSmall, by decide +kernel⟩⟩,
   ⟨{ vl := 3 }, veIns (wEnc 0x10 1 31 1 2 0 0 0), (fun _ => (5, noFlags)), 16, wJ3 (by decide +kernel) ⟨wSmall, (fun _ _ _ => rfl)⟩⟩,
   ⟨{ vl := 3 }, veIns (wEnc 0x10 1 31 1 2 0 0 0), 16, 2, wJ3 (by decide +kernel) ⟨wSmall, by decide +kernel⟩⟩⟩

theorem test_meets_VectorCompare :
    (∃ (v : Ve), ∃ (i : VeIns), ∃ (n : Nat), ∃ (x : Val), ∃ (y : Val), ∃ (p : Bool), i.op = oCmp ∧ n < v.vl ∧ activeEl v i.mask n = true ∧ x = (srcVal v i i.vs1 n).1 ∧ y = (srcVal v i i.vs2 n).1 ∧ (predOf i = 0 → p = eqV x y) ∧ (predOf i = 1 → p = !eqV x y) ∧ (predOf i = 2 → p = ltV x y) ∧ (predOf i = 3 → p = (ltV x y || eqV x y)) ∧ (predOf i = 4 → p = ltV y x) ∧ (predOf i = 5 → p = (ltV y x || eqV x y)) ∧ (predOf i = 6 → p = (isNanV x || isNanV y)) ∧ predOf i ≠ 7) ∧
    (∃ (i : VeIns), i.op = oCmp) ∧
    (∃ (i : VeIns), i.op = oCmp ∧ predOf i = 7) :=
  ⟨⟨{ vl := 3 }, veIns (wEnc 0x15 1 3 1 2 0 0 0), 2, (srcVal { vl := 3 } (veIns (wEnc 0x15 1 3 1 2 0 0 0)) 1 2).1, (srcVal { vl := 3 } (veIns (wEnc 0x15 1 3 1 2 0 0 0)) 2 2).1, true, by decide +kernel⟩,
   ⟨veIns (wEnc 0x15 1 3 1 2 0 0 0), by decide +kernel⟩,
   ⟨veIns (wEnc 0x15 1 3 1 2 0 0 (7 * 2^23)), by decide +kernel⟩⟩

theorem test_meets_VectorMemory :
    (∃ (s : State), ∃ (ve : Nat), ∃ (x : Stream), ∃ (i : VeIns), ∃ (v : Ve), VeFetches s ve x i ∧ v = s.b.veOf ve ∧ i.op = oLd ∧ veMemCheck (s.b.ctx x.ctx) x v i false = .ok ∧ s.b.staged x.ctx (ve / 4) ((activeEls v i).map fun n => (elemAddr v i n, codeSize i.fmt)) = true) ∧
    (∃ (s : State), ∃ (ve : Nat), ∃ (x : Stream), ∃ (i : VeIns), ∃ (v : Ve), VeFetches s ve x i ∧ v = s.b.veOf ve ∧ i.op = oSt ∧ veMemCheck (s.b.ctx x.ctx) x v i true = .ok ∧ activeEls v i ≠ [] ∧ (s.b.ctx x.ctx).hrv.cap = none ∧ (∀ g ∈ rangeGrans ((activeEls v i).map fun n => (elemAddr v i n, codeSize i.fmt)), s.b.stReady x.ctx (ve / 4) g = true)) ∧
    (∃ (s : State), ∃ (ve : Nat), ∃ (x : Stream), ∃ (i : VeIns), ∃ (v : Ve), ∃ c, ∃ op, ∃ w, ∃ cause, ∃ a, ∃ hub, VeFetches s ve x i ∧ v = s.b.veOf ve ∧ (c, op, w) ∈ [(Instr.ld ve, oLd, false), (.st ve, oSt, true)] ∧ i.op = op ∧ veMemCheck (s.b.ctx x.ctx) x v i w = .fault cause a hub ∧ s.b.pend = [] ∧ (s.b.ctx x.ctx).st = .active) :=
  ⟨⟨wVe (wEnc 0x30 1 3 0 0 0 0 (1*2^22)), 0, wXs, veIns (wEnc 0x30 1 3 0 0 0 0 (1*2^22)), ((wVe (wEnc 0x30 1 3 0 0 0 0 (1*2^22))).b.veOf 0), (by constructor <;> decide +kernel), by decide +kernel⟩,
   ⟨wVe (wEnc 0x31 1 0 1 0 0 0 (1*2^22)), 0, wXs, veIns (wEnc 0x31 1 0 1 0 0 0 (1*2^22)), ((wVe (wEnc 0x31 1 0 1 0 0 0 (1*2^22))).b.veOf 0), (by constructor <;> decide +kernel), by decide +kernel⟩,
   ⟨wVeA (wEnc 0x31 1 0 1 0 0 0 (1*2^22)), 0, wXs, veIns (wEnc 0x31 1 0 1 0 0 0 (1*2^22)), ((wVeA (wEnc 0x31 1 0 1 0 0 0 (1*2^22))).b.veOf 0), Instr.st 0, oSt, true, cAddrRange, 2^32, false, (by constructor <;> decide +kernel), by decide +kernel⟩⟩

theorem test_meets_SkeyrCalls :
    (∃ (s : State), ∃ (core : Nat), ∃ (pc : Nat), ∃ (a0 : Nat), ∃ (p : Prog), ∃ (d : SkyDesc), ∃ c, ∃ op, s.b.mayIssue core = some p ∧ d = skyDesc (s.b.rkNat core a0 64) ∧ (c, op) ∈ [(Instr.skeyrWrite core pc a0, tWrite), (.skeyrRead core pc a0, tRead), (.skeyrFlush core pc a0, tFlush)] ∧ a0 % 64 = 0 ∧ inUserLocal a0 64 = true ∧ s.b.skyDescOk p.ctx d = true ∧ d.op = op ∧ s.b.outboundOn (homeDie d.stream) < 8192 ∧ (op = tFlush ∨ access (s.b.ctx p.ctx) (progIssuer core p) (decide (op = tRead)) d.addr d.len = .ok)) ∧
    (∃ (s : State), ∃ (core : Nat), ∃ (pc : Nat), ∃ (a0 : Nat), ∃ (p : Prog), ∃ (d : SkyDesc), ∃ c, ∃ op, s.b.mayIssue core = some p ∧ d = skyDesc (s.b.rkNat core a0 64) ∧ (c, op) ∈ [(Instr.skeyrWrite core pc a0, tWrite), (.skeyrRead core pc a0, tRead), (.skeyrFlush core pc a0, tFlush)] ∧ (a0 % 64 ≠ 0 ∨ inUserLocal a0 64 = false ∨ s.b.skyDescOk p.ctx d = false)) ∧
    (∃ (s : State), ∃ (core : Nat), ∃ (pc : Nat), ∃ (a0 : Nat), ∃ (p : Prog), ∃ (d : SkyDesc), ∃ c, ∃ op, s.b.mayIssue core = some p ∧ d = skyDesc (s.b.rkNat core a0 64) ∧ (c, op) ∈ [(Instr.skeyrWrite core pc a0, tWrite), (.skeyrRead core pc a0, tRead), (.skeyrFlush core pc a0, tFlush)] ∧ a0 % 64 = 0 ∧ inUserLocal a0 64 = true ∧ s.b.skyDescOk p.ctx d = true ∧ d.op = op ∧ op ≠ tFlush ∧ s.b.outboundOn (homeDie d.stream) < 8192 ∧ covered (s.b.ctx p.ctx) d.addr d.len = false) ∧
    (∃ (s : State), ∃ (core : Nat), ∃ (a0 : Nat), ∃ (p : Prog), ∃ (d : SkyDesc), ∃ v, s.b.mayIssue core = some p ∧ d = skyDesc (s.b.rkNat core a0 64) ∧ s.b.msgStatus p.ctx a0 = some v) ∧
    (∃ (s : State), ∃ (core : Nat), ∃ (a0 : Nat), ∃ (p : Prog), ∃ (d : SkyDesc), s.b.mayIssue core = some p ∧ d = skyDesc (s.b.rkNat core a0 64) ∧ s.b.msgStatus p.ctx a0 = none) :=
  ⟨⟨wNl (wDesc 1 3 2 4 5000 0 64), 0, 0, wLocal, wP, skyDesc (wDesc 1 3 2 4 5000 0 64), Instr.skeyrWrite 0 0 wLocal, tWrite, by decide +kernel⟩,
   ⟨wNet, 0, 0, wLocal, wP, skyDesc 0, Instr.skeyrFlush 0 0 wLocal, tFlush, by decide +kernel⟩,
   ⟨wNl (wDesc 2 3 2 4 5000 0x1000000 64), 0, 0, wLocal, wP, skyDesc (wDesc 2 3 2 4 5000 0x1000000 64), Instr.skeyrRead 0 0 wLocal, tRead, by decide +kernel⟩,
   ⟨wStat (some (0, 0)), 0, msgIdOf 3 6, wP, skyDesc ((wStat none).b.rkNat 0 (msgIdOf 3 6) 64), 0, by decide +kernel⟩,
   ⟨wStat none, 0, msgIdOf 3 6, wP, skyDesc ((wStat none).b.rkNat 0 (msgIdOf 3 6) 64), by decide +kernel⟩⟩

theorem test_meets_CollectiveCalls :
    (∃ (s : State), ∃ (core : Nat), ∃ (pc : Nat), ∃ (a0 : Nat), ∃ (n : Nat), ∃ (p : Prog), ∃ (d : CollDesc), ∃ (g : GroupRec), ∃ c, ∃ op, s.b.mayIssue core = some p ∧ n = s.b.rkNat core a0 64 ∧ d = collDesc n ∧ (c, op) ∈ [(Instr.allReduce core pc a0, 1), (.reduceScatter core pc a0, 2), (.allGather core pc a0, 3), (.allToAll core pc a0, 4), (.broadcast core pc a0, 5), (.permute core pc a0, 6), (.barrier core pc a0, 7), (.qsend core pc a0, 8), (.qrecv core pc a0, 9)] ∧ a0 % 64 = 0 ∧ inUserLocal a0 64 = true ∧ collRsvOk n = true ∧ s.b.groupOf d.group = some g ∧ collFieldsOk d g.members.length = true ∧ s.b.groupReach p.ctx g = true ∧ rangesMeet (collRanges d g.members.length (s.b.rankIn g)).1 (collRanges d g.members.length (s.b.rankIn g)).2 = false ∧ (op = 6 → ∀ x ∈ s.permTable p.ctx d, x.ok = true ∧ x.rank < g.members.length ∧ ∀ y ∈ s.permTable p.ctx d, y.rank = s.b.rankIn g → rangesMeet (d.src + x.srcOff, x.len) (d.dst + y.dstOff, y.len) = false) ∧ d.op = op ∧ s.b.epochRule p.ctx d ≠ .bad ∧ s.collAccess (progIssuer core p) p.ctx d g.members.length (s.b.rankIn g) = none ∧ (s.b.epochRule p.ctx d ≠ .old → s.b.collRoom s.b.collDie < 64) ∧ s.b.findColl p.ctx d.group ((s.b.ctx p.ctx).collSeq.get 0 d.group) = none) ∧
    (∃ (s : State), ∃ (core : Nat), ∃ (pc : Nat), ∃ (a0 : Nat), ∃ (n : Nat), ∃ (p : Prog), ∃ (d : CollDesc), ∃ (g : GroupRec), ∃ c, ∃ op, s.b.mayIssue core = some p ∧ n = s.b.rkNat core a0 64 ∧ d = collDesc n ∧ (c, op) ∈ [(Instr.allReduce core pc a0, 1), (.reduceScatter core pc a0, 2), (.allGather core pc a0, 3), (.allToAll core pc a0, 4), (.broadcast core pc a0, 5), (.permute core pc a0, 6), (.barrier core pc a0, 7), (.qsend core pc a0, 8), (.qrecv core pc a0, 9)] ∧ (a0 % 64 ≠ 0 ∨ inUserLocal a0 64 = false ∨ collRsvOk n = false ∨ s.b.groupOf d.group = none ∨ s.b.epochRule p.ctx d = .bad ∨ (∃ g, s.b.groupOf d.group = some g ∧ rangesMeet (collRanges d g.members.length (s.b.rankIn g)).1 (collRanges d g.members.length (s.b.rankIn g)).2 = true)) ∧ d.op = op) ∧
    (∃ (s : State), ∃ (core : Nat), ∃ (a0 : Nat), ∃ (n : Nat), ∃ (p : Prog), ∃ (d : CollDesc), ∃ v, s.b.mayIssue core = some p ∧ n = s.b.rkNat core a0 64 ∧ d = collDesc n ∧ s.b.collStatus p.ctx a0 = some v) ∧
    (∃ (s : State), ∃ (core : Nat), ∃ (a0 : Nat), ∃ (n : Nat), ∃ (p : Prog), ∃ (d : CollDesc), s.b.mayIssue core = some p ∧ n = s.b.rkNat core a0 64 ∧ d = collDesc n ∧ s.b.collStatus p.ctx a0 = none) :=
  ⟨⟨wNl (wCollD 6 1 1 0 4096 0 0 0 0 0 8192 1 64), 0, 0, wLocal, wCollD 6 1 1 0 4096 0 0 0 0 0 8192 1 64, wP, collDesc (wCollD 6 1 1 0 4096 0 0 0 0 0 8192 1 64), wGrp, Instr.permute 0 0 wLocal, 6, by decide +kernel⟩,
   ⟨wNl (wCollD 7 5 0 0 0 0 0 0 0 0 0 0 0), 0, 0, wLocal, wCollD 7 5 0 0 0 0 0 0 0 0 0 0 0, wP, collDesc (wCollD 7 5 0 0 0 0 0 0 0 0 0 0 0), {}, Instr.barrier 0 0 wLocal, 7, wJ4 (by decide +kernel) ⟨Or.inr (Or.inr (Or.inr (Or.inl (by decide +kernel)))), by decide +kernel⟩⟩,
   ⟨wColl .done, 0, 1, (wColl .done).b.rkNat 0 1 64, wP, collDesc ((wColl .done).b.rkNat 0 1 64), (0, none), by decide +kernel⟩,
   ⟨wColl .running, 0, 1, (wColl .done).b.rkNat 0 1 64, wP, collDesc ((wColl .done).b.rkNat 0 1 64), by decide +kernel⟩⟩

theorem test_meets_MemoryLines :
    (∃ (s : State), ∃ (mc : Nat), ∃ (line : Nat), ∃ (wrong : List Nat), ∃ (m : Mc), m = s.b.mcOf mc ∧ s.b.mcWorks mc = true ∧ m.inCalib = false ∧ line ∈ m.recheck ∧ wrongNow m line wrong = []) ∧
    (∃ (s : State), ∃ (mc : Nat), ∃ (line : Nat), ∃ (wrong : List Nat), ∃ (m : Mc), ∃ sym, m = s.b.mcOf mc ∧ s.b.mcWorks mc = true ∧ m.inCalib = false ∧ line ∈ m.recheck ∧ wrongNow m line wrong = [sym]) ∧
    (∃ (s : State), ∃ (mc : Nat), ∃ (line : Nat), ∃ (wrong : List Nat), ∃ (m : Mc), m = s.b.mcOf mc ∧ s.b.mcWorks mc = true ∧ m.inCalib = false ∧ line ∉ m.recheck ∧ wrongNow m line wrong = []) ∧
    (∃ (s : State), ∃ (mc : Nat), ∃ (line : Nat), ∃ (wrong : List Nat), ∃ (m : Mc), ∃ sym, ∃ ls, m = s.b.mcOf mc ∧ s.b.mcWorks mc = true ∧ m.inCalib = false ∧ line ∉ m.recheck ∧ wrongNow m line wrong = [sym] ∧ ls = (if (m.ceLane.get [] sym).contains line then m.ceLane.get [] sym else m.ceLane.get [] sym ++ [line])) ∧
    (∃ (s : State), ∃ (mc : Nat), ∃ (line : Nat), ∃ (wrong : List Nat), ∃ (owner : LineOwner), ∃ (m : Mc), ∃ x, ∃ y, ∃ c, m = s.b.mcOf mc ∧ s.b.mcWorks mc = true ∧ m.inCalib = false ∧ line ∉ m.recheck ∧ wrongNow m line wrong = [x, y] ∧ m.ueLines.length < 16 ∧ (owner = .context c ∨ owner = .linkSram c) ∧ (s.b.ctx c).st = .active) ∧
    (∃ (s : State), ∃ (mc : Nat), ∃ (line : Nat), ∃ (wrong : List Nat), ∃ (owner : LineOwner), ∃ (m : Mc), ∃ x, ∃ y, m = s.b.mcOf mc ∧ s.b.mcWorks mc = true ∧ m.inCalib = false ∧ line ∉ m.recheck ∧ wrongNow m line wrong = [x, y] ∧ m.ueLines.length < 16 ∧ owner = .free) :=
  ⟨⟨wMc wMcp { recheck := [9] }, wMcp, 9, [], { recheck := [9] }, by decide +kernel⟩,
   ⟨wMc wMcp { recheck := [9] }, wMcp, 9, [4], { recheck := [9] }, 4, by decide +kernel⟩,
   ⟨wMc wMcp {}, wMcp, 9, [], {}, by decide +kernel⟩,
   ⟨wMc wMcp {}, wMcp, 9, [4], {}, 4, [9], by decide +kernel⟩,
   ⟨wMc wMcp { ueLines := (List.range 15).map (· + 50) }, wMcp, 9, [4, 5], LineOwner.context 7, { ueLines := (List.range 15).map (· + 50) }, 4, 5, 7, by decide +kernel⟩,
   ⟨wMc wMcp {}, wMcp, 9, [4, 5], LineOwner.free, {}, 4, 5, by decide +kernel⟩⟩

theorem test_meets_RakeAndCalibration :
    (∃ (s : State), ∃ (mc : Nat), ∃ (line : Nat), ∃ (m : Mc), ∃ (wrong : List Nat), m = s.b.mcOf mc ∧ isMc mc = true ∧ m.rakeActive = true ∧ m.inCalib = false ∧ s.b.works mc = true ∧ mcKind mc ≤ 3 ∧ line ∉ m.recheck ∧ m.passLate = false ∧ line = m.passLines ∧ wrongNow m line wrong = []) ∧
    (∃ (s : State), ∃ (mc : Nat), ∃ (line : Nat), ∃ (m : Mc), ∃ (wrong : List Nat), ∃ sym, m = s.b.mcOf mc ∧ isMc mc = true ∧ m.rakeActive = true ∧ m.inCalib = false ∧ s.b.works mc = true ∧ mcKind mc ≤ 3 ∧ line ∉ m.recheck ∧ m.passLate = false ∧ line = m.passLines ∧ wrongNow m line wrong = [sym]) ∧
    (∃ (s : State), ∃ (mc : Nat), ∃ (line : Nat), ∃ (m : Mc), m = s.b.mcOf mc ∧ isMc mc = true ∧ m.rakeActive = true ∧ m.inCalib = false ∧ s.b.works mc = true ∧ mcKind mc = 4 ∧ m.passLate = false ∧ line = m.passLines ∧ m.passLines + 1 < mcLines mc) ∧
    (∃ (s : State), ∃ (mc : Nat), ∃ (m : Mc), m = s.b.mcOf mc ∧ isMc mc = true ∧ mcKind mc ≠ 5 ∧ s.b.past m.passAt (rakeNs mc m) = true ∧ m.passLate = false ∧ m.rakeActive = true) ∧
    (∃ (s : State), ∃ (mc : Nat), ∃ (m : Mc), m = s.b.mcOf mc ∧ isMc mc = true ∧ mcKind mc ≠ 5 ∧ s.b.past m.passAt (rakeNs mc m) = true ∧ m.passLate = false ∧ m.rakeActive = false) ∧
    (∃ (s : State), ∃ (mc : Nat), ∃ (m : Mc), m = s.b.mcOf mc ∧ isMc mc = true ∧ m.inCalib = true ∧ (s.b.panSt mc).st = .calib ∧ s.b.rateChanges mc = false ∧ m.fails < 2) :=
  ⟨⟨wMc wMcp { rakeActive := true, passLines := 9 }, wMcp, 9, { rakeActive := true, passLines := 9 }, [], by decide +kernel⟩,
   ⟨wMc wMcp { rakeActive := true, passLines := 9 }, wMcp, 9, { rakeActive := true, passLines := 9 }, [4], 4, by decide +kernel⟩,
   ⟨wMc wFlash { rakeActive := true }, wFlash, 0, { rakeActive := true }, by decide +kernel⟩,
   ⟨wMc wMcp { rakeActive := true }, wMcp, { rakeActive := true }, by decide +kernel⟩,
   ⟨wMc wMcp {}, wMcp, {}, by decide +kernel⟩,
   ⟨wCal { inCalib := true, fails := 1 }, wMcp, { inCalib := true, fails := 1 }, by decide +kernel⟩⟩

theorem test_meets_RakeAndCalibration_2 :
    (∃ (s : State), ∃ (mc : Nat), ∃ (m : Mc), m = s.b.mcOf mc ∧ isMc mc = true ∧ m.inCalib = true ∧ (s.b.panSt mc).st = .calib ∧ s.b.rateChanges mc = false ∧ 2 ≤ m.fails) ∧
    (∃ (s : State), ∃ (mc : Nat), ∃ (m : Mc), ∃ n, m = s.b.mcOf mc ∧ isMc mc = true ∧ s.b.slotDue = some n ∧ s.b.firstDue n s.b.cfg.mod.calPhase rankCalib = true ∧ s.b.works mc = true ∧ mc ∈ slotMcs (n / s.b.cfg.mod.calEvery) ∧ m.rowDue = [] ∧ m.laneDue = []) :=
  ⟨⟨wCal { inCalib := true, fails := 2 }, wMcp, { inCalib := true, fails := 2 }, by decide +kernel⟩,
   ⟨(wB fun b => { b with cfg := { b.cfg with mod := { b.cfg.mod with calEvery := 1, calPhase := 0 } } }) |> fun s => s.setB (s.b.setSts (slotMcs 5) .ready), leafPan dFD kMC 5, {}, 5, by decide +kernel⟩⟩

theorem test_meets_Migrations :
    (∃ (s : State), ∃ (ctx : Nat), ∃ (g : Nat), ∃ (die : Nat), ∃ pf, s.b.stageOk ctx g die pf = true ∧ s.b.slotNow = true ∧ 0 < s.b.freeSram die) ∧
    (∃ (s : State), ∃ (ctx : Nat), ∃ (g : Nat), ∃ (die : Nat), ∃ pf, s.b.stageOk ctx g die pf = true ∧ s.b.slotNow = false ∧ (∀ y ∈ s.b.slu.stalls, y.ctx ≠ ctx)) ∧
    (∃ (s : State), ∃ (ctx : Nat), ∃ (g : Nat), ∃ (die : Nat), ∃ pf, s.b.stageOk ctx g die pf = true ∧ s.b.slotNow = true ∧ s.b.freeSram die = 0 ∧ s.b.stagedVictim die = none ∧ s.b.workVictim die = none ∧ (∀ y ∈ s.b.slu.stalls, y.ctx ≠ ctx)) ∧
    (∃ (s : State), ∃ (ctx : Nat), ∃ (g : Nat), ∃ (die : Nat), ∃ (x : Gran), ∃ (m : Mig), s.b.gran ctx g = some x ∧ (s.b.slu.migs.find? fun m => m.ctx = ctx && m.gran = g && (match m.kind with | .stage d _ => d = die | _ => false)) = some m ∧ s.b.placeCalib (.sram die) = false) ∧
    (∃ (s : State), ∃ (ctx : Nat), ∃ (g : Nat), ∃ (die : Nat), ∃ (x : Gran), ∃ (r : RegionRec), ctxLives (s.b.ctx ctx).st = true ∧ (s.b.ctx ctx).st ≠ .teardown ∧ (∀ m ∈ s.b.slu.migs, m.ctx ≠ ctx ∨ m.gran ≠ g) ∧ s.b.gran ctx g = some x ∧ regionAt (s.b.ctx ctx) (g * granBytes) = some r ∧ s.b.slotNow = true ∧ (∀ y ∈ s.b.slu.stalls, y.ctx ≠ ctx ∨ y.gran ≠ g) ∧ die < 4 ∧ x.work = none ∧ x.staged = [] ∧ s.b.placeWorks (.sram die) = true ∧ s.b.hasRoom (.work die) = true) ∧
    (∃ (s : State), ∃ (ctx : Nat), ∃ (g : Nat), ∃ (x : Gran), ∃ (r : RegionRec), ∃ d, ctxLives (s.b.ctx ctx).st = true ∧ (s.b.ctx ctx).st ≠ .teardown ∧ (∀ m ∈ s.b.slu.migs, m.ctx ≠ ctx ∨ m.gran ≠ g) ∧ s.b.gran ctx g = some x ∧ regionAt (s.b.ctx ctx) (g * granBytes) = some r ∧ s.b.slotNow = true ∧ (∀ y ∈ s.b.slu.stalls, y.ctx ≠ ctx ∨ y.gran ≠ g) ∧ x.work = some d) :=
  ⟨⟨wSlu wTwo, 7, 1, 0, false, by decide +kernel⟩,
   ⟨wSlu fun u => { wTwo u with migs := wBusy }, 7, 1, 0, false, by decide +kernel⟩,
   ⟨wSlu fun u => { u with map := [(granKey 7 1, wRest)], old := (List.range 512).map fun i => { ctx := 9, gran := i, place := .sram 0 } }, 7, 1, 0, false, by decide +kernel⟩,
   ⟨wSlu fun u => { wTwo u with migs := [{ ctx := 7, gran := 1, kind := .stage 0 false }] }, 7, 1, 0, wRest, { ctx := 7, gran := 1, kind := .stage 0 false }, by decide +kernel⟩,
   ⟨wSlu wTwo, 7, 1, 0, wRest, wReg, by decide +kernel⟩,
   ⟨wSlu wTwo, 7, 0, wGran, wReg, 0, by decide +kernel⟩⟩

theorem test_meets_Migrations_2 :
    (∃ (s : State), ∃ (ctx : Nat), ∃ (g : Nat), ∃ (x : Gran), ∃ (r : RegionRec), ∃ p, ctxLives (s.b.ctx ctx).st = true ∧ (s.b.ctx ctx).st ≠ .teardown ∧ (∀ m ∈ s.b.slu.migs, m.ctx ≠ ctx ∨ m.gran ≠ g) ∧ s.b.gran ctx g = some x ∧ regionAt (s.b.ctx ctx) (g * granBytes) = some r ∧ s.b.slotNow = true ∧ (∀ y ∈ s.b.slu.stalls, y.ctx ≠ ctx ∨ y.gran ≠ g) ∧ s.b.placeFree p = true ∧ s.b.placeWorks p = true ∧ p ≠ x.rest ∧ x.offloaded = false ∧ clsAllows (s.b.cls r.cls) (placeTier p) = true ∧ (s.b.cls r.cls).pin = false) ∧
    (∃ (s : State), ∃ (ctx : Nat), ∃ (g : Nat), ∃ (x : Gran), ∃ (r : RegionRec), ctxLives (s.b.ctx ctx).st = true ∧ (s.b.ctx ctx).st ≠ .teardown ∧ (∀ m ∈ s.b.slu.migs, m.ctx ≠ ctx ∨ m.gran ≠ g) ∧ s.b.gran ctx g = some x ∧ regionAt (s.b.ctx ctx) (g * granBytes) = some r ∧ s.b.slotNow = true ∧ (∀ y ∈ s.b.slu.stalls, y.ctx ≠ ctx ∨ y.gran ≠ g) ∧ x.offloaded = false ∧ (s.b.cls r.cls).pin = true ∧ clsAllows (s.b.cls r.cls) (placeTier x.rest) = true) ∧
    (∃ (s : State), ∃ (ctx : Nat), ∃ (g : Nat), ∃ (x : Gran), ∃ (m : Mig), ∃ (r : RegionRec), (s.b.slu.migs.find? fun m => m.ctx = ctx && m.gran = g && (match m.kind with | .stage _ _ => false | _ => true)) = some m ∧ s.b.gran ctx g = some x ∧ regionAt (s.b.ctx ctx) (g * granBytes) = some r ∧ s.b.placeCalib (migDst m.kind x.rest) = false ∧ s.b.writesIn ctx g = true) ∧
    (∃ (s : State), ∃ (ctx : Nat), ∃ (g : Nat), ∃ (x : Gran), ∃ (m : Mig), ∃ (r : RegionRec), (s.b.slu.migs.find? fun m => m.ctx = ctx && m.gran = g && (match m.kind with | .stage _ _ => false | _ => true)) = some m ∧ s.b.gran ctx g = some x ∧ regionAt (s.b.ctx ctx) (g * granBytes) = some r ∧ s.b.placeCalib (migDst m.kind x.rest) = false ∧ s.b.writesIn ctx g = false ∧ (∀ n, (s.b.ctx n).returning = false)) ∧
    (∃ (s : State), ∃ (ctx : Nat), ∃ (g : Nat), ∃ place, ∃ o, (s.b.slu.old.find? fun o => o.ctx = ctx && o.gran = g && o.place = place) = some o ∧ s.b.oldFree o = true ∧ (∀ n, (s.b.ctx n).returning = false)) :=
  ⟨⟨wSlu wTwo, 7, 1, wRest, wReg, Place.t1 3, by decide +kernel⟩,
   ⟨(wSlu wTwo).setB { (wSlu wTwo).b with cfg := { (wSlu wTwo).b.cfg with slu := { (wSlu wTwo).b.cfg.slu with classes := [{ pin := true }] } } }, 7, 1, wRest, wReg, by decide +kernel⟩,
   ⟨(wSlu fun u => { wTwo u with migs := [{ ctx := 7, gran := 0, kind := .writeBack 0 }] }) |> fun s => s.setB { s.b with pend := [{ who := .rk 0, ctx := 7, bytes := [(64, 9)] }] }, 7, 0, wGran, { ctx := 7, gran := 0, kind := .writeBack 0 }, wReg, by decide +kernel⟩,
   ⟨wSlu fun u => { wTwo u with migs := [{ ctx := 7, gran := 0, kind := .writeBack 0 }] }, 7, 0, wGran, { ctx := 7, gran := 0, kind := .writeBack 0 }, wReg, wJ5 (by decide +kernel) (wStay (by decide +kernel))⟩,
   ⟨wSlu fun u => { u with old := [{ ctx := 7, gran := 0, place := .sram 0 }] }, 7, 0, Place.sram 0, { ctx := 7, gran := 0, place := .sram 0 }, wJ2 (by decide +kernel) (wStay (by decide +kernel))⟩⟩

def wCtxS (c : Ctx) : State := wNB fun b => { b with ctxs := [(7, c)], rk := [] }
def wTr (cls lane : Nat) : Req := { cls := cls, ctx := 7, cost := 3, lane := lane }
def wOp (cls lane : Nat) : Req := { cls := cls, ctx := 7, cost := 1, lane := lane, mc := leafPan 8 kMC 0 }
def wOps (n rsv : Nat) : State := wB fun b => { b with slu := { b.slu with flight := List.replicate n { cls := 6, ctx := 7 } ++ List.replicate rsv { cls := 0, ctx := moduleCtx, lane := 4 } }, cfg := { b.cfg with slu := { b.cfg.slu with minOps := [0, 0, 0, 0, 0, 0, 9, 9] } } }
def wSt0 : StallReq := { n := 3, ctx := 7, gran := 1, kind := .stage 0 false, since := 4000000, wait := .sram }
def wEv : EventRec := { code := 0x5101, ctx := 7, sev := 2, pan := 5, tide := 4, phase := 3 }
def wEvQ : Req := { cls := 0, ctx := 7, cost := 1, what := .event wEv }
def wOffRec : OffloadRec := { tensor := 5, outTide := 1, backTide := 3 }
def wOffReg : RegionRec := { base := 0, granules := 2, cls := 3, tensorId := 5, layer := 0 }
def wOffCtx : Ctx := { wNc with rec_ := { wNc.rec_ with regions := [wOffReg], offload := [wOffRec] }, learnAt := 2, learn := some { startTide := 2 }, phase := .learn }
def wOffS (c : Ctx) (x : Gran) : State := (wNB fun b => (({ b with ctxs := [(7, c)], slu := { b.slu with map := [(granKey 7 0, x)] } }).setSts allMC .ready).setSts [wFlash] .ready)
def wStall (r : StallReq) : State := wMB fun b => Blk.setSts { b with slu := { b.slu with map := [(granKey 7 1, { rest := .t1 0 })], stalls := [r] } } allMC .ready
def wBig : CtxRec := { wNc.rec_ with regions := [{ base := 0, granules := 1, cls := 0 }] }
def wFull : State := wB fun b => { b with spare := { b.spare with areaGranules := 131072 }, cfg := { b.cfg with slu := { b.cfg.slu with classes := [{ restPref := 1, allowT1 := false }] } }, ctxs := [(7, { next := some wBig })] }
def wSealReg : RegionRec := { wReg with isSealed := true, sealId := 5, sealVer := 2 }
def wLd : Ctx := { wNc with st := .creating, loads := [0], rec_ := { wNc.rec_ with regions := [wSealReg] } }
/-- A modulus that is a prime, so that the numbers below could be signed. -/
def wModulus : Nat := 0xEC73907F64BC04A0C785AA3B248C70AC359D40A95FE5BC4E9EF72FADB1FEFD1464D0657982E6CB8C645B140F02A41257CD55B8E4F8B32DCA0D9DAFB0E6C93321652D24BE5AEC51B460CA05EB0913D180617FEF766AE01CCF927F33DC66C87503D0150034ECE21DA2E4B8A7BDB08E75D9EE9A610FA8D12E04E916E61522EBA87F5DCE5DE08D5C932221602524B202CEBF4D95C9AA6C700C4BB4EEC9929C822ECEB8923D4F6B6FDF7171DDBF46EB9ECCEEA93BF35BB986CE3F88825A44E7070F00B5BD411EF3B1DA41FD0F64EB45715EF619ABAEDC6DE2A2C4E2BAC62C3B39864100FE021BF2476BDD85E6873349BD3115CFA66FF1738586DDA50790F814E8C284CB780585AD535CCCBC8C41A5CE5F95E75F48D66B26FE3BD9354B645D7DBCE9319D3359C9567AB87E81A6A9DD67AA67542074C2A2575F764D7303144227D1BB7FD597D9D264265D4637AB08284404DA4578B26F2C05E02E602A2C19B66245A90A4ECF2C1B2AC1B38E14D640A6F1649271E03A53ADB7D19DB5C244246C15D98C49
def wKey : KeyRec := { modulus := wModulus, digest := 3, program := true }
/-- The manifest of a package of one chunk: its digest, then the signature. -/
def wMan (n digest sig : Nat) : List Host.Cell := flashWriteBytes (flashWriteBytes [] n (beBytes 32 digest)) (n + 32) (beBytes 384 sig)
/-- A frame of one raw block that holds the BF16 number 1. -/
def wPkg5 : Package := { id := 5, ver := 2, key := 3, tensors := [{ srcFmt := 1, len := 11 }], body := flashOf [40, 181, 47, 253, 32, 2, 17, 0, 0, 128, 63], bodyLen := 11, man := wMan 96 0xEC60C8B68705CC4A0E7E9401105F4C5EBFC9A747984CA5A33629B6A5E2654010 0x5E17AE7411DA49D080C76729FFDBC22660A527005C723351A82B6AF7E3CD43F5CB00F9691A3534A4F59AAFE458CD927F25A48D42BC2EA4BBCEC7927F625B3CC52AEA002F5A51A207DF642DEB628CB70D5345DA4C33C5F95837AA13C7814EF21182331197FC0AAF0553294AFDB187F7D5E3155FA2EA1CF2A809CE04534940D6073132E6C844ACD59218A701D4FB7E15D3212FA5C111B0EBAAD16F979151AC78EE71E459D58B5A4113F5196E7D86EFCD6CA7FE427D68356FD00B626129B8C6944F9613AAF67BFFE4011E5593494DCDD7ACB3D8A42A94AFE8582B3AC4FB5557C3ACD55CD5D119F3A574DBA7FDE491487F93B8390FE3B5210ABCA9874DD722A98219E7A43DB4017681E6D83B3AEA40CF7578013F53AD8260F9480CCB3DFE87FF00A53ECB5C544364B77624D1C32FD8899F709288C575120501FF57304AA43011B539068143D38DAD3D347BC75BA1ADD2B3BD6081543FE933D4C2558837A4BB9AE41AA372FE53E3D18EBA954F900020EBDF8098EA358ED4E59865BF0CDD6BB2FBECB0 }
/-- One that holds the header of an executable without segments. -/
def wPkg6 : Package := { id := 6, ver := 2, kind := 1, key := 3, body := flashOf ([40, 181, 47, 253, 32, 64, 1, 2, 0, 127, 69, 76, 70, 2, 1, 1] ++ List.replicate 9 0 ++ [2, 0, 243] ++ List.replicate 35 0 ++ [56] ++ List.replicate 9 0), bodyLen := 73, man := wMan 64 0xDE700C4ED6EB095B4FD6513EE13E336DA650EB3135CAA834A64180AEF7449DCD 0xAB52126EF8703B3C726C6F339AC8F8ED680D75F7E0CE447BC2D7A5CFA46ADEEC46EE55E971B6CAFF2E0D888D32A826537E36AE6058EC2B86370D2556BE1C3F31B5872D395A9C18BD6DC8410A30BBDAA3915C308B58BAA06D5BA71FCC20AA9C6398CBC6ED6695A06838959193122E8DF0DC99CFFF511030840032BB8D71E5ACEF87A585DE4F6EAB0A45F8F0212EBBC20C9B7BD1611D354E52DB56B423C8CE284FCDDE2D4198873D4DC33677BB879E1F581A7E8CF148B7A10F23A20EEC5277D221A37FFA8EE799C92DA99832ACDD04679B8595AF96B1955AAB0A2A50A7AA4F455466B5A8C102F4CA123F810D30A375FD82F634F58B14B71528DAD4EE02F22BCD763569C822CCC98A4DD73E47B6AA733A28E672CFF77922A75D57A20848DB962A594B3396840A8E98A7E75E209D72736765563E750B6F9B0E1E0BC1CB01D37D2A37DA779C2DAF5F8C726FB10B850D4A09595A82AFEB489576009F5DFB00B91F64D68A83E866CCA51DFC00D41E02E323AB78F5491F807E15339DDAB020E6FA358524 }
def wLoadC (c : Ctx) (l : List Package) : State := (wCtxS c).setB { (wCtxS c).b with store := { (wCtxS c).b.store with dir0 := { seq := 1, pkgs := l } }, cfg := { (wCtxS c).b.cfg with keys := [wKey] } }
def wLdP : Ctx := { wNc with st := .creating, loads := [genLoad], rec_ := { wNc.rec_ with genSeal := some (6, 2) } }
def wNext (c : Instr) (s : State) : State := match exec c s with
  | .next t => t
  | _ => s
def wSched : SchedRec := { genTides := 2, blockAddr := 4096, phaseGroup := 1, learnLimit := 1 }
def wPh : Ctx := { wNc with rec_ := { wNc.rec_ with sched := some wSched, samples := 5 }, phase := .generate, genEnd := 3, step := 8, pos := 3, buf0 := { st := .current, drained := false } }
def wLn : Ctx := { wPh with phase := .learn, buf1 := { st := .building, drained := true } }
def wSwK : Coll := { ctx := 7, group := 1, seq := 0, d := { op := 7, group := 1 }, who := { phase := .none }, entry := [(0, 1), (1, 2)] }
def wFresh : State := wNB fun b => { b with ctxs := [(7, { next := some wNc.rec_ })], slu := {} }
def wQuar (f : Ctx → Ctx) : State := wCtxS (f { wNc with st := .quarantine, tdStep := 7, tdReason := .removed })
def wDown (n : Nat) : State := wCtxS { wNc with st := .teardown, tdStep := n }
/-- Tier 1 full of copies that wait to be freed. -/
def wOld : List OldCopy := (List.range 8).flatMap fun s => List.replicate (t1Cap s) { ctx := 9, gran := 0, place := .t1 s }
theorem wOldLen (f : Nat → Nat) {s : Nat} (hs : s < 8) :
    f s ≤ (((List.range 8).flatMap fun s => List.replicate (f s) ({ ctx := 9, gran := 0, place := .t1 s } : OldCopy)).filter fun o => o.place = .t1 s).length := by
  simp only [List.filter_flatMap, List.filter_replicate]
  have h8 : List.range 8 = [0, 1, 2, 3, 4, 5, 6, 7] := rfl
  rw [h8]
  obtain rfl | rfl | rfl | rfl | rfl | rfl | rfl | rfl : s = 0 ∨ s = 1 ∨ s = 2 ∨ s = 3 ∨ s = 4 ∨ s = 5 ∨ s = 6 ∨ s = 7 := by omega
  all_goals simp
theorem wNoT1 {b : Blk} (h : b.slu.old = wOld) (n : Nat) : b.findT1 n = none := by
  simp only [Blk.findT1, List.findSome?_eq_none_iff, List.mem_map]
  rintro s ⟨i, -, rfl⟩
  have a := wOldLen t1Cap (Nat.mod_lt (n + i) (by decide : 0 < 8))
  have e : b.slu.old = _ := h
  unfold wOld at e
  rw [← e] at a
  have : ¬ b.usedAt (.t1 ((n + i) % 8)) < t1Cap ((n + i) % 8) := by unfold Blk.usedAt; omega
  rw [if_neg this]

theorem test_meets_SluiceWaits :
    (∃ (s : State), ∃ (n : Nat), ∃ (r : StallReq), ∃ u, (s.b.slu.stalls.find? fun r => r.n = n) = some r ∧ r.wait ≠ .slot ∧ s.b.stillWanted r = true ∧ s.b.unhindered r = true ∧ s.b.slotNow = true ∧ s.b.hasRoom r.kind = true ∧ s.b.outranked r = false ∧ (∀ p, r.kind ≠ .offload p ∧ r.kind ≠ .ret p) ∧ u = (match r.kind with | .work _ => s.b.dropStaged r.ctx r.gran | _ => s.b)) ∧
    (∃ (s : State), ∃ (n : Nat), ∃ (r : StallReq), ∃ d, ∃ pf, (s.b.slu.stalls.find? fun r => r.n = n) = some r ∧ r.wait ≠ .slot ∧ r.kind = .stage d pf ∧ r.wait = .sram ∧ s.b.stillWanted r = true ∧ s.b.unhindered r = true ∧ s.b.hasRoom r.kind = false ∧ s.b.stagedVictim d = none ∧ s.b.workVictim d = none) ∧
    (∃ (s : State), ∃ (n : Nat), ∃ (r : StallReq), (s.b.slu.stalls.find? fun r => r.n = n) = some r ∧ r.wait ≠ .slot ∧ s.b.stillWanted r = false) ∧
    (∃ (s : State), ∃ (n : Nat), ∃ (r : StallReq), (s.b.slu.stalls.find? fun r => r.n = n) = some r ∧ r.wait ≠ .slot ∧ r.wait = .sram ∧ r.raised = false ∧ s.b.past r.since (s.b.tide.period + 1) = true) :=
  ⟨⟨wStall wSt0, 3, wSt0, (wStall wSt0).b, wJ5 (by decide +kernel) (wJ2 (by decide +kernel) ⟨fun _ => ⟨nofun, nofun⟩, by decide +kernel⟩)⟩,
   ⟨(wStall wSt0).setB { (wStall wSt0).b with slu := { (wStall wSt0).b.slu with old := (List.range 512).map fun i => { ctx := 9, gran := i, place := .sram 0 } } }, 3, wSt0, 0, false, by decide +kernel⟩,
   ⟨wStall { wSt0 with gran := 9 }, 3, { wSt0 with gran := 9 }, by decide +kernel⟩,
   ⟨wStall { wSt0 with since := 3999999 }, 3, { wSt0 with since := 3999999 }, by decide +kernel⟩⟩

theorem test_meets_Arbitration :
    (∃ (s : State), ∃ (a : ArbId), ∃ (ts : List Req), ∃ (x : Arb), ∃ (w : List Req), ∃ (fig : Nat → Nat), ∃ (after_ : Req → Sluice), a ≠ .opPlaces ∧ x = s.b.arbOf a ∧ (∀ r ∈ ts, arrivesAt a r = true) ∧ (∀ r ∈ x.waiting, r.cls < 8 ∧ r.what = .transfer) ∧ w = x.waiting ++ ts ∧ fig = (fun q => if q ∈ x.backlog then x.s.get 0 q else max (x.f.get 0 q) x.v) ∧ after_ = (fun r => match a with | .mc _ => freePlace s.b.slu r | _ => s.b.slu) ∧ w = []) ∧
    (∃ (s : State), ∃ (a : ArbId), ∃ (ts : List Req), ∃ (x : Arb), ∃ (w : List Req), ∃ (fig : Nat → Nat), ∃ (after_ : Req → Sluice), a ≠ .opPlaces ∧ x = s.b.arbOf a ∧ (∀ r ∈ ts, arrivesAt a r = true) ∧ (∀ r ∈ x.waiting, r.cls < 8 ∧ r.what = .transfer) ∧ w = x.waiting ++ ts ∧ fig = (fun q => if q ∈ x.backlog then x.s.get 0 q else max (x.f.get 0 q) x.v) ∧ after_ = (fun r => match a with | .mc _ => freePlace s.b.slu r | _ => s.b.slu) ∧ a.hasLane = true ∧ x.rsvUsed < 256 ∧ (∃ r ∈ w, r.lane ≠ 0)) ∧
    (∃ (s : State), ∃ (a : ArbId), ∃ (ts : List Req), ∃ (x : Arb), ∃ (w : List Req), ∃ (fig : Nat → Nat), ∃ (after_ : Req → Sluice), a ≠ .opPlaces ∧ x = s.b.arbOf a ∧ (∀ r ∈ ts, arrivesAt a r = true) ∧ (∀ r ∈ x.waiting, r.cls < 8 ∧ r.what = .transfer) ∧ w = x.waiting ++ ts ∧ fig = (fun q => if q ∈ x.backlog then x.s.get 0 q else max (x.f.get 0 q) x.v) ∧ after_ = (fun r => match a with | .mc _ => freePlace s.b.slu r | _ => s.b.slu) ∧ (a.hasLane = false ∨ 256 ≤ x.rsvUsed ∨ (∀ r ∈ w, r.lane = 0)) ∧ (∃ r ∈ w, r.lane = 0)) :=
  ⟨⟨wOn, ArbId.egress 1, [], {}, [], _, _, wJ5 (by decide +kernel) ⟨rfl, rfl, by decide +kernel⟩⟩,
   ⟨wOn, ArbId.egress 1, [wTr 7 4], {}, [wTr 7 4], _, _, wJ5 (by decide +kernel) ⟨rfl, rfl, by decide +kernel⟩⟩,
   ⟨wOn, ArbId.egress 1, [wTr 7 0], {}, [wTr 7 0], _, _, wJ5 (by decide +kernel) ⟨rfl, rfl, by decide +kernel⟩⟩⟩

theorem test_meets_OperationPlaces :
    (∃ (s : State), ∃ (q : Req), q.what = .transfer ∧ q.cls < 8 ∧ q.lane ≤ 5 ∧ q.cost = 1 ∧ isMc q.mc = true ∧ (s.b.arbOf .opPlaces).waiting = [] ∧ q.lane ≠ 0 ∧ s.b.slu.opsRsv < 4096) ∧
    (∃ (s : State), ∃ (q : Req), q.what = .transfer ∧ q.cls < 8 ∧ q.lane ≤ 5 ∧ q.cost = 1 ∧ isMc q.mc = true ∧ (s.b.arbOf .opPlaces).waiting = [] ∧ (q.lane = 0 ∧ 28672 ≤ s.b.slu.opsCtx ∨ q.lane ≠ 0 ∧ 4096 ≤ s.b.slu.opsRsv)) ∧
    (∃ (s : State), ∃ (q : Req), ∃ (r : Req), q.what = .transfer ∧ q.cls < 8 ∧ q.lane ≤ 5 ∧ q.cost = 1 ∧ isMc q.mc = true ∧ (s.b.arbOf .opPlaces).waiting = [] ∧ q.lane = 0 ∧ r.what = .transfer ∧ r.lane = 0 ∧ r.cls < 8 ∧ r.cost = 1 ∧ isMc r.mc = true ∧ s.b.slu.opsCtx < 28672 ∧ q.cls ≠ r.cls ∧ s.b.slu.opsQ q.cls < s.b.cfg.slu.minOps.getD q.cls 0 ∧ s.b.cfg.slu.minOps.getD r.cls 0 ≤ s.b.slu.opsQ r.cls) :=
  ⟨⟨wOps 28672 4095, wOp 7 5, by decide +kernel⟩,
   ⟨wOps 28672 0, wOp 7 0, by decide +kernel⟩,
   ⟨wOps 28671 0, wOp 7 0, wOp 6 0, by decide +kernel⟩⟩

theorem test_meets_EventPath :
    (∃ (s : State), ∃ (e : EventRec), ∃ (key : Nat), ∃ (q : Req), ∃ (sink : Nat), q.what = .event e ∧ q.ctx = key ∧ q.lane = 0 ∧ q.cls < 8 ∧ (s.b.arbOf .eventPath).waiting = [q] ∧ key ≠ moduleCtx ∧ ctxLives (s.b.ctx key).st = true ∧ sink = (s.b.ctx key).rec_.sink ∧ s.b.streamUp sink = true) :=
  ⟨wNB fun b => { b with arbs := [(5, { waiting := [wEvQ] })] }, wEv, 7, wEvQ, 9, by decide +kernel⟩

theorem test_meets_Offload :
    (∃ (s : State), ∃ (ctx : Nat), ∃ (tensor : Nat), ∃ (e : OffloadRec), ∃ (r : RegionRec), ∃ (c : Ctx), c = s.b.ctx ctx ∧ c.st = .active ∧ (c.rec_.offload.find? fun e => e.tensor = tensor) = some e ∧ tensorRegion c tensor = some r ∧ (c.off.get {} tensor).out = false ∧ s.b.planDue c e.outTide e.outPhase = true) ∧
    (∃ (s : State), ∃ (ctx : Nat), ∃ (g : Nat), ∃ (r : RegionRec), ∃ (c : Ctx), ∃ (x : Gran), ∃ p, c = s.b.ctx ctx ∧ regionAt c (g * granBytes) = some r ∧ g ∈ (c.off.get {} r.tensorId).waiting ∧ s.b.gran ctx g = some x ∧ placeTier x.rest = 1 ∧ s.b.writesIn ctx g = false ∧ (∀ m ∈ s.b.slu.migs, m.ctx ≠ ctx) ∧ s.b.findT2 ((g - r.base / granBytes) + r.tensorId) = some p ∧ s.b.slotNow = true) ∧
    (∃ (s : State), ∃ (ctx : Nat), ∃ (g : Nat), ∃ (r : RegionRec), ∃ (c : Ctx), ∃ (x : Gran), c = s.b.ctx ctx ∧ regionAt c (g * granBytes) = some r ∧ g ∈ (c.off.get {} r.tensorId).waiting ∧ s.b.gran ctx g = some x ∧ placeTier x.rest = 1 ∧ s.b.writesIn ctx g = false ∧ (∀ m ∈ s.b.slu.migs, m.ctx ≠ ctx) ∧ s.b.findT2 ((g - r.base / granBytes) + r.tensorId) = none) ∧
    (∃ (s : State), ∃ (ctx : Nat), ∃ (c : Ctx), c = s.b.ctx ctx ∧ c.st = .active ∧ c.returning = false ∧ s.b.returnDue c = true ∧ s.b.retBusy ctx = false ∧ (∀ y ∈ planOrder c, s.b.stillOut ctx y.2 = [])) ∧
    (∃ (s : State), ∃ (ctx : Nat), ∃ (g : Nat), ∃ (r : RegionRec), ∃ (c : Ctx), ∃ rest, ∃ p, c = s.b.ctx ctx ∧ c.st = .active ∧ c.returning = false ∧ s.b.returnDue c = true ∧ s.b.retBusy ctx = false ∧ ((planOrder c).flatMap fun y => (s.b.stillOut ctx y.2).map fun g => (g, y.2)) = (g, r) :: rest ∧ (∀ m ∈ s.b.slu.migs, m.ctx ≠ ctx) ∧ s.b.findT1 ((g - r.base / granBytes) + r.tensorId) = some p ∧ s.b.slotNow = true) ∧
    (∃ (s : State), ∃ (ctx : Nat), ∃ (g : Nat), ∃ (r : RegionRec), ∃ (c : Ctx), ∃ rest, c = s.b.ctx ctx ∧ c.st = .active ∧ c.returning = false ∧ s.b.returnDue c = true ∧ s.b.retBusy ctx = false ∧ ((planOrder c).flatMap fun y => (s.b.stillOut ctx y.2).map fun g => (g, y.2)) = (g, r) :: rest ∧ (∀ m ∈ s.b.slu.migs, m.ctx ≠ ctx) ∧ s.b.findT1 ((g - r.base / granBytes) + r.tensorId) = none) :=
  ⟨⟨wOffS wOffCtx { rest := .t1 0 }, 7, 5, wOffRec, wOffReg, wOffCtx, by decide +kernel⟩,
   ⟨wOffS { wOffCtx with off := [(5, { waiting := [0] })] } { rest := .t1 0 }, 7, 0, wOffReg, { wOffCtx with off := [(5, { waiting := [0] })] }, { rest := .t1 0 }, ((wOffS { wOffCtx with off := [(5, { waiting := [0] })] } { rest := .t1 0 }).b.findT2 5).getD (.t2 0), by decide +kernel⟩,
   ⟨(wCtxS { wOffCtx with off := [(5, { waiting := [0] })] }).setB { (wCtxS { wOffCtx with off := [(5, { waiting := [0] })] }).b with spare := { areaGranules := 131072 } }, 7, 0, wOffReg, { wOffCtx with off := [(5, { waiting := [0] })] }, wGran, by decide +kernel⟩,
   ⟨wOffS { wOffCtx with off := [(5, { out := true })] } { rest := .t1 0 }, 7, { wOffCtx with off := [(5, { out := true })] }, by decide +kernel⟩,
   ⟨wOffS { wOffCtx with off := [(5, { out := true })] } { rest := .t2 3, offloaded := true }, 7, 0, wOffReg, { wOffCtx with off := [(5, { out := true })] }, [], ((wOffS { wOffCtx with off := [(5, { out := true })] } { rest := .t2 3, offloaded := true }).b.findT1 5).getD (.t1 0), by decide +kernel⟩,
   ⟨(wOffS { wOffCtx with off := [(5, { out := true })] } { rest := .t2 3, offloaded := true }).setB { (wOffS { wOffCtx with off := [(5, { out := true })] } { rest := .t2 3, offloaded := true }).b with slu := { (wOffS { wOffCtx with off := [(5, { out := true })] } { rest := .t2 3, offloaded := true }).b.slu with old := wOld } }, 7, 0, wOffReg, { wOffCtx with off := [(5, { out := true })] }, [], wJ5 (by decide +kernel) (wJ2 (by decide +kernel) (wNoT1 rfl _))⟩⟩

theorem test_meets_Offload_2 :
    (∃ (s : State), ∃ (ctx : Nat), ∃ (tensor : Nat), ∃ (e : OffloadRec), ∃ (r : RegionRec), ∃ (c : Ctx), c = s.b.ctx ctx ∧ (c.rec_.offload.find? fun e => e.tensor = tensor) = some e ∧ tensorRegion c tensor = some r ∧ (c.off.get {} tensor).late = false ∧ s.b.stillOut ctx r ≠ [] ∧ s.b.planDue c e.backTide e.backPhase = true) :=
  ⟨wOffS wOffCtx { rest := .t2 3, offloaded := true }, 7, 5, wOffRec, wOffReg, wOffCtx, by decide +kernel⟩

theorem test_meets_Creation :
    (∃ (s : State), ∃ (ctx : Nat), ∃ (r : CtxRec), ∃ (c : Ctx), ∃ (bPlaced : Blk), c = s.b.ctx ctx ∧ c.next = some r ∧ c.st = .absent ∧ s.b.running = true ∧ (∀ e ∈ s.b.ctxs, e.1 < ctx → e.2.st = .absent → e.2.next = none) ∧ ((s.b.setCtx ctx (freshCtx c r .creating)).freshStreams ctx).placeAll ctx r.regions = some bPlaced) ∧
    (∃ (s : State), ∃ (ctx : Nat), ∃ (r : CtxRec), ∃ (c : Ctx), c = s.b.ctx ctx ∧ c.next = some r ∧ c.st = .absent ∧ s.b.running = true ∧ (∀ e ∈ s.b.ctxs, e.1 < ctx → e.2.st = .absent → e.2.next = none) ∧ ((s.b.setCtx ctx (freshCtx c r .creating)).freshStreams ctx).placeAll ctx r.regions = none) :=
  ⟨⟨wFresh, 7, wNc.rec_, { next := some wNc.rec_ }, (((wFresh.b.setCtx 7 (freshCtx { next := some wNc.rec_ } wNc.rec_ .creating)).freshStreams 7).placeAll 7 wNc.rec_.regions).getD {}, by decide +kernel⟩,
   ⟨wFull, 7, wBig, { next := some wBig }, by decide +kernel⟩⟩

theorem test_meets_Creation_2 :
    (∃ (s : State), ∃ (ctx : Nat), ∃ (c : Ctx), ∃ (found : SealRead), ∃ (g : RegionRec), ∃ i, ∃ is, ∃ q, ∃ d, ∃ es, c = s.b.ctx ctx ∧ c.loads = i :: is ∧ i < genLoad ∧ c.st = .creating ∧ c.rec_.regions[i]? = some g ∧ (∀ e ∈ s.b.ctxs, e.1 < ctx → e.2.loads = []) ∧ (s.b.store.pkgs.find? fun p => p.id = g.sealId && p.ver = g.sealVer) = some q ∧ q.tensors[g.sealTensor]? = some d ∧ tensorElems d (flashBytes (readBody q found) d.off d.len) = some es ∧ s.b.loadCheck g.sealId g.sealVer (some g.sealTensor) found = none) ∧
    (∃ (s : State), ∃ (ctx : Nat), ∃ (c : Ctx), ∃ (found : SealRead), ∃ (g : RegionRec), ∃ i, ∃ is, ∃ why, c = s.b.ctx ctx ∧ c.loads = i :: is ∧ i < genLoad ∧ c.st = .creating ∧ c.rec_.regions[i]? = some g ∧ (∀ e ∈ s.b.ctxs, e.1 < ctx → e.2.loads = []) ∧ s.b.loadCheck g.sealId g.sealVer (some g.sealTensor) found = some why) :=
  ⟨⟨wLoadC wLd [wPkg5], 7, wLd, {}, wSealReg, 0, [], wPkg5, { srcFmt := 1, len := 11 }, [0x3F80], by decide +kernel⟩,
   ⟨wLoadC wLd [], 7, wLd, {}, wSealReg, 0, [], (1, 0), by decide +kernel⟩⟩

theorem test_meets_Creation_3 :
    (∃ (s : State), ∃ (ctx : Nat), ∃ (c : Ctx), ∃ (found : SealRead), ∃ is, ∃ id, ∃ ver, c = s.b.ctx ctx ∧ c.loads = genLoad :: is ∧ c.st = .creating ∧ c.rec_.genSeal = some (id, ver) ∧ c.rec_.regions.length ≤ genLoad ∧ (∀ e ∈ s.b.ctxs, e.1 < ctx → e.2.loads = []) ∧ s.b.loadCheck id ver none found = none) ∧
    (∃ (s : State), ∃ (ctx : Nat), ∃ (c : Ctx), c = s.b.ctx ctx ∧ c.st = .creating ∧ c.loads = []) :=
  ⟨⟨wLoadC wLdP [wPkg6], 7, wLdP, {}, [], 6, 2, by decide +kernel⟩,
   ⟨wCtxS { wNc with st := .creating }, 7, { wNc with st := .creating }, by decide +kernel⟩⟩

theorem test_meets_Teardown :
    (∃ (s : State), ∃ (ctx : Nat), ∃ (c : Ctx), c = s.b.ctx ctx ∧ c.st = .teardown ∧ c.tdStep = 3 ∧ ctx ≠ moduleCtx) ∧
    (∃ (s : State), ∃ (ctx : Nat), ∃ (c : Ctx), c = s.b.ctx ctx ∧ c.st = .teardown ∧ c.tdStep = 5) ∧
    (∃ (s : State), ∃ (ctx : Nat), ∃ (c : Ctx), c = s.b.ctx ctx ∧ c.st = .quarantine ∧ c.quarEnd ≤ s.b.now ∧ c.tdReason = .removed ∧ c.next = none) ∧
    (∃ (s : State), ∃ (ctx : Nat), ∃ (c : Ctx), ∃ r, c = s.b.ctx ctx ∧ c.st = .quarantine ∧ c.quarEnd ≤ s.b.now ∧ c.tdReason = .replaced ∧ c.next = some r) ∧
    (∃ (s : State), ∃ (ctx : Nat), ∃ (c : Ctx), c = s.b.ctx ctx ∧ c.st = .quarantine ∧ c.quarEnd ≤ s.b.now ∧ c.tdReason = .fault ∧ s.b.restoresNothing = true) ∧
    (∃ (s : State), ∃ (ctx : Nat), ∃ (c : Ctx), ∃ r, c = s.b.ctx ctx ∧ c.st = .quarantine ∧ c.quarEnd ≤ s.b.now ∧ c.tdReason = .fault ∧ s.b.restoresNothing = false ∧ r = c.next.getD (takeOff (takeSched c)).rec_ ∧ (((s.b.setCtx ctx (freshCtx { c with tdStep := 8 } r .restoring)).freshStreams ctx).placeAll ctx r.regions).isSome = true) :=
  ⟨⟨wDown 3, 7, { wNc with st := .teardown, tdStep := 3 }, by decide +kernel⟩,
   ⟨wDown 5, 7, { wNc with st := .teardown, tdStep := 5 }, by decide +kernel⟩,
   ⟨wQuar id, 7, { wNc with st := .quarantine, tdStep := 7, tdReason := .removed }, by decide +kernel⟩,
   ⟨wQuar fun c => { c with tdReason := .replaced, next := some wNc.rec_ }, 7, { wNc with st := .quarantine, tdStep := 7, tdReason := .replaced, next := some wNc.rec_ }, wNc.rec_, by decide +kernel⟩,
   ⟨(wQuar fun c => { c with tdReason := .fault }) |> fun s => s.setB { s.b with rst := { s.b.rst with hubFault := true } }, 7, { wNc with st := .quarantine, tdStep := 7, tdReason := .fault }, by decide +kernel⟩,
   ⟨wQuar fun c => { c with tdReason := .fault }, 7, { wNc with st := .quarantine, tdStep := 7, tdReason := .fault }, wNc.rec_, by decide +kernel⟩⟩

theorem test_meets_Teardown_2 :
    (∃ (s : State), ∃ (ctx : Nat), ∃ (c : Ctx), ∃ r, c = s.b.ctx ctx ∧ c.st = .quarantine ∧ c.quarEnd ≤ s.b.now ∧ c.tdReason = .fault ∧ s.b.restoresNothing = false ∧ r = c.next.getD (takeOff (takeSched c)).rec_ ∧ ((s.b.setCtx ctx (freshCtx { c with tdStep := 8 } r .restoring)).freshStreams ctx).placeAll ctx r.regions = none) :=
  ⟨(wQuar fun c => { c with tdReason := .fault, next := some wBig }) |> fun s => s.setB { s.b with spare := wFull.b.spare, cfg := { s.b.cfg with slu := wFull.b.cfg.slu } }, 7, { wNc with st := .quarantine, tdStep := 7, tdReason := .fault, next := some wBig }, wBig, by decide +kernel⟩

theorem test_meets_LearnStart :
    (∃ (s : State), ∃ (ctx : Nat), ∃ (c : Ctx), ∃ (i : Instr), c = s.b.ctx ctx ∧ c.st = .active ∧ ((i = .firstLearnStart ctx ∧ c.phase = .none ∧ c.learn = none ∧ c.step = c.rec_.startStep ∧ c.created < s.b.tide.num ∧ s.b.firstDue (c.created + 1) 0 rankPhase = true) ∨ (i = .phaseSwitchLearn ctx ∧ c.phase = .generate ∧ c.genEnd ≠ 0 ∧ s.b.due c.genEnd 0 = true ∧ s.b.firstDue c.genEnd 0 rankPhase = true))) :=
  ⟨wCtxS wPh, 7, wPh, Instr.phaseSwitchLearn 7, wJ2 (by decide +kernel) (Or.inr ⟨rfl, by decide +kernel⟩)⟩

theorem test_meets_Swap :
    (∃ (s : State), ∃ (ctx : Nat), ∃ (c : Ctx), ∃ (r : SchedRec), ∃ (g : GroupRec), c = s.b.ctx ctx ∧ c.st = .active ∧ c.rec_.sched = some r ∧ c.phase = .learn ∧ c.barrier = false ∧ c.learn = none ∧ (s.b.workLeft ctx .learn fun _ => true) = false ∧ (bufOf c (otherBuf c)).st = .building ∧ c.hrv.cap = none ∧ s.b.groupOf r.phaseGroup = some g ∧ s.b.findColl ctx r.phaseGroup (c.collSeq.get 0 r.phaseGroup) = none) ∧
    (∃ (s : State), ∃ (ctx : Nat), ∃ (c : Ctx), ∃ (r : SchedRec), ∃ k, c = s.b.ctx ctx ∧ c.st = .active ∧ c.rec_.sched = some r ∧ c.phase = .learn ∧ c.barrier = false ∧ c.learn = none ∧ (s.b.workLeft ctx .learn fun _ => true) = false ∧ (bufOf c (otherBuf c)).st = .building ∧ c.hrv.cap = some k ∧ c.pairWaitRaised = false) ∧
    (∃ (s : State), ∃ (ctx : Nat), ∃ (c : Ctx), ∃ (r : SchedRec), ∃ k, c = s.b.ctx ctx ∧ c.st = .active ∧ s.b.phaseColl ctx = some k ∧ s.b.allIn k k.entry = true ∧ s.b.due (topTide k.entry + 2) 0 = true ∧ s.b.firstDue (topTide k.entry + 2) 0 rankSwap = true ∧ (bufOf c (otherBuf c)).st = .building ∧ (takeSched c).rec_.sched = some r ∧ ctx ≠ moduleCtx) :=
  ⟨⟨wCtxS wLn, 7, wLn, wSched, wGrp, by decide +kernel⟩,
   ⟨wCtxS { wLn with hrv := { cap := some {} } }, 7, { wLn with hrv := { cap := some {} } }, wSched, {}, by decide +kernel⟩,
   ⟨(wCtxS { wLn with barrier := true, collSeq := [(1, 1)] }) |> fun s => s.setB { s.b with colls := [wSwK] }, 7, { wLn with barrier := true, collSeq := [(1, 1)] }, wSched, wSwK, by decide +kernel⟩⟩

theorem test_meets_PairAndLimits :
    (∃ (s : State), ∃ (ctx : Nat), ∃ (c : Ctx), c = s.b.ctx ctx ∧ c.st = .active ∧ (c.buf0.st = .waiting ∨ c.buf1.st = .waiting) ∧ c.pairWaitRaised = false ∧ 1 ≤ c.waitTides) ∧
    (∃ (s : State), ∃ (ctx : Nat), ∃ (c : Ctx), ∃ r, ∃ e, ∃ p, c = s.b.ctx ctx ∧ c.rec_.sched = some r ∧ c.st = .active ∧ c.phase = .learn ∧ c.genEnd ≠ 0 ∧ s.b.due (c.genEnd + r.genGrace) 0 = true ∧ e ∈ s.b.rk ∧ e.2.prog = some p ∧ p.ctx = ctx ∧ p.phase = .generate) ∧
    (∃ (s : State), ∃ (ctx : Nat), ∃ (c : Ctx), ∃ r, c = s.b.ctx ctx ∧ c.rec_.sched = some r ∧ c.st = .active ∧ c.phase = .learn ∧ c.barrier = false ∧ c.learnLate = false ∧ r.learnLimit ≠ 0 ∧ s.b.due (c.learnAt + r.learnLimit) 0 = true) :=
  ⟨⟨wCtxS { wPh with buf1 := { st := .waiting, drained := true }, waitTides := 1 }, 7, { wPh with buf1 := { st := .waiting, drained := true }, waitTides := 1 }, by decide +kernel⟩,
   ⟨(wCtxS wLn) |> fun s => s.setB { s.b with rk := [(0, { prog := some wP })], tide := { s.b.tide with num := 500 } }, 7, wLn, wSched, (0, { prog := some wP }), wP, by decide +kernel⟩,
   ⟨(wCtxS wLn) |> fun s => s.setB { s.b with tide := { s.b.tide with num := 500 } }, 7, wLn, wSched, by decide +kernel⟩⟩

theorem test_meets_PhaseMemory :
    (∃ (s : State), ∃ (t : State), ∃ (ctx : Nat), ∃ (i : Instr), ∃ k, ∃ a, s.Inv ∧ i ∈ [Instr.firstLearnStart ctx, .phaseSwitchLearn ctx, .swap ctx] ∧ exec i s = .next t ∧ a < 2 ^ 64 ∧ (∀ r, (t.b.ctx ctx).rec_.sched = some r → r.blockAddr % 2 ^ 64 + 64 ≤ 2 ^ 64 ∧ (k = ctx → a < r.blockAddr % 2 ^ 64 ∨ r.blockAddr % 2 ^ 64 + 64 ≤ a)) ∧ (k = ctx → ∀ r ∈ (s.b.ctx ctx).rec_.regions, r.cls = 8 → ∀ g ∈ regionGrans r, a / granBytes ≠ g % 2 ^ 43)) :=
  ⟨wCtxS wPh, wNext (.phaseSwitchLearn 7) (wCtxS wPh), 7, Instr.phaseSwitchLearn 7, 7, 4095, by unfold State.Inv; decide +kernel, by decide +kernel, rfl, by decide +kernel, (wSome (a := wSched) (by decide +kernel) (by decide +kernel)), by decide +kernel⟩

def wPair (st : BufState) : State := (wSt id).setB { (wSt id).b with ctxs := [(7, { wNc with rec_ := { wNc.rec_ with regions := [{ wReg with pair := 1 }] }, buf0 := { st := st, drained := false } })] }
def wFl (h : SkyHdr) : SkyHdr := { h with length := 0, offset := 0, msgLen := 0, winId := 0, winGen := 0 }
def wRd (h : SkyHdr) : SkyHdr := { h with length := 0, psn := 0 }
def wRdMsg : OutMsg := { typ := tRead, ctx := 7, msgId := 6, psn := 0, count := 0, len := 64, addr := some 4096, use_ := .program 0 .generate 0, firstAt := some 1 }
def wServe (n : Nat) : ReadServe := { msgId := n, len := 64, winGen := 4, winId := 2, data := [] }
def wEvPk : Packet := { h := wHd tEvent fun h => { h with offset := 0 }, data := recBytes { code := 0x5801, ctx := 7, sev := 3, pan := 4, tide := 4, phase := 3 } }
def wSink : State := (wSt id).setB { (wSt id).b with ctxs := [(7, { wNc with rec_ := { wNc.rec_ with sink := 3 } })] }
def wPkt (psn msgId : Nat) : OutPkt := { psn := psn, msgId := msgId, pkt := { h := { typ := 1 } }, firstAt := 4999000, lastAt := 4999000, rto := 100, path := (1, 0), port := 1 }
def wOm (typ id psn cnt : Nat) : OutMsg := { typ := typ, ctx := 7, msgId := id, psn := psn, count := cnt, len := 64, addr := some 128, use_ := .program 0 .generate 0, firstAt := some 4999000 }
def wOut : Strm := { known := true, e := 10, psn := 23, msg := 9, msgs := [wOm 1 6 20 2, wOm 4 7 22 1], pkts := [wPkt 20 6, wPkt 21 6, wPkt 22 7] }
def wOutRd : Strm := { known := true, e := 10, psn := 20, msg := 9, msgs := [{ wRdMsg with firstAt := some 4999000 }] }
def wOutR : State := wSt fun _ => wOutRd
def wOutS : State := wSt fun _ => wOut
def wDownPort : State := wNB fun b => { b with ports := [] }
def wMacS : State := (wSt id).setB { (wSt id).b with ports := [(1, { st := .up, cfg := { macsec := true } })] }
def wTxS (st : Strm) : State := wSt fun _ => st
def wTx : Strm := { known := true, e := 10, psn := 21, msg := 9, msgs := [{ wMsg with addr := some 128 }], unsent := [20], winAt := 5000000 }
def wEnt : Option Nat × PdRec × StreamRec := (some 7, (wRx wWin).pd, (wRx wWin).e)
def wPath (s : State) (st : Strm) : Nat × Nat := (choosePath st (s.b.paths 3 0x7F) none).getD (0, 0)
def wHeld : Held := { die := homeDie 3, arr := wArrOf (wPk tWrite id), pkt := wPk tWrite id }
def wOldRead : Strm := { known := true, msgs := [{ wRdMsg with firstAt := some 1000000 }] }
def wNewRead : Strm := { known := true, msgs := [{ wRdMsg with firstAt := some 4000000, lastAt := 0 }] }
def wFlMsg (t : Nat) : OutMsg := { wRdMsg with typ := tFlush, addr := none, firstAt := some t, lastAt := 0, acked := true }
def wTh : TstHold := { arr := wArrOf (wPk tWrite id), pkt := wPk tWrite id, at_ := 5000000 }
def wRec : InRec := { stream := 3, msgId := 100, typ := 1, len := 5000, firstAt := 0 }
def wRecS : State := (wSt id).setB { (wSt id).b with recs := List.replicate 16384 wRec }
theorem wNoRec {b : Blk} {h : SkyHdr} (n : Nat) (e : b.recs = List.replicate n wRec) (m : h.stream = 3) (i : 100 ≠ h.msgId) (l : h.length ≠ h.msgLen) (f : 16384 ≤ n) : b.recFree h = false := by
  have d : homeDie wRec.stream = homeDie 3 := rfl
  have k : ∀ a, ¬ (n + a < 16384) := fun a => by omega
  simp [Blk.recFree, Blk.recsOn, e, m, l, d, k, List.any_replicate, show wRec.msgId = 100 from rfl, i]

theorem test_meets_SkeyrChecks :
    (∃ (s : State), ∃ (arr : Arrival), ∃ (p : Packet), ∃ (c : Instr), ∃ (typ : Nat), (c, typ) ∈ [(Instr.write arr p, tWrite), (.read arr p, tRead), (.readResp arr p, tReadResp), (.flush arr p, tFlush), (.flushAck arr p, tFlushAck), (.ack arr p, tAck), (.sack arr p, tSack), (.nak arr p, tNak), (.cancel arr p, tCancel), (.event arr p, tEvent), (.reduce arr p, tReduce), (.permuteSeg arr p, tPermute)] ∧ p.h.typ = typ ∧ (s.b.portOf arr.port).st ≠ .up) ∧
    (∃ (s : State), ∃ (arr : Arrival), ∃ (p : Packet), ∃ (c : Instr), ∃ (typ : Nat), (c, typ) ∈ [(Instr.write arr p, tWrite), (.read arr p, tRead), (.readResp arr p, tReadResp), (.flush arr p, tFlush), (.flushAck arr p, tFlushAck), (.ack arr p, tAck), (.sack arr p, tSack), (.nak arr p, tNak), (.cancel arr p, tCancel), (.event arr p, tEvent), (.reduce arr p, tReduce), (.permuteSeg arr p, tPermute)] ∧ p.h.typ = typ ∧ (s.b.portOf arr.port).st = .up ∧ s.b.spare.displaced = false ∧ s.b.running = true ∧ (s.b.portOf arr.port).cfg.macsec = true ∧ arr.macsec = false) ∧
    (∃ (s : State), ∃ (arr : Arrival), ∃ (p : Packet), ∃ (c : Instr), ∃ (typ : Nat), (c, typ) ∈ [(Instr.write arr p, tWrite), (.read arr p, tRead), (.readResp arr p, tReadResp), (.flush arr p, tFlush), (.flushAck arr p, tFlushAck), (.ack arr p, tAck), (.sack arr p, tSack), (.nak arr p, tNak), (.cancel arr p, tCancel), (.event arr p, tEvent), (.reduce arr p, tReduce), (.permuteSeg arr p, tPermute)] ∧ p.h.typ = typ ∧ (s.b.portOf arr.port).st = .up ∧ s.b.spare.displaced = false ∧ s.b.running = true ∧ ((s.b.portOf arr.port).cfg.macsec = true → arr.macsec = true) ∧ s.b.frameFits arr p = false) ∧
    (∃ (s : State), ∃ (arr : Arrival), ∃ (p : Packet), ∃ (c : Instr), ∃ (typ : Nat), (c, typ) ∈ [(Instr.write arr p, tWrite), (.read arr p, tRead), (.readResp arr p, tReadResp), (.flush arr p, tFlush), (.flushAck arr p, tFlushAck), (.ack arr p, tAck), (.sack arr p, tSack), (.nak arr p, tNak), (.cancel arr p, tCancel), (.event arr p, tEvent), (.reduce arr p, tReduce), (.permuteSeg arr p, tPermute)] ∧ p.h.typ = typ ∧ (s.b.portOf arr.port).st = .up ∧ s.b.spare.displaced = false ∧ s.b.running = true ∧ ((s.b.portOf arr.port).cfg.macsec = true → arr.macsec = true) ∧ s.b.frameFits arr p = true ∧ arr.ce = false ∧ s.b.knownPeer arr.src = false ∧ (s.b.portOf arr.port).unkUsed < s.b.cfg.mod.unkRate) ∧
    (∃ (s : State), ∃ (arr : Arrival), ∃ (p : Packet), ∃ (c : Instr), ∃ (typ : Nat), (c, typ) ∈ [(Instr.write arr p, tWrite), (.read arr p, tRead), (.readResp arr p, tReadResp), (.flush arr p, tFlush), (.flushAck arr p, tFlushAck), (.ack arr p, tAck), (.sack arr p, tSack), (.nak arr p, tNak), (.cancel arr p, tCancel), (.event arr p, tEvent), (.reduce arr p, tReduce), (.permuteSeg arr p, tPermute)] ∧ p.h.typ = typ ∧ (s.b.portOf arr.port).st = .up ∧ s.b.spare.displaced = false ∧ s.b.running = true ∧ ((s.b.portOf arr.port).cfg.macsec = true → arr.macsec = true) ∧ s.b.frameFits arr p = true ∧ arr.ce = false ∧ s.b.knownPeer arr.src = false ∧ s.b.cfg.mod.unkRate ≤ (s.b.portOf arr.port).unkUsed) ∧
    (∃ (s : State), ∃ (arr : Arrival), ∃ (p : Packet), ∃ (c : Instr), ∃ (typ : Nat), (c, typ) ∈ [(Instr.write arr p, tWrite), (.read arr p, tRead), (.readResp arr p, tReadResp), (.flush arr p, tFlush), (.flushAck arr p, tFlushAck), (.ack arr p, tAck), (.sack arr p, tSack), (.nak arr p, tNak), (.cancel arr p, tCancel), (.event arr p, tEvent), (.reduce arr p, tReduce), (.permuteSeg arr p, tPermute)] ∧ p.h.typ = typ ∧ (s.b.portOf arr.port).st = .up ∧ s.b.spare.displaced = false ∧ s.b.running = true ∧ ((s.b.portOf arr.port).cfg.macsec = true → arr.macsec = true) ∧ s.b.frameFits arr p = true ∧ arr.ce = false ∧ s.b.knownPeer arr.src = true ∧ crcFits arr p = false) :=
  ⟨⟨wDownPort, (wArrOf (wPk tWrite id)), wPk tWrite id, Instr.write (wArrOf (wPk tWrite id)) (wPk tWrite id), tWrite, by decide +kernel⟩,
   ⟨wMacS, { wArrOf (wPk tWrite id) with macsec := false }, wPk tWrite id, Instr.write { wArrOf (wPk tWrite id) with macsec := false } (wPk tWrite id), tWrite, by decide +kernel⟩,
   ⟨wSt id, { wArrOf (wPk tWrite id) with udpSum := 0 }, wPk tWrite id, Instr.write { wArrOf (wPk tWrite id) with udpSum := 0 } (wPk tWrite id), tWrite, by decide +kernel⟩,
   ⟨wSt id, wArrX 1 1 none (wPk tWrite id), wPk tWrite id, Instr.write (wArrX 1 1 none (wPk tWrite id)) (wPk tWrite id), tWrite, by decide +kernel⟩,
   ⟨(wSt id).setB { (wSt id).b with ports := [(1, { st := .up, unkUsed := 1024 })] }, wArrX 1 1 none (wPk tWrite id), wPk tWrite id, Instr.write (wArrX 1 1 none (wPk tWrite id)) (wPk tWrite id), tWrite, by decide +kernel⟩,
   ⟨wSt id, wArrX 99 1 (some 0) (wPk tWrite id), wPk tWrite id, Instr.write (wArrX 99 1 (some 0) (wPk tWrite id)) (wPk tWrite id), tWrite, by decide +kernel⟩⟩

theorem test_meets_SkeyrChecks_2 :
    (∃ (s : State), ∃ (arr : Arrival), ∃ (p : Packet), ∃ (c : Instr), ∃ (typ : Nat), (c, typ) ∈ [(Instr.write arr p, tWrite), (.read arr p, tRead), (.readResp arr p, tReadResp), (.flush arr p, tFlush), (.flushAck arr p, tFlushAck), (.ack arr p, tAck), (.sack arr p, tSack), (.nak arr p, tNak), (.cancel arr p, tCancel), (.event arr p, tEvent), (.reduce arr p, tReduce), (.permuteSeg arr p, tPermute)] ∧ p.h.typ = typ ∧ (s.b.portOf arr.port).st = .up ∧ s.b.spare.displaced = false ∧ s.b.running = true ∧ ((s.b.portOf arr.port).cfg.macsec = true → arr.macsec = true) ∧ s.b.frameFits arr p = true ∧ arr.ce = false ∧ s.b.knownPeer arr.src = true ∧ crcFits arr p = true ∧ s.b.tst.active = false ∧ (verFits arr = false ∨ lengthOk p.h = false)) ∧
    (∃ (s : State), ∃ (arr : Arrival), ∃ (p : Packet), ∃ (c : Instr), ∃ (typ : Nat), ∃ x, (c, typ) ∈ [(Instr.write arr p, tWrite), (.read arr p, tRead), (.readResp arr p, tReadResp), (.flush arr p, tFlush), (.flushAck arr p, tFlushAck), (.ack arr p, tAck), (.sack arr p, tSack), (.nak arr p, tNak), (.cancel arr p, tCancel), (.event arr p, tEvent), (.reduce arr p, tReduce), (.permuteSeg arr p, tPermute)] ∧ p.h.typ = typ ∧ (s.b.portOf arr.port).st = .up ∧ s.b.spare.displaced = false ∧ s.b.running = true ∧ ((s.b.portOf arr.port).cfg.macsec = true → arr.macsec = true) ∧ s.b.frameFits arr p = true ∧ arr.ce = false ∧ s.b.knownPeer arr.src = true ∧ crcFits arr p = true ∧ s.b.tst.active = false ∧ verFits arr = true ∧ lengthOk p.h = true ∧ s.b.rxStream p.h = some x ∧ x.owner = some p.h.ctx ∧ ((s.b.ctx p.h.ctx).st = .teardown ∨ (s.b.ctx p.h.ctx).st = .quarantine)) :=
  ⟨⟨wSt id, wArrX 99 2 none (wPk tWrite id), wPk tWrite id, Instr.write (wArrX 99 2 none (wPk tWrite id)) (wPk tWrite id), tWrite, by decide +kernel⟩,
   ⟨(wSt id).setB { (wSt id).b with ctxs := [(7, { wNc with st := .quarantine })] }, (wArrOf (wPk tWrite id)), wPk tWrite id, Instr.write (wArrOf (wPk tWrite id)) (wPk tWrite id), tWrite, wRx wWin, by decide +kernel⟩⟩

theorem test_meets_WriteArrival :
    (∃ (s : State), ∃ (arr : Arrival), ∃ (p : Packet), ∃ (x : RxStream), ∃ (n : Nat), ∃ (c : Nat), ∃ (w : WindowRec), Arrives s arr p x ∧ p.h.typ = tWrite ∧ n = p.h.stream ∧ x.owner = some c ∧ s.b.psnRule (s.b.strmOf n) p.h = (.new, false) ∧ s.b.step8 p.h = true ∧ (x.pd.windows.find? fun w => w.winId = p.h.winId) = some w ∧ (s.b.winOf p.h.winId).open_ = true ∧ p.h.winGen = (s.b.winOf p.h.winId).gen ∧ w.wr = true ∧ p.h.offset + p.h.length ≤ w.size ∧ pairOk (s.b.ctx c) true (w.base + p.h.offset) p.h.length = true ∧ s.b.recFree p.h = true ∧ s.canWrite c (w.base + p.h.offset) p.h.length = true ∧ (s.b.ctx c).hrv.cap = none ∧ arr.mem = none) ∧
    (∃ (s : State), ∃ (arr : Arrival), ∃ (p : Packet), ∃ (x : RxStream), ∃ (n : Nat), ∃ (c : Nat), ∃ (w : WindowRec), Arrives s arr p x ∧ p.h.typ = tWrite ∧ n = p.h.stream ∧ x.owner = some c ∧ s.b.psnRule (s.b.strmOf n) p.h = (.new, false) ∧ s.b.step8 p.h = true ∧ (x.pd.windows.find? fun w => w.winId = p.h.winId) = some w ∧ (s.b.winOf p.h.winId).open_ = true ∧ p.h.winGen = (s.b.winOf p.h.winId).gen ∧ w.wr = true ∧ p.h.offset + p.h.length ≤ w.size ∧ pairOk (s.b.ctx c) true (w.base + p.h.offset) p.h.length = false) ∧
    (∃ (s : State), ∃ (arr : Arrival), ∃ (p : Packet), ∃ (x : RxStream), ∃ (n : Nat), ∃ (c : Nat), ∃ (w : WindowRec), ∃ f, ∃ mc, ∃ u, ∃ v, Arrives s arr p x ∧ p.h.typ = tWrite ∧ n = p.h.stream ∧ x.owner = some c ∧ s.b.psnRule (s.b.strmOf n) p.h = (.new, false) ∧ s.b.step8 p.h = true ∧ (x.pd.windows.find? fun w => w.winId = p.h.winId) = some w ∧ (s.b.winOf p.h.winId).open_ = true ∧ p.h.winGen = (s.b.winOf p.h.winId).gen ∧ w.wr = true ∧ p.h.offset + p.h.length ≤ w.size ∧ arr.mem = some f ∧ pairOk (s.b.ctx c) true (w.base + p.h.offset) p.h.length = true ∧ s.b.recFree p.h = true ∧ s.canWrite c (w.base + p.h.offset) p.h.length = true ∧ s.b.accessMc (some c) (w.base + p.h.offset + f.off) = some mc ∧ f.off < p.h.length ∧ wrongNow (s.b.mcOf mc) f.line f.wrong = [u, v] ∧ s.b.ueKills mc f.line = false ∧ (w.base + p.h.offset ≤ (w.base + p.h.offset + f.off) / 64 * 64 → w.base + p.h.offset + p.h.length < (w.base + p.h.offset + f.off) / 64 * 64 + 64)) ∧
    (∃ (s : State), ∃ (arr : Arrival), ∃ (p : Packet), ∃ (x : RxStream), ∃ (n : Nat), ∃ (c : Nat), ∃ (w : WindowRec), Arrives s arr p x ∧ p.h.typ = tWrite ∧ n = p.h.stream ∧ x.owner = some c ∧ s.b.psnRule (s.b.strmOf n) p.h = (.new, false) ∧ s.b.step8 p.h = true ∧ (x.pd.windows.find? fun w => w.winId = p.h.winId) = some w ∧ (s.b.winOf p.h.winId).open_ = true ∧ p.h.winGen = (s.b.winOf p.h.winId).gen ∧ w.wr = true ∧ p.h.offset + p.h.length ≤ w.size ∧ pairOk (s.b.ctx c) true (w.base + p.h.offset) p.h.length = true ∧ s.b.recFree p.h = false) ∧
    (∃ (s : State), ∃ (arr : Arrival), ∃ (p : Packet), ∃ (x : RxStream), ∃ (n : Nat), ∃ (c : Nat), ∃ (w : WindowRec), Arrives s arr p x ∧ p.h.typ = tWrite ∧ n = p.h.stream ∧ x.owner = some c ∧ s.b.psnRule (s.b.strmOf n) p.h = (.new, false) ∧ s.b.step8 p.h = true ∧ (x.pd.windows.find? fun w => w.winId = p.h.winId) = some w ∧ (s.b.winOf p.h.winId).open_ = true ∧ p.h.winGen = (s.b.winOf p.h.winId).gen ∧ w.wr = true ∧ w.size < p.h.offset + p.h.length) ∧
    (∃ (s : State), ∃ (arr : Arrival), ∃ (p : Packet), ∃ (x : RxStream), ∃ (n : Nat), ∃ (c : Nat), ∃ (w : WindowRec), Arrives s arr p x ∧ p.h.typ = tWrite ∧ n = p.h.stream ∧ x.owner = some c ∧ s.b.psnRule (s.b.strmOf n) p.h = (.new, false) ∧ s.b.step8 p.h = true ∧ (x.pd.windows.find? fun w => w.winId = p.h.winId) = some w ∧ (s.b.winOf p.h.winId).open_ = true ∧ p.h.winGen = (s.b.winOf p.h.winId).gen ∧ w.wr = false) :=
  ⟨⟨wSt id, (wArrOf (wPk tWrite fun h => { h with offset := 4032 })), wPk tWrite fun h => { h with offset := 4032 }, wRx wWin, 3, 7, wWin, (by constructor <;> decide +kernel), by decide +kernel⟩,
   ⟨wPair .current, (wArrOf (wPk tWrite id)), wPk tWrite id, wRx wWin, 3, 7, wWin, (by constructor <;> decide +kernel), by decide +kernel⟩,
   ⟨wSt id, { (wArrOf (wPk tWrite fun h => { h with offset := 130, length := 60, msgLen := 60 })) with mem := some { off := 0, line := 5, wrong := [1, 2] } }, wPk tWrite fun h => { h with offset := 130, length := 60, msgLen := 60 }, wRx wWin, 3, 7, wWin, { off := 0, line := 5, wrong := [1, 2] }, copyMc (.sram 0) 130, 1, 2, (by constructor <;> decide +kernel), by decide +kernel⟩,
   ⟨wRecS, (wArrOf (wPk tWrite fun h => { h with offset := 0, msgLen := 4160 })), wPk tWrite fun h => { h with offset := 0, msgLen := 4160 }, wRx wWin, 3, 7, wWin, (by constructor <;> decide +kernel), wJ5 (by decide +kernel) (wJ5 (by decide +kernel) ⟨by decide +kernel, wNoRec 16384 rfl rfl (by decide) (by decide) (by decide)⟩)⟩,
   ⟨wSt id, (wArrOf (wPk tWrite fun h => { h with offset := 4033 })), wPk tWrite fun h => { h with offset := 4033 }, wRx wWin, 3, 7, wWin, (by constructor <;> decide +kernel), by decide +kernel⟩,
   ⟨wSw { wWin with wr := false }, (wArrOf (wPk tWrite id)), wPk tWrite id, wRx { wWin with wr := false }, 3, 7, { wWin with wr := false }, (by constructor <;> decide +kernel), by decide +kernel⟩⟩

theorem test_meets_WriteArrival_2 :
    (∃ (s : State), ∃ (arr : Arrival), ∃ (p : Packet), ∃ (x : RxStream), ∃ (n : Nat), ∃ (c : Nat), ∃ (w : WindowRec), Arrives s arr p x ∧ p.h.typ = tWrite ∧ n = p.h.stream ∧ x.owner = some c ∧ s.b.psnRule (s.b.strmOf n) p.h = (.new, false) ∧ s.b.step8 p.h = true ∧ (x.pd.windows.find? fun w => w.winId = p.h.winId) = some w ∧ (s.b.winOf p.h.winId).open_ = true ∧ p.h.winGen ≠ (s.b.winOf p.h.winId).gen) ∧
    (∃ (s : State), ∃ (arr : Arrival), ∃ (p : Packet), ∃ (x : RxStream), ∃ (n : Nat), ∃ (c : Nat), ∃ (w : WindowRec), Arrives s arr p x ∧ p.h.typ = tWrite ∧ n = p.h.stream ∧ x.owner = some c ∧ s.b.psnRule (s.b.strmOf n) p.h = (.new, false) ∧ s.b.step8 p.h = true ∧ (x.pd.windows.find? fun w => w.winId = p.h.winId) = some w ∧ (s.b.winOf p.h.winId).open_ = false) ∧
    (∃ (s : State), ∃ (arr : Arrival), ∃ (p : Packet), ∃ (x : RxStream), ∃ (n : Nat), ∃ (c : Nat), Arrives s arr p x ∧ p.h.typ = tWrite ∧ n = p.h.stream ∧ x.owner = some c ∧ s.b.psnRule (s.b.strmOf n) p.h = (.new, false) ∧ s.b.step8 p.h = false) ∧
    (∃ (s : State), ∃ (arr : Arrival), ∃ (p : Packet), ∃ (x : RxStream), ∃ (n : Nat), ∃ (c : Nat), Arrives s arr p x ∧ p.h.typ = tWrite ∧ n = p.h.stream ∧ x.owner = some c ∧ s.b.psnRule (s.b.strmOf n) p.h = (.tooFar, false)) ∧
    (∃ (s : State), ∃ (arr : Arrival), ∃ (p : Packet), ∃ (x : RxStream), ∃ (n : Nat), ∃ (c : Nat), Arrives s arr p x ∧ p.h.typ = tWrite ∧ n = p.h.stream ∧ x.owner = some c ∧ s.b.psnRule (s.b.strmOf n) p.h = (.noStream, false)) ∧
    (∃ (s : State), ∃ (arr : Arrival), ∃ (p : Packet), ∃ (x : RxStream), ∃ (n : Nat), ∃ (c : Nat), Arrives s arr p x ∧ p.h.typ = tWrite ∧ n = p.h.stream ∧ x.owner = some c ∧ s.b.psnRule (s.b.strmOf n) p.h = (.synWait, false)) :=
  ⟨⟨wSt id, (wArrOf (wPk tWrite fun h => { h with winGen := 5 })), wPk tWrite fun h => { h with winGen := 5 }, wRx wWin, 3, 7, wWin, (by constructor <;> decide +kernel), by decide +kernel⟩,
   ⟨(wSt id).setB { (wSt id).b with wins := [] }, (wArrOf (wPk tWrite id)), wPk tWrite id, wRx wWin, 3, 7, wWin, (by constructor <;> decide +kernel), by decide +kernel⟩,
   ⟨wSt id, (wArrOf (wPk tWrite fun h => { h with msgLen := 0 })), wPk tWrite fun h => { h with msgLen := 0 }, wRx wWin, 3, 7, (by constructor <;> decide +kernel), by decide +kernel⟩,
   ⟨wSt id, (wArrOf (wPk tWrite fun h => { h with psn := 4106 })), wPk tWrite fun h => { h with psn := 4106 }, wRx wWin, 3, 7, (by constructor <;> decide +kernel), by decide +kernel⟩,
   ⟨wSt fun _ => {}, (wArrOf (wPk tWrite id)), wPk tWrite id, wRx wWin, 3, 7, (by constructor <;> decide +kernel), by decide +kernel⟩,
   ⟨wSt fun t => { t with lastRx := some 4000000 }, (wArrOf (wPk tWrite fun h => { h with syn := true })), wPk tWrite fun h => { h with syn := true }, wRx wWin, 3, 7, (by constructor <;> decide +kernel), by decide +kernel⟩⟩

theorem test_meets_WriteArrival_3 :
    (∃ (s : State), ∃ (arr : Arrival), ∃ (p : Packet), ∃ (x : RxStream), ∃ (n : Nat), ∃ (c : Nat), Arrives s arr p x ∧ p.h.typ = tWrite ∧ n = p.h.stream ∧ x.owner = some c ∧ s.b.psnRule (s.b.strmOf n) p.h = (.dup, false)) :=
  ⟨wSt id, (wArrOf (wPk tWrite fun h => { h with psn := 9 })), wPk tWrite fun h => { h with psn := 9 }, wRx wWin, 3, 7, (by constructor <;> decide +kernel), by decide +kernel⟩

theorem test_meets_PsnRules :
    (∃ (st : Strm), ∃ (h : SkyHdr), h.syn = false ∧ st.known = false) ∧
    (∃ (st : Strm), ∃ (h : SkyHdr), h.syn = false ∧ st.known = true ∧ h.psn < 2 ^ 32 ∧ st.e < 2 ^ 32 ∧ (h.psn ∈ st.map ∨ 2 ^ 31 ≤ (h.psn + (2 ^ 32 - st.e)) % 2 ^ 32)) ∧
    (∃ (st : Strm), ∃ (h : SkyHdr), h.syn = false ∧ st.known = true ∧ h.psn < 2 ^ 32 ∧ st.e < 2 ^ 32 ∧ h.psn ∉ st.map ∧ 4096 ≤ (h.psn + (2 ^ 32 - st.e)) % 2 ^ 32 ∧ (h.psn + (2 ^ 32 - st.e)) % 2 ^ 32 < 2 ^ 31) ∧
    (∃ (st : Strm), ∃ (h : SkyHdr), h.syn = false ∧ st.known = true ∧ h.psn < 2 ^ 32 ∧ st.e < 2 ^ 32 ∧ h.psn ∉ st.map ∧ (h.psn + (2 ^ 32 - st.e)) % 2 ^ 32 < 4096) ∧
    (∃ (st : Strm), ∃ (h : SkyHdr), h.syn = true ∧ st.known = false) ∧
    (∃ (s : State), ∃ (st : Strm), ∃ (h : SkyHdr), ∃ t, h.syn = true ∧ st.known = true ∧ psnSeen st h.psn = false ∧ st.lastRx = some t ∧ t + s.b.mpl ≤ s.b.now) :=
  ⟨⟨{}, { typ := 1 }, by decide +kernel⟩,
   ⟨{ known := true, e := 10 }, { typ := 1, psn := 9 }, by decide +kernel⟩,
   ⟨{ known := true, e := 10 }, { typ := 1, psn := 4106 }, by decide +kernel⟩,
   ⟨{ known := true, e := 10 }, { typ := 1, psn := 4105 }, by decide +kernel⟩,
   ⟨{}, { typ := 1, syn := true }, by decide +kernel⟩,
   ⟨wOn, { known := true, e := 10, lastRx := some 1000000 }, { typ := 1, syn := true, psn := 4106 }, 1000000, by decide +kernel⟩⟩

theorem test_meets_PsnRules_2 :
    (∃ (s : State), ∃ (st : Strm), ∃ (h : SkyHdr), ∃ t, h.syn = true ∧ st.known = true ∧ psnSeen st h.psn = false ∧ st.lastRx = some t ∧ s.b.now < t + s.b.mpl) :=
  ⟨wOn, { known := true, e := 10, lastRx := some 1000001 }, { typ := 1, syn := true, psn := 4106 }, 1000001, by decide +kernel⟩

theorem test_meets_ReadArrival :
    (∃ (s : State), ∃ (arr : Arrival), ∃ (p : Packet), ∃ (x : RxStream), ∃ (n : Nat), ∃ (c : Nat), ∃ (w : WindowRec), Arrives s arr p x ∧ n = p.h.stream ∧ x.owner = some c ∧ p.h.typ = tRead ∧ s.b.step8 p.h = true ∧ (x.pd.windows.find? fun w => w.winId = p.h.winId) = some w ∧ (s.b.winOf p.h.winId).open_ = true ∧ p.h.winGen = (s.b.winOf p.h.winId).gen ∧ w.rd = true ∧ p.h.offset + p.h.msgLen ≤ w.size ∧ pairOk (s.b.ctx c) false (w.base + p.h.offset) p.h.msgLen = true ∧ ((s.b.strmOf n).serves.filter fun v => v.msgId ≠ p.h.msgId).length < 64 ∧ arr.mem = none) ∧
    (∃ (s : State), ∃ (arr : Arrival), ∃ (p : Packet), ∃ (x : RxStream), ∃ (n : Nat), ∃ (c : Nat), ∃ (w : WindowRec), ∃ f, ∃ mc, ∃ u, ∃ k, Arrives s arr p x ∧ n = p.h.stream ∧ x.owner = some c ∧ p.h.typ = tRead ∧ s.b.step8 p.h = true ∧ (x.pd.windows.find? fun w => w.winId = p.h.winId) = some w ∧ (s.b.winOf p.h.winId).open_ = true ∧ p.h.winGen = (s.b.winOf p.h.winId).gen ∧ w.rd = true ∧ p.h.offset + p.h.msgLen ≤ w.size ∧ pairOk (s.b.ctx c) false (w.base + p.h.offset) p.h.msgLen = true ∧ arr.mem = some f ∧ ((s.b.strmOf n).serves.filter fun v => v.msgId ≠ p.h.msgId).length < 64 ∧ s.b.accessMc (some c) (w.base + p.h.offset + f.off) = some mc ∧ f.off < p.h.msgLen ∧ wrongNow (s.b.mcOf mc) f.line f.wrong = [u, k] ∧ s.b.ueKills mc f.line = false) ∧
    (∃ (s : State), ∃ (arr : Arrival), ∃ (p : Packet), ∃ (x : RxStream), ∃ (n : Nat), ∃ (c : Nat), ∃ (w : WindowRec), Arrives s arr p x ∧ n = p.h.stream ∧ x.owner = some c ∧ p.h.typ = tRead ∧ s.b.step8 p.h = true ∧ (x.pd.windows.find? fun w => w.winId = p.h.winId) = some w ∧ (s.b.winOf p.h.winId).open_ = true ∧ p.h.winGen = (s.b.winOf p.h.winId).gen ∧ w.rd = true ∧ p.h.offset + p.h.msgLen ≤ w.size ∧ pairOk (s.b.ctx c) false (w.base + p.h.offset) p.h.msgLen = true ∧ 64 ≤ ((s.b.strmOf n).serves.filter fun v => v.msgId ≠ p.h.msgId).length) ∧
    (∃ (s : State), ∃ (arr : Arrival), ∃ (p : Packet), ∃ (x : RxStream), ∃ (n : Nat), ∃ (c : Nat), ∃ (w : WindowRec), Arrives s arr p x ∧ n = p.h.stream ∧ x.owner = some c ∧ p.h.typ = tRead ∧ s.b.step8 p.h = true ∧ (x.pd.windows.find? fun w => w.winId = p.h.winId) = some w ∧ (s.b.winOf p.h.winId).open_ = true ∧ p.h.winGen = (s.b.winOf p.h.winId).gen ∧ w.rd = true ∧ w.size < p.h.offset + p.h.msgLen) ∧
    (∃ (s : State), ∃ (arr : Arrival), ∃ (p : Packet), ∃ (x : RxStream), ∃ (n : Nat), ∃ (c : Nat), ∃ (w : WindowRec), Arrives s arr p x ∧ n = p.h.stream ∧ x.owner = some c ∧ p.h.typ = tRead ∧ s.b.step8 p.h = true ∧ (x.pd.windows.find? fun w => w.winId = p.h.winId) = some w ∧ (s.b.winOf p.h.winId).open_ = true ∧ p.h.winGen = (s.b.winOf p.h.winId).gen ∧ w.rd = true ∧ p.h.offset + p.h.msgLen ≤ w.size ∧ pairOk (s.b.ctx c) false (w.base + p.h.offset) p.h.msgLen = false) ∧
    (∃ (s : State), ∃ (arr : Arrival), ∃ (p : Packet), ∃ (x : RxStream), ∃ (n : Nat), ∃ (c : Nat), ∃ (w : WindowRec), Arrives s arr p x ∧ n = p.h.stream ∧ x.owner = some c ∧ p.h.typ = tRead ∧ s.b.step8 p.h = true ∧ (x.pd.windows.find? fun w => w.winId = p.h.winId) = some w ∧ (s.b.winOf p.h.winId).open_ = true ∧ p.h.winGen = (s.b.winOf p.h.winId).gen ∧ w.rd = false) :=
  ⟨⟨wSt fun t => { t with serves := (List.range 63).map (wServe · |> fun v => { v with msgId := v.msgId + 10 }) }, (wArrOf (wPk tRead fun h => wRd { h with offset := 4032 })), wPk tRead fun h => wRd { h with offset := 4032 }, wRx wWin, 3, 7, wWin, (by constructor <;> decide +kernel), by decide +kernel⟩,
   ⟨wSt id, { (wArrOf (wPk tRead wRd)) with mem := some { off := 3, line := 5, wrong := [1, 2] } }, wPk tRead wRd, wRx wWin, 3, 7, wWin, { off := 3, line := 5, wrong := [1, 2] }, copyMc (.sram 0) 131, 1, 2, (by constructor <;> decide +kernel), by decide +kernel⟩,
   ⟨wSt fun t => { t with serves := (List.range 64).map (wServe · |> fun v => { v with msgId := v.msgId + 10 }) }, (wArrOf (wPk tRead wRd)), wPk tRead wRd, wRx wWin, 3, 7, wWin, (by constructor <;> decide +kernel), by decide +kernel⟩,
   ⟨wSt id, (wArrOf (wPk tRead fun h => wRd { h with offset := 4033 })), wPk tRead fun h => wRd { h with offset := 4033 }, wRx wWin, 3, 7, wWin, (by constructor <;> decide +kernel), by decide +kernel⟩,
   ⟨wPair .building, (wArrOf (wPk tRead wRd)), wPk tRead wRd, wRx wWin, 3, 7, wWin, (by constructor <;> decide +kernel), by decide +kernel⟩,
   ⟨wSw { wWin with rd := false }, (wArrOf (wPk tRead wRd)), wPk tRead wRd, wRx { wWin with rd := false }, 3, 7, { wWin with rd := false }, (by constructor <;> decide +kernel), by decide +kernel⟩⟩

theorem test_meets_ReadArrival_2 :
    (∃ (s : State), ∃ (arr : Arrival), ∃ (p : Packet), ∃ (x : RxStream), ∃ (n : Nat), ∃ (c : Nat), ∃ (w : WindowRec), Arrives s arr p x ∧ n = p.h.stream ∧ x.owner = some c ∧ p.h.typ = tRead ∧ s.b.step8 p.h = true ∧ (x.pd.windows.find? fun w => w.winId = p.h.winId) = some w ∧ (s.b.winOf p.h.winId).open_ = true ∧ p.h.winGen ≠ (s.b.winOf p.h.winId).gen) ∧
    (∃ (s : State), ∃ (arr : Arrival), ∃ (p : Packet), ∃ (x : RxStream), ∃ (n : Nat), ∃ (c : Nat), ∃ (w : WindowRec), Arrives s arr p x ∧ n = p.h.stream ∧ x.owner = some c ∧ p.h.typ = tRead ∧ s.b.step8 p.h = true ∧ (x.pd.windows.find? fun w => w.winId = p.h.winId) = some w ∧ (s.b.winOf p.h.winId).open_ = false) ∧
    (∃ (s : State), ∃ (arr : Arrival), ∃ (p : Packet), ∃ (x : RxStream), ∃ (n : Nat), ∃ (c : Nat), ∃ m, ∃ a, Arrives s arr p x ∧ n = p.h.stream ∧ x.owner = some c ∧ p.h.typ = tReadResp ∧ ((s.b.strmOf n).msgs.find? fun m => m.msgId = p.h.msgId && m.typ = tRead && m.status.isNone && m.firstAt.isSome) = some m ∧ m.addr = some a ∧ m.use_ ≠ .seal_ ∧ p.h.msgLen = m.len ∧ p.h.offset + p.h.length ≤ m.len ∧ p.h.length ≠ 0 ∧ gotUpTo m.got (m.got.length + 1) p.h.offset < p.h.offset + p.h.length ∧ s.canWrite m.ctx (a + p.h.offset) p.h.length = true ∧ (s.b.ctx m.ctx).hrv.cap = none ∧ arr.mem = none) ∧
    (∃ (s : State), ∃ (arr : Arrival), ∃ (p : Packet), ∃ (x : RxStream), ∃ (n : Nat), ∃ (c : Nat), Arrives s arr p x ∧ n = p.h.stream ∧ x.owner = some c ∧ p.h.typ = tReadResp ∧ ((s.b.strmOf n).msgs.find? fun m => m.msgId = p.h.msgId && m.typ = tRead && m.status.isNone && m.firstAt.isSome) = none) :=
  ⟨⟨wSt id, (wArrOf (wPk tRead fun h => wRd { h with winGen := 5 })), wPk tRead fun h => wRd { h with winGen := 5 }, wRx wWin, 3, 7, wWin, (by constructor <;> decide +kernel), by decide +kernel⟩,
   ⟨(wSt id).setB { (wSt id).b with wins := [] }, (wArrOf (wPk tRead wRd)), wPk tRead wRd, wRx wWin, 3, 7, wWin, (by constructor <;> decide +kernel), by decide +kernel⟩,
   ⟨wSt fun t => { t with msgs := [wRdMsg] }, (wArrOf (wPk tReadResp fun h => { h with offset := 0, psn := 0, winId := 0, winGen := 0 })), wPk tReadResp fun h => { h with offset := 0, psn := 0, winId := 0, winGen := 0 }, wRx wWin, 3, 7, wRdMsg, 4096, (by constructor <;> decide +kernel), by decide +kernel⟩,
   ⟨wSt id, (wArrOf (wPk tReadResp fun h => { h with offset := 0, psn := 0, winId := 0, winGen := 0 })), wPk tReadResp fun h => { h with offset := 0, psn := 0, winId := 0, winGen := 0 }, wRx wWin, 3, 7, (by constructor <;> decide +kernel), by decide +kernel⟩⟩

theorem test_meets_SequencedArrival :
    (∃ (s : State), ∃ (arr : Arrival), ∃ (p : Packet), ∃ (x : RxStream), ∃ (n : Nat), ∃ (c : Nat), Arrives s arr p x ∧ n = p.h.stream ∧ x.owner = some c ∧ s.b.psnRule (s.b.strmOf n) p.h = (.new, false) ∧ (s.b.strmOf n).flushes = [] ∧ p.h.typ = tFlush ∧ p.h.psn = (s.b.strmOf n).e ∧ p.h.psn < 2 ^ 32 ∧ (s.b.strmOf n).map = [] ∧ (s.b.strmOf n).unplaced = [] ∧ p.h.solicit = false ∧ p.h.retx = false ∧ (s.b.strmOf n).unack < 15 ∧ MayAnswer s.b n) ∧
    (∃ (s : State), ∃ (arr : Arrival), ∃ (p : Packet), ∃ (x : RxStream), ∃ (n : Nat), ∃ (c : Nat), Arrives s arr p x ∧ n = p.h.stream ∧ x.owner = some c ∧ s.b.psnRule (s.b.strmOf n) p.h = (.new, false) ∧ (s.b.strmOf n).flushes = [] ∧ p.h.typ = tFlush ∧ p.h.psn ≠ (s.b.strmOf n).e ∧ (s.b.strmOf n).e ∉ (s.b.strmOf n).map ∧ p.h.psn < 2 ^ 32) ∧
    (∃ (s : State), ∃ (arr : Arrival), ∃ (p : Packet), ∃ (x : RxStream), ∃ (n : Nat), ∃ (c : Nat), ∃ first, ∃ count, Arrives s arr p x ∧ n = p.h.stream ∧ x.owner = some c ∧ s.b.psnRule (s.b.strmOf n) p.h = (.new, false) ∧ (s.b.strmOf n).flushes = [] ∧ p.h.typ = tCancel ∧ p.h.offset = first * 2 ^ 32 + count ∧ first < 2 ^ 32 ∧ count ≤ 4096 ∧ count < 2 ^ 32) ∧
    (∃ (s : State), ∃ (arr : Arrival), ∃ (p : Packet), ∃ (x : RxStream), ∃ (n : Nat), ∃ (c : Nat), Arrives s arr p x ∧ n = p.h.stream ∧ x.owner = some c ∧ s.b.psnRule (s.b.strmOf n) p.h = (.new, false) ∧ (s.b.strmOf n).flushes = [] ∧ p.h.typ = tEvent ∧ s.b.step8 p.h = true ∧ (s.b.ctx c).rec_.sink = n ∧ c ≠ moduleCtx) ∧
    (∃ (s : State), ∃ (arr : Arrival), ∃ (p : Packet), ∃ (x : RxStream), ∃ (n : Nat), ∃ (c : Nat), Arrives s arr p x ∧ n = p.h.stream ∧ x.owner = some c ∧ s.b.psnRule (s.b.strmOf n) p.h = (.new, false) ∧ (s.b.strmOf n).flushes = [] ∧ p.h.typ = tEvent ∧ s.b.step8 p.h = true ∧ (s.b.ctx c).rec_.sink ≠ n ∧ c ≠ moduleCtx ∧ s.b.sec.sinkUp = true ∧ ((recOfBytes p.data).sev = 3 ∨ (recOfBytes p.data).sev = 4) ∧ (s.b.ctx c).ev.gap = false) ∧
    (∃ (s : State), ∃ (arr : Arrival), ∃ (p : Packet), ∃ (x : RxStream), ∃ (n : Nat), ∃ (c : Nat), Arrives s arr p x ∧ n = p.h.stream ∧ x.owner = some c ∧ s.b.psnRule (s.b.strmOf n) p.h = (.new, false) ∧ (s.b.strmOf n).flushes = [] ∧ p.h.typ = tEvent ∧ s.b.step8 p.h = false) :=
  ⟨⟨wSt id, (wArrOf (wPk tFlush wFl)), wPk tFlush wFl, wRx wWin, 3, 7, (by constructor <;> decide +kernel), wJ5 (by decide +kernel) (wJ5 (by decide +kernel) (wJ2 (by decide +kernel) (wMayAnswer (by decide +kernel))))⟩,
   ⟨wSt id, (wArrOf (wPk tFlush fun h => wFl { h with psn := 11 })), wPk tFlush fun h => wFl { h with psn := 11 }, wRx wWin, 3, 7, (by constructor <;> decide +kernel), by decide +kernel⟩,
   ⟨wSt id, (wArrOf (wPk tCancel fun h => { (wFl { h with psn := 13 }) with offset := 10 * 2^32 + 4096 })), wPk tCancel fun h => { (wFl { h with psn := 13 }) with offset := 10 * 2^32 + 4096 }, wRx wWin, 3, 7, 10, 4096, (by constructor <;> decide +kernel), by decide +kernel⟩,
   ⟨wSink, (wArrOf (wEvPk)), wEvPk, wRx wWin, 3, 7, (by constructor <;> decide +kernel), by decide +kernel⟩,
   ⟨wSt id, (wArrOf (wEvPk)), wEvPk, wRx wWin, 3, 7, (by constructor <;> decide +kernel), by decide +kernel⟩,
   ⟨wSt id, (wArrOf ({ wEvPk with h := { wEvPk.h with msgLen := 65 } })), { wEvPk with h := { wEvPk.h with msgLen := 65 } }, wRx wWin, 3, 7, (by constructor <;> decide +kernel), by decide +kernel⟩⟩

theorem test_meets_AckArrival :
    (∃ (s : State), ∃ (arr : Arrival), ∃ (p : Packet), ∃ (x : RxStream), ∃ (n : Nat), ∃ (c : Nat), ∃ (st : Strm), ∃ i, ∃ typ, Arrives s arr p x ∧ n = p.h.stream ∧ x.owner = some c ∧ st = s.b.strmOf n ∧ (i, typ) ∈ [(Instr.ack arr p, tAck), (.sack arr p, tSack)] ∧ p.h.typ = typ ∧ st.pkts.filter (fun k => acks p.h k.psn) ≠ [] ∧ (psnSub p.h.ackPsn st.psn = 0 ∨ 2 ^ 31 ≤ psnSub p.h.ackPsn st.psn) ∧ p.h.sackBits = 0 ∧ (∀ q ∈ st.unsent, acks p.h q = false)) ∧
    (∃ (s : State), ∃ (arr : Arrival), ∃ (p : Packet), ∃ (x : RxStream), ∃ (n : Nat), ∃ (c : Nat), ∃ (st : Strm), ∃ i, ∃ typ, Arrives s arr p x ∧ n = p.h.stream ∧ x.owner = some c ∧ st = s.b.strmOf n ∧ (i, typ) ∈ [(Instr.ack arr p, tAck), (.sack arr p, tSack)] ∧ p.h.typ = typ ∧ st.pkts = [] ∧ st.msgs = []) ∧
    (∃ (s : State), ∃ (arr : Arrival), ∃ (p : Packet), ∃ (x : RxStream), ∃ (n : Nat), ∃ (c : Nat), ∃ (st : Strm), ∃ m, Arrives s arr p x ∧ n = p.h.stream ∧ x.owner = some c ∧ st = s.b.strmOf n ∧ p.h.typ = tFlushAck ∧ (st.msgs.find? fun m => m.msgId = p.h.msgId && m.typ = tFlush && m.status.isNone && m.firstAt.isSome) = some m ∧ (∀ a b, m.use_ ≠ .harvest a b)) ∧
    (∃ (s : State), ∃ (arr : Arrival), ∃ (p : Packet), ∃ (x : RxStream), ∃ (n : Nat), ∃ (c : Nat), ∃ (st : Strm), ∃ m, ∃ k, Arrives s arr p x ∧ n = p.h.stream ∧ x.owner = some c ∧ st = s.b.strmOf n ∧ p.h.typ = tNak ∧ (st.pkts.find? fun k => k.psn = p.h.psn && k.msgId = p.h.msgId) = some k ∧ (st.msgs.find? fun m => m.msgId = p.h.msgId) = some m ∧ 1 ≤ p.h.reason ∧ p.h.reason ≤ 6 ∧ (∃ core ph bd, m.use_ = .program core ph bd) ∧ m.status = none ∧ m.typ ≠ tCancel) ∧
    (∃ (s : State), ∃ (arr : Arrival), ∃ (p : Packet), ∃ (x : RxStream), ∃ (n : Nat), ∃ (c : Nat), ∃ (st : Strm), ∃ m, ∃ k, Arrives s arr p x ∧ n = p.h.stream ∧ x.owner = some c ∧ st = s.b.strmOf n ∧ p.h.typ = tNak ∧ (st.pkts.find? fun k => k.psn = p.h.psn && k.msgId = p.h.msgId) = some k ∧ (st.msgs.find? fun m => m.msgId = p.h.msgId) = some m ∧ 8 ≤ p.h.reason ∧ p.h.reason ≤ 10) ∧
    (∃ (s : State), ∃ (arr : Arrival), ∃ (p : Packet), ∃ (x : RxStream), ∃ (n : Nat), ∃ (c : Nat), ∃ (st : Strm), ∃ m, ∃ k, Arrives s arr p x ∧ n = p.h.stream ∧ x.owner = some c ∧ st = s.b.strmOf n ∧ p.h.typ = tNak ∧ (st.pkts.find? fun k => k.psn = p.h.psn && k.msgId = p.h.msgId) = some k ∧ (st.msgs.find? fun m => m.msgId = p.h.msgId) = some m ∧ p.h.reason = rNoStream ∧ (∀ y ∈ st.msgs, y.typ ≠ tCancel ∧ ∃ core ph bd, y.use_ = .program core ph bd)) :=
  ⟨⟨wOutS, (wArrOf (wPk tAck fun h => { (wFl h) with psn := 0, ackPsn := 22 })), wPk tAck fun h => { (wFl h) with psn := 0, ackPsn := 22 }, wRx wWin, 3, 7, wOut, Instr.ack (wArrOf (wPk tAck fun h => { (wFl h) with psn := 0, ackPsn := 22 })) (wPk tAck fun h => { (wFl h) with psn := 0, ackPsn := 22 }), tAck, (by constructor <;> decide +kernel), by decide +kernel⟩,
   ⟨wSt id, (wArrOf (wPk tAck fun h => { (wFl h) with psn := 0, ackPsn := 22 })), wPk tAck fun h => { (wFl h) with psn := 0, ackPsn := 22 }, wRx wWin, 3, 7, { known := true, e := 10 }, Instr.ack (wArrOf (wPk tAck fun h => { (wFl h) with psn := 0, ackPsn := 22 })) (wPk tAck fun h => { (wFl h) with psn := 0, ackPsn := 22 }), tAck, (by constructor <;> decide +kernel), by decide +kernel⟩,
   ⟨wOutS, (wArrOf (wPk tFlushAck fun h => { (wFl h) with psn := 0, msgId := 7 })), wPk tFlushAck fun h => { (wFl h) with psn := 0, msgId := 7 }, wRx wWin, 3, 7, wOut, wOm 4 7 22 1, (by constructor <;> decide +kernel), wJ5 (by decide +kernel) (fun a b h => by cases h)⟩,
   ⟨wOutS, (wArrOf (wPk tNak fun h => { (wFl h) with psn := 21, msgId := 6, reason := 6 })), wPk tNak fun h => { (wFl h) with psn := 21, msgId := 6, reason := 6 }, wRx wWin, 3, 7, wOut, wOm 1 6 20 2, wPkt 21 6, (by constructor <;> decide +kernel), wJ5 (by decide +kernel) (wJ3 (by decide +kernel) ⟨⟨0, .generate, 0, rfl⟩, by decide +kernel⟩)⟩,
   ⟨wOutS, (wArrOf (wPk tNak fun h => { (wFl h) with psn := 21, msgId := 6, reason := 10 })), wPk tNak fun h => { (wFl h) with psn := 21, msgId := 6, reason := 10 }, wRx wWin, 3, 7, wOut, wOm 1 6 20 2, wPkt 21 6, (by constructor <;> decide +kernel), by decide +kernel⟩,
   ⟨wOutS, (wArrOf (wPk tNak fun h => { (wFl h) with psn := 21, msgId := 6, reason := rNoStream })), wPk tNak fun h => { (wFl h) with psn := 21, msgId := 6, reason := rNoStream }, wRx wWin, 3, 7, wOut, wOm 1 6 20 2, wPkt 21 6, (by constructor <;> decide +kernel), wJ5 (by decide +kernel) (wJ2 (by decide +kernel) (by intro y hy; simp only [wOut, List.mem_cons, List.not_mem_nil, or_false] at hy; rcases hy with rfl | rfl <;> exact ⟨by decide, 0, .generate, 0, rfl⟩))⟩⟩

theorem test_meets_AckArrival_2 :
    (∃ (s : State), ∃ (arr : Arrival), ∃ (p : Packet), ∃ (x : RxStream), ∃ (n : Nat), ∃ (c : Nat), ∃ (st : Strm), ∃ m, Arrives s arr p x ∧ n = p.h.stream ∧ x.owner = some c ∧ st = s.b.strmOf n ∧ p.h.typ = tNak ∧ (st.pkts.find? fun k => k.psn = p.h.psn && k.msgId = p.h.msgId) = none ∧ p.h.psn = 0 ∧ (st.msgs.find? fun m => m.msgId = p.h.msgId) = some m ∧ m.typ = tRead ∧ m.status = none ∧ m.firstAt ≠ none ∧ 8 ≤ p.h.reason ∧ p.h.reason ≤ 10) ∧
    (∃ (s : State), ∃ (arr : Arrival), ∃ (p : Packet), ∃ (x : RxStream), ∃ (n : Nat), ∃ (c : Nat), ∃ (st : Strm), Arrives s arr p x ∧ n = p.h.stream ∧ x.owner = some c ∧ st = s.b.strmOf n ∧ p.h.typ = tNak ∧ st.pkts = [] ∧ (∀ m ∈ st.msgs, m.typ ≠ tRead)) :=
  ⟨⟨wOutR, (wArrOf (wPk tNak fun h => { (wFl h) with psn := 0, msgId := 6, reason := 8 })), wPk tNak fun h => { (wFl h) with psn := 0, msgId := 6, reason := 8 }, wRx wWin, 3, 7, wOutRd, { wRdMsg with firstAt := some 4999000 }, (by constructor <;> decide +kernel), by decide +kernel⟩,
   ⟨wSt id, (wArrOf (wPk tNak fun h => { (wFl h) with psn := 21, msgId := 6, reason := 1 })), wPk tNak fun h => { (wFl h) with psn := 21, msgId := 6, reason := 1 }, wRx wWin, 3, 7, { known := true, e := 10 }, (by constructor <;> decide +kernel), by decide +kernel⟩⟩

theorem test_meets_Transmission :
    (∃ (s : State), ∃ (n : Nat), ∃ (st : Strm), ∃ (d : Option Nat × PdRec × StreamRec), st = s.b.strmOf n ∧ s.b.findStream n = some d ∧ s.b.spare.displaced = false ∧ (st.synPsn ≠ none ∨ st.resyncAt ≠ none)) ∧
    (∃ (s : State), ∃ (n : Nat), ∃ (q : Nat), ∃ (m : OutMsg), ∃ (path : Nat × Nat), ∃ (st : Strm), ∃ (d : Option Nat × PdRec × StreamRec), ∃ data, st = s.b.strmOf n ∧ s.b.findStream n = some d ∧ s.b.spare.displaced = false ∧ st.synPsn = none ∧ st.resyncAt = none ∧ (∀ i, (s.b.portOf i).ctl = []) ∧ s.b.Near path.1 (s.b.peerAddr n) ∧ nextNew st = some (q, m) ∧ choosePath st (s.b.paths n (s.b.maskOf n m)) none = some path ∧ (s.b.cwndTick n).newFits ((s.b.cwndTick n).strmOf n) q m path.1 = true ∧ (data = (if m.typ = tFlush ∨ m.typ = tCancel then [] else s.pktBytes m (psnSub q m.psn)))) ∧
    (∃ (s : State), ∃ (n : Nat), ∃ (m : OutMsg), ∃ (path : Nat × Nat), ∃ (st : Strm), ∃ (d : Option Nat × PdRec × StreamRec), st = s.b.strmOf n ∧ s.b.findStream n = some d ∧ s.b.spare.displaced = false ∧ st.synPsn = none ∧ st.resyncAt = none ∧ (∀ i, (s.b.portOf i).ctl = []) ∧ s.b.Near path.1 (s.b.peerAddr n) ∧ (s.b.cwndTick n).newReady n = none ∧ nextRead st = some m ∧ choosePath st (s.b.paths n (s.b.maskOf n m)) none = some path) ∧
    (∃ (s : State), ∃ (n : Nat), ∃ (path : Nat × Nat), ∃ (st : Strm), ∃ (d : Option Nat × PdRec × StreamRec), ∃ v, ∃ rest, st = s.b.strmOf n ∧ s.b.findStream n = some d ∧ s.b.spare.displaced = false ∧ st.synPsn = none ∧ st.resyncAt = none ∧ (∀ i, (s.b.portOf i).ctl = []) ∧ s.b.Near path.1 (s.b.peerAddr n) ∧ (s.b.cwndTick n).newReady n = none ∧ nextRead st = none ∧ st.serves = v :: rest ∧ choosePath st (s.b.paths n 0x7F) none = some path) :=
  ⟨⟨wTxS { wTx with resyncAt := some 9 }, 3, { wTx with resyncAt := some 9 }, wEnt, by decide +kernel⟩,
   ⟨wTxS wTx, 3, 20, { wMsg with addr := some 128 }, wPath (wTxS wTx) wTx, wTx, wEnt, (wTxS wTx).pktBytes { wMsg with addr := some 128 } 0, wJ5 (by decide +kernel) ⟨(wNoCtl (by decide +kernel)), wNear (by decide +kernel), by decide +kernel⟩⟩,
   ⟨wTxS { known := true, msgs := [{ wRdMsg with firstAt := none }] }, 3, { wRdMsg with firstAt := none }, wPath (wTxS wTx) {}, { known := true, msgs := [{ wRdMsg with firstAt := none }] }, wEnt, wJ5 (by decide +kernel) ⟨(wNoCtl (by decide +kernel)), wNear (by decide +kernel), by decide +kernel⟩⟩,
   ⟨wTxS { known := true, serves := [wServe 4] }, 3, wPath (wTxS wTx) {}, { known := true, serves := [wServe 4] }, wEnt, wServe 4, [], wJ5 (by decide +kernel) ⟨(wNoCtl (by decide +kernel)), wNear (by decide +kernel), by decide +kernel⟩⟩⟩

theorem test_meets_SkeyrTimers :
    (∃ (s : State), ∃ (n : Nat), ∃ (st : Strm), ∃ u, st = s.b.strmOf n ∧ st.unackAt = some u ∧ 0 < st.unack ∧ u + 2000 ≤ s.b.now ∧ MayAnswer s.b n) ∧
    (∃ (s : State), ∃ (n : Nat), ∃ (psn : Nat), ∃ (m : OutMsg), ∃ (k : OutPkt), ∃ (st : Strm), st = s.b.strmOf n ∧ (st.pkts.find? fun k => k.psn = psn) = some k ∧ s.b.past k.lastAt k.rto = true ∧ s.b.past k.firstAt s.b.mpl = false ∧ (∀ i, (s.b.portOf i).ctl = []) ∧ s.b.spare.displaced = false ∧ (st.msgs.find? fun y => y.msgId = k.msgId) = some m ∧ s.b.paths n (s.b.maskOf n m) ≠ [] ∧ (∀ y ∈ s.b.paths n (s.b.maskOf n m), s.b.Near y.1 (s.b.peerAddr n))) ∧
    (∃ (s : State), ∃ (n : Nat), ∃ (psn : Nat), ∃ (m : OutMsg), ∃ (k : OutPkt), ∃ (st : Strm), st = s.b.strmOf n ∧ (st.pkts.find? fun k => k.psn = psn) = some k ∧ (st.msgs.find? fun y => y.msgId = k.msgId) = some m ∧ s.b.past k.firstAt s.b.mpl = true ∧ (∃ core ph bd, m.use_ = .program core ph bd) ∧ m.typ ≠ tCancel ∧ m.status = none) ∧
    (∃ (s : State), ∃ (n : Nat), ∃ (m : OutMsg), ∃ (st : Strm), ∃ id, ∃ f, st = s.b.strmOf n ∧ (st.msgs.find? fun m => m.msgId = id && m.typ = tRead && m.status.isNone) = some m ∧ m.firstAt = some f ∧ (∃ core ph bd, m.use_ = .program core ph bd) ∧ s.b.past f s.b.mpl = true) ∧
    (∃ (s : State), ∃ (n : Nat), ∃ (m : OutMsg), ∃ (st : Strm), ∃ id, ∃ f, ∃ path, st = s.b.strmOf n ∧ (st.msgs.find? fun m => m.msgId = id && m.typ = tRead && m.status.isNone) = some m ∧ m.firstAt = some f ∧ (∃ core ph bd, m.use_ = .program core ph bd) ∧ s.b.past f s.b.mpl = false ∧ s.b.past m.lastAt (if m.retry then s.b.rtoOf st else 2 * s.b.rtoOf st) = true ∧ st.resyncAt = none ∧ st.synPsn = none ∧ (∀ i, (s.b.portOf i).ctl = []) ∧ s.b.spare.displaced = false ∧ choosePath st (s.b.paths n (s.b.maskOf n m)) none = some path ∧ s.b.Near path.1 (s.b.peerAddr n)) ∧
    (∃ (s : State), ∃ (n : Nat), ∃ (m : OutMsg), ∃ (st : Strm), ∃ id, st = s.b.strmOf n ∧ (st.msgs.find? fun m => m.msgId = id && m.typ = tFlush && m.status.isNone && m.acked) = some m ∧ (∃ core ph bd, m.use_ = .program core ph bd) ∧ s.b.past (m.firstAt.getD m.issuedAt) s.b.mpl = true) :=
  ⟨⟨wTxS { known := true, unack := 1, unackAt := some 4998000 }, 3, { known := true, unack := 1, unackAt := some 4998000 }, 4998000, wJ4 (by decide +kernel) (wMayAnswer (by decide +kernel))⟩,
   ⟨wOutS, 3, 20, wOm 1 6 20 2, wPkt 20 6, wOut, wJ4 (by decide +kernel) ⟨(wNoCtl (by decide +kernel)), wJ3 (by decide +kernel) (wNears (by decide +kernel))⟩⟩,
   ⟨wTxS { wOut with pkts := [{ wPkt 20 6 with firstAt := 1000000 }] }, 3, 20, wOm 1 6 20 2, { wPkt 20 6 with firstAt := 1000000 }, { wOut with pkts := [{ wPkt 20 6 with firstAt := 1000000 }] }, wJ4 (by decide +kernel) ⟨⟨0, .generate, 0, rfl⟩, by decide +kernel⟩⟩,
   ⟨wTxS wOldRead, 3, { wRdMsg with firstAt := some 1000000 }, wOldRead, 6, 1000000, wJ3 (by decide +kernel) ⟨⟨0, .generate, 0, rfl⟩, by decide +kernel⟩⟩,
   ⟨wTxS wNewRead, 3, { wRdMsg with firstAt := some 4000000, lastAt := 0 }, wNewRead, 6, 4000000, wPath (wTxS wTx) {}, wJ3 (by decide +kernel) ⟨⟨0, .generate, 0, rfl⟩, wJ4 (by decide +kernel) ⟨(wNoCtl (by decide +kernel)), wJ2 (by decide +kernel) (wNear (by decide +kernel))⟩⟩⟩,
   ⟨wTxS { known := true, msgs := [wFlMsg 1000000] }, 3, wFlMsg 1000000, { known := true, msgs := [wFlMsg 1000000] }, 6, wJ2 (by decide +kernel) ⟨⟨0, .generate, 0, rfl⟩, by decide +kernel⟩⟩⟩

theorem test_meets_SkeyrTimers_2 :
    (∃ (s : State), ∃ (n : Nat), ∃ (m : OutMsg), ∃ (st : Strm), ∃ id, ∃ path, st = s.b.strmOf n ∧ (st.msgs.find? fun m => m.msgId = id && m.typ = tFlush && m.status.isNone && m.acked) = some m ∧ (∃ core ph bd, m.use_ = .program core ph bd) ∧ s.b.past (m.firstAt.getD m.issuedAt) s.b.mpl = false ∧ s.b.past m.lastAt (s.b.rtoOf st) = true ∧ st.resyncAt = none ∧ st.synPsn = none ∧ (∀ i, (s.b.portOf i).ctl = []) ∧ s.b.spare.displaced = false ∧ choosePath st (s.b.paths n (s.b.maskOf n m)) none = some path ∧ s.b.Near path.1 (s.b.peerAddr n)) ∧
    (∃ (s : State), ∃ (n : Nat), ∃ (st : Strm), ∃ id, ∃ (r : InRec), st = s.b.strmOf n ∧ (s.b.recs.find? fun r => r.stream = n && r.msgId = id) = some r ∧ r.firstAt + 2 * s.b.mpl ≤ s.b.now) ∧
    (∃ (s : State), ∃ (n : Nat), ∃ (st : Strm), ∃ u, st = s.b.strmOf n ∧ st.resyncAt = some u ∧ u ≤ s.b.now) :=
  ⟨⟨wTxS { known := true, msgs := [wFlMsg 4000000] }, 3, wFlMsg 4000000, { known := true, msgs := [wFlMsg 4000000] }, 6, wPath (wTxS wTx) {}, wJ2 (by decide +kernel) ⟨⟨0, .generate, 0, rfl⟩, wJ4 (by decide +kernel) ⟨(wNoCtl (by decide +kernel)), wJ2 (by decide +kernel) (wNear (by decide +kernel))⟩⟩⟩,
   ⟨(wSt id).setB { (wSt id).b with now := 8000000, recs := [{ stream := 3, msgId := 6, typ := 1, len := 5000, firstAt := 0 }] }, 3, { known := true, e := 10 }, 6, { stream := 3, msgId := 6, typ := 1, len := 5000, firstAt := 0 }, by decide +kernel⟩,
   ⟨wTxS { known := true, resyncAt := some 5000000 }, 3, { known := true, resyncAt := some 5000000 }, 5000000, by decide +kernel⟩⟩

theorem test_meets_HeldPackets :
    (∃ (s : State), ∃ (die : Nat), ∃ (x : Held), ∃ (rx : RxStream), ∃ (c : Nat), ∃ (w : WindowRec), s.b.held = [x] ∧ x.die = die ∧ x.pkt.h.typ = tWrite ∧ s.b.rxStream x.pkt.h = some rx ∧ rx.owner = some c ∧ (rx.pd.windows.find? fun w => w.winId = x.pkt.h.winId) = some w ∧ s.canWrite c (w.base + x.pkt.h.offset) x.pkt.h.length = true ∧ (s.b.ctx c).hrv.cap = none ∧ x.arr.mem = none) ∧
    (∃ (s : State), ∃ (die : Nat), ∃ (x : Held), ∃ (rx : RxStream), ∃ (c : Nat), ∃ (w : WindowRec), s.b.held = [x] ∧ x.die = die ∧ x.pkt.h.typ = tWrite ∧ s.b.rxStream x.pkt.h = some rx ∧ rx.owner = some c ∧ (rx.pd.windows.find? fun w => w.winId = x.pkt.h.winId) = some w ∧ s.canWrite c (w.base + x.pkt.h.offset) x.pkt.h.length = false) ∧
    (∃ (s : State), ∃ (y : TstHold), s.b.tst.held = [y] ∧ y.at_ ≤ s.b.now ∧ s.b.tst.stopping = false ∧ (s.b.portOf y.arr.port).st = .up ∧ s.b.spare.displaced = false ∧ s.b.running = true) ∧
    (∃ (s : State), ∃ (y : TstHold), s.b.tst.held = [y] ∧ y.at_ ≤ s.b.now ∧ s.b.tst.stopping = false ∧ (s.b.portOf y.arr.port).st ≠ .up) ∧
    (∃ (s : State), ∃ (y : TstHold), s.b.tst.held = [y] ∧ y.at_ ≤ s.b.now ∧ s.b.tst.stopping = true ∧ (s.b.portOf y.arr.port).st ≠ .up) :=
  ⟨⟨wNB fun b => { b with held := [wHeld] }, homeDie 3, wHeld, wRx wWin, 7, wWin, by decide +kernel⟩,
   ⟨wNB fun b => { b with held := [wHeld], slu := { b.slu with migs := [{ ctx := 7, gran := 0, kind := .stage 1 false }] } }, homeDie 3, wHeld, wRx wWin, 7, wWin, by decide +kernel⟩,
   ⟨wNB fun b => { b with tst := { b.tst with held := [wTh] } }, wTh, by decide +kernel⟩,
   ⟨wDownPort.setB { wDownPort.b with tst := { wDownPort.b.tst with held := [wTh] } }, wTh, by decide +kernel⟩,
   ⟨wDownPort.setB { wDownPort.b with tst := { wDownPort.b.tst with held := [wTh], stopping := true } }, wTh, by decide +kernel⟩⟩

def wRd3 : Coll := wK 3 id
def wPs : Packet := wSh tPermute id
def wRestP (r : CtlRec) : Packet := wCtl r seqRestore
def wCr : CtlRec := { kind := 4, rank := 1, credits := 1 }
def wK8 : Coll := wK 8 id
def wWait : Coll := wK 3 fun k => { k with st := .waiting, die := dLD0, engine := none }
def wGo : State := (wKs [wWait]) |> fun s => s.setB ((s.b.setSts [cePan 0] .ready).request (.colls dLD0) { cls := 0, ctx := 7, cost := 1, what := .coll 7 1 3 })
def wG5 : GroupRec := { wGrp with shardTo := 5, abortTo := 5 }
def wGs (k : Coll) : State := (wKs [k]).setB { (wKs [k]).b with cfg := { (wKs [k]).b.cfg with groups := [wG5] } }
def wLack : Coll := wK 3 fun k => { k with waitTide := some 0, waitAt := some 0, rereqTide := 0 }
def wRep : Coll := wK 6 fun k => { k with st := .reported, report := [(0, 2)], engine := none, d := { k.d with epoch := 7, table := 1024, tableCount := 1 } }
def wRep2 : Coll := { wRep with report := [(0, 2), (1, 2)], die := dLD0 }
def wRep6 : Coll := { wRep with d := { wRep.d with epoch := 6 } }
def wTideS (n : Nat) (k : Coll) : State := (wKs [k]).setB { (wKs [k]).b with tide := { (wKs [k]).b.tide with num := n } }
def wLate7 : State := wTideS 40 (wK 7 fun k => { k with entry := [(0, 1)] })
def wLate6 : State := wTideS 40 wRep6
def wHeldS (d : List Nat) : State := (wKs [{ wRd3 with st := .waiting }]).setB { (wKs [{ wRd3 with st := .waiting }]).b with heldShards := [{ die := homeDie 3, arr := {}, pkt := { h := { typ := tReduce }, data := d } }] }
theorem wHeldS_used (d : List Nat) : (wHeldS d).b.stagingUsed (homeDie 3) = d.length := by
  have h : (wHeldS d).b.stagingUsed (homeDie 3) = d.length + 0 := rfl
  simpa using h
theorem wHeldS_full (d : List Nat) (n : Nat) (h : d.length = n) : n < (wHeldS d).b.stagingUsed (homeDie 3) + wPs.data.length := by
  rw [wHeldS_used, h]
  exact Nat.lt_add_of_pos_right (by decide +kernel)
@[irreducible] def wMany : List Nat := List.replicate (64 * 2 ^ 20) 0
theorem wMany_length : wMany.length = 64 * 2 ^ 20 := by unfold wMany; exact List.length_replicate
def wHrv : HrvRec := { nsEvery := 3, b0Stream := 3, b1Stream := 4, hostStream := 9 }
def wHs (c : Ctx) : State := wNB fun b => { b with cfg := { b.cfg with hrv := wHrv }, ctxs := [(7, c)] }
def wCap : Capture := { step := 3, at_ := 1, drains := [{ dest := 0, since := 0 }, { dest := 1, since := 0, done := true }] }
def wCapDone : Capture := { wCap with drains := [{ dest := 1, since := 0, done := true }] }
def wHc (k : Capture) : Ctx := { wNc with hrv := { cap := some k } }
def wBs : List Nat := List.replicate 70 9
def wCopy : Copy := { tensor := 0, holder := 0, sha := 0, carried := shaNat wBs, bytes := wBs }
def wRc (f : HrvSt → HrvSt) : Ctx := { wNc with st := .restoring, hrv := f { restoreStep := 3, m := some (some 12) } }
def wScal : ScalarRec := { step := 12, pos := 4, seedSha := seedDigest (wRc id), groupSha := (wHs (wRc id)).b.groupDigest, epoch := 2, version := 11, winGens := [(2, 9)] }
def wScalOf (r : ScalarRec) : Copy := { tensor := scalarId, holder := 0, sha := 0, carried := shaNat (scalarBytes r), bytes := scalarBytes r }
def wScalar : Copy := wScalOf wScal
theorem wLe_ne (n v : Nat) : leBytes (n + 1) v ≠ [] := fun h => by
  have g := congrArg List.length h
  rw [leBytes, List.length_map, List.length_range] at g
  exact Nat.noConfusion g
theorem wApp_ne {a b : List Nat} (h : a ≠ []) : a ++ b ≠ [] := fun k => h (List.append_eq_nil_iff.mp k).1
theorem wScalar_ne (r : ScalarRec) : scalarBytes r ≠ [] :=
  wApp_ne (wApp_ne (wApp_ne (wApp_ne (wApp_ne (wApp_ne (wApp_ne (wApp_ne (wApp_ne (wApp_ne (wApp_ne (wLe_ne 7 r.step)))))))))))
theorem wScalOf_bytes (r : ScalarRec) : (wScalOf r).bytes ≠ [] := wScalar_ne r
theorem wScalOf_ok (r : ScalarRec) : copyIntact (wScalOf r) = true := by
  have h : (wScalOf r).bytes.isEmpty = false := List.isEmpty_eq_false_iff.mpr (wScalOf_bytes r)
  unfold copyIntact copySha
  rw [h]
  exact (Bool.and_true _).trans (decide_eq_true rfl)

theorem test_meets_ShardArrival :
    (∃ (s : State), ∃ (arr : Arrival), ∃ (p : Packet), ∃ (x : RxStream), ∃ (c : Nat), ∃ (k : Coll), ∃ (g : GroupRec), ∃ (rank : Nat), ∃ (i : Instr), ∃ (typ : Nat), ∃ (n : Nat), ∃ (sh : Shard), (i, typ) ∈ [(Instr.reduce arr p, tReduce), (.permuteSeg arr p, tPermute)] ∧ p.h.typ = typ ∧ bitAt p.h.offset 63 = false ∧ sh = shardOf rank p ∧ n = p.h.stream ∧ CollArrives s arr p x c k g rank ∧ k.st = .running ∧ s.b.mismatch k rank p.h.msgLen = false ∧ s.b.shardExtent k sh p.h.msgLen = true ∧ (∀ a, s.b.shardDst k rank sh.off sh.dst = some a → access (s.b.ctx c) k.who true a p.h.length = .ok ∧ s.canWrite c a p.h.length = true) ∧ (∀ y ∈ k.got, y.rank = rank → y.off ≠ sh.off) ∧ arr.mem = none) ∧
    (∃ (s : State), ∃ (arr : Arrival), ∃ (p : Packet), ∃ (x : RxStream), ∃ (c : Nat), ∃ (k : Coll), ∃ (g : GroupRec), ∃ (rank : Nat), ∃ (i : Instr), ∃ (typ : Nat), ∃ (n : Nat), ∃ (sh : Shard), (i, typ) ∈ [(Instr.reduce arr p, tReduce), (.permuteSeg arr p, tPermute)] ∧ p.h.typ = typ ∧ bitAt p.h.offset 63 = false ∧ sh = shardOf rank p ∧ n = p.h.stream ∧ CollArrives s arr p x c k g rank ∧ k.st = .running ∧ s.b.mismatch k rank p.h.msgLen = false ∧ s.b.shardExtent k sh p.h.msgLen = false) ∧
    (∃ (s : State), ∃ (arr : Arrival), ∃ (p : Packet), ∃ (x : RxStream), ∃ (c : Nat), ∃ (k : Coll), ∃ (g : GroupRec), ∃ (rank : Nat), ∃ (i : Instr), ∃ (typ : Nat), ∃ (n : Nat), ∃ (sh : Shard), (i, typ) ∈ [(Instr.reduce arr p, tReduce), (.permuteSeg arr p, tPermute)] ∧ p.h.typ = typ ∧ bitAt p.h.offset 63 = false ∧ sh = shardOf rank p ∧ n = p.h.stream ∧ CollArrives s arr p x c k g rank ∧ (k.st = .running ∨ k.st = .done) ∧ s.b.mismatch k rank p.h.msgLen = true) ∧
    (∃ (s : State), ∃ (arr : Arrival), ∃ (p : Packet), ∃ (x : RxStream), ∃ (c : Nat), ∃ (k : Coll), ∃ (g : GroupRec), ∃ (rank : Nat), ∃ (i : Instr), ∃ (typ : Nat), ∃ (n : Nat), ∃ (sh : Shard), (i, typ) ∈ [(Instr.reduce arr p, tReduce), (.permuteSeg arr p, tPermute)] ∧ p.h.typ = typ ∧ bitAt p.h.offset 63 = false ∧ sh = shardOf rank p ∧ n = p.h.stream ∧ CollArrives s arr p x c k g rank ∧ (k.st = .waiting ∨ k.st = .held ∨ k.st = .requested ∨ k.st = .reported) ∧ s.b.stagingUsed (homeDie n) + p.data.length ≤ 64 * 2 ^ 20) ∧
    (∃ (s : State), ∃ (arr : Arrival), ∃ (p : Packet), ∃ (x : RxStream), ∃ (c : Nat), ∃ (k : Coll), ∃ (g : GroupRec), ∃ (rank : Nat), ∃ (i : Instr), ∃ (typ : Nat), ∃ (n : Nat), ∃ (sh : Shard), (i, typ) ∈ [(Instr.reduce arr p, tReduce), (.permuteSeg arr p, tPermute)] ∧ p.h.typ = typ ∧ bitAt p.h.offset 63 = false ∧ sh = shardOf rank p ∧ n = p.h.stream ∧ CollArrives s arr p x c k g rank ∧ (k.st = .waiting ∨ k.st = .held ∨ k.st = .requested ∨ k.st = .reported) ∧ 64 * 2 ^ 20 < s.b.stagingUsed (homeDie n) + p.data.length) ∧
    (∃ (s : State), ∃ (arr : Arrival), ∃ (p : Packet), ∃ (x : RxStream), ∃ (c : Nat), ∃ (rank : Nat), ∃ (i : Instr), ∃ (typ : Nat), ∃ (n : Nat), ∃ (sh : Shard), (i, typ) ∈ [(Instr.reduce arr p, tReduce), (.permuteSeg arr p, tPermute)] ∧ p.h.typ = typ ∧ bitAt p.h.offset 63 = false ∧ sh = shardOf rank p ∧ n = p.h.stream ∧ Arrives s arr p x ∧ x.owner = some c ∧ s.b.psnRule (s.b.strmOf n) p.h = (.new, false) ∧ s.b.findColl c p.h.winId (bits p.h.offset 40 23) = none ∧ s.b.step8 p.h = true ∧ s.b.groupOf p.h.winId = none) :=
  ⟨⟨wKs [wRd3], (wArrOf (wPs)), wPs, wRx wWin, 7, wRd3, wGrp, 1, Instr.permuteSeg (wArrOf (wPs)) wPs, tPermute, 3, shardOf 1 (wPs), wJ5 (by decide +kernel) ⟨(by constructor <;> first | decide +kernel | (constructor <;> decide +kernel)), wJ3 (by decide +kernel) ⟨(wSome (a := 192) (by decide +kernel) (by decide +kernel)), by decide +kernel⟩⟩⟩,
   ⟨wKs [wK 2 id], (wArrOf (wSh tReduce fun h => { h with msgLen := 256, offset := 3 * 2^40 + 65 })), wSh tReduce fun h => { h with msgLen := 256, offset := 3 * 2^40 + 65 }, wRx wWin, 7, wK 2 id, wGrp, 1, Instr.reduce (wArrOf (wSh tReduce fun h => { h with msgLen := 256, offset := 3 * 2^40 + 65 })) (wSh tReduce fun h => { h with msgLen := 256, offset := 3 * 2^40 + 65 }), tReduce, 3, shardOf 1 (wSh tReduce fun h => { h with msgLen := 256, offset := 3 * 2^40 + 65 }), wJ5 (by decide +kernel) ⟨(by constructor <;> first | decide +kernel | (constructor <;> decide +kernel)), by decide +kernel⟩⟩,
   ⟨wKs [wRd3], (wArrOf (wSh tPermute fun h => { h with msgLen := 128 })), wSh tPermute fun h => { h with msgLen := 128 }, wRx wWin, 7, wRd3, wGrp, 1, Instr.permuteSeg (wArrOf (wSh tPermute fun h => { h with msgLen := 128 })) (wSh tPermute fun h => { h with msgLen := 128 }), tPermute, 3, shardOf 1 (wSh tPermute fun h => { h with msgLen := 128 }), wJ5 (by decide +kernel) ⟨(by constructor <;> first | decide +kernel | (constructor <;> decide +kernel)), by decide +kernel⟩⟩,
   ⟨wKs [{ wRd3 with st := .waiting }], (wArrOf (wPs)), wPs, wRx wWin, 7, { wRd3 with st := .waiting }, wGrp, 1, Instr.permuteSeg (wArrOf (wPs)) wPs, tPermute, 3, shardOf 1 (wPs), wJ5 (by decide +kernel) ⟨(by constructor <;> first | decide +kernel | (constructor <;> decide +kernel)), by decide +kernel⟩⟩,
   ⟨wHeldS wMany, (wArrOf (wPs)), wPs, wRx wWin, 7, { wRd3 with st := .waiting }, wGrp, 1, Instr.permuteSeg (wArrOf (wPs)) wPs, tPermute, 3, shardOf 1 (wPs), wJ5 (by decide +kernel) ⟨(by constructor <;> first | decide +kernel | (constructor <;> decide +kernel)), by decide +kernel, (wHeldS_full _ _ wMany_length)⟩⟩,
   ⟨(wKs []).setB { (wKs []).b with cfg := { (wKs []).b.cfg with groups := [] } }, (wArrOf (wPs)), wPs, wRx wWin, 7, 0, Instr.permuteSeg (wArrOf (wPs)) wPs, tPermute, 3, shardOf 0 (wPs), wJ5 (by decide +kernel) ⟨(by constructor <;> decide +kernel), by decide +kernel⟩⟩⟩

theorem test_meets_ShardArrival_2 :
    (∃ (s : State), ∃ (arr : Arrival), ∃ (p : Packet), ∃ (x : RxStream), ∃ (c : Nat), ∃ (g : GroupRec), ∃ (rank : Nat), ∃ (i : Instr), ∃ (typ : Nat), ∃ (n : Nat), ∃ (sh : Shard), (i, typ) ∈ [(Instr.reduce arr p, tReduce), (.permuteSeg arr p, tPermute)] ∧ p.h.typ = typ ∧ bitAt p.h.offset 63 = false ∧ sh = shardOf rank p ∧ n = p.h.stream ∧ Arrives s arr p x ∧ x.owner = some c ∧ s.b.psnRule (s.b.strmOf n) p.h = (.new, false) ∧ s.b.findColl c p.h.winId (bits p.h.offset 40 23) = none ∧ s.b.step8 p.h = true ∧ s.b.groupOf p.h.winId = some g ∧ (∀ m ∈ g.members, m.addr ≠ arr.src)) ∧
    (∃ (s : State), ∃ (arr : Arrival), ∃ (p : Packet), ∃ (x : RxStream), ∃ (c : Nat), ∃ (g : GroupRec), ∃ (rank : Nat), ∃ (i : Instr), ∃ (typ : Nat), ∃ (n : Nat), ∃ (sh : Shard), (i, typ) ∈ [(Instr.reduce arr p, tReduce), (.permuteSeg arr p, tPermute)] ∧ p.h.typ = typ ∧ bitAt p.h.offset 63 = false ∧ sh = shardOf rank p ∧ n = p.h.stream ∧ Arrives s arr p x ∧ x.owner = some c ∧ s.b.psnRule (s.b.strmOf n) p.h = (.new, false) ∧ s.b.findColl c p.h.winId (bits p.h.offset 40 23) = none ∧ s.b.step8 p.h = true ∧ s.b.groupOf p.h.winId = some g ∧ (∃ m ∈ g.members, m.addr = arr.src) ∧ s.b.spare.groupsLeft = false ∧ epochBelow (s.b.ctx c).epoch p.h.winGen = true) ∧
    (∃ (s : State), ∃ (arr : Arrival), ∃ (p : Packet), ∃ (x : RxStream), ∃ (c : Nat), ∃ (g : GroupRec), ∃ (rank : Nat), ∃ (i : Instr), ∃ (typ : Nat), ∃ (n : Nat), ∃ (sh : Shard), (i, typ) ∈ [(Instr.reduce arr p, tReduce), (.permuteSeg arr p, tPermute)] ∧ p.h.typ = typ ∧ bitAt p.h.offset 63 = false ∧ sh = shardOf rank p ∧ n = p.h.stream ∧ Arrives s arr p x ∧ x.owner = some c ∧ s.b.psnRule (s.b.strmOf n) p.h = (.new, false) ∧ s.b.findColl c p.h.winId (bits p.h.offset 40 23) = none ∧ s.b.step8 p.h = true ∧ s.b.groupOf p.h.winId = some g ∧ (∃ m ∈ g.members, m.addr = arr.src) ∧ s.b.spare.groupsLeft = false ∧ epochBelow (s.b.ctx c).epoch p.h.winGen = false ∧ seqAhead (s.b.ctx c) p.h.winId (bits p.h.offset 40 23) = true ∧ s.b.recFree p.h = true ∧ s.b.stagingUsed (homeDie n) + p.data.length ≤ 64 * 2 ^ 20) :=
  ⟨⟨(wKs []).setB { (wKs []).b with cfg := { (wKs []).b.cfg with groups := [{ wGrp with members := [] }] } }, (wArrOf (wPs)), wPs, wRx wWin, 7, { wGrp with members := [] }, 0, Instr.permuteSeg (wArrOf (wPs)) wPs, tPermute, 3, shardOf 0 (wPs), wJ5 (by decide +kernel) ⟨(by constructor <;> decide +kernel), by decide +kernel⟩⟩,
   ⟨wKs [], (wArrOf (wSh tPermute fun h => { h with winGen := 5 })), wSh tPermute fun h => { h with winGen := 5 }, wRx wWin, 7, wGrp, 0, Instr.permuteSeg (wArrOf (wSh tPermute fun h => { h with winGen := 5 })) (wSh tPermute fun h => { h with winGen := 5 }), tPermute, 3, shardOf 0 (wSh tPermute fun h => { h with winGen := 5 }), wJ5 (by decide +kernel) ⟨(by constructor <;> decide +kernel), by decide +kernel⟩⟩,
   ⟨wKs [], (wArrOf (wPs)), wPs, wRx wWin, 7, wGrp, 0, Instr.permuteSeg (wArrOf (wPs)) wPs, tPermute, 3, shardOf 0 (wPs), wJ5 (by decide +kernel) ⟨(by constructor <;> decide +kernel), by decide +kernel⟩⟩⟩

theorem test_meets_ControlRecords :
    (∃ (s : State), ∃ (arr : Arrival), ∃ (p : Packet), ∃ (x : RxStream), ∃ (c : Nat), ∃ (k : Coll), ∃ (g : GroupRec), ∃ (rank : Nat), ∃ (r : CtlRec), r = ctlOfBytes p.data ∧ bitAt p.h.offset 63 = true ∧ CollArrives s arr p x c k g rank ∧ r.kind = 1 ∧ k.st = .running ∧ (k.d.op = 7 → s.b.allIn k (k.entry.set rank r.tide) = true → s.b.due (topTide (k.entry.set rank r.tide) + 2) 1 = false)) ∧
    (∃ (s : State), ∃ (arr : Arrival), ∃ (p : Packet), ∃ (x : RxStream), ∃ (c : Nat), ∃ (k : Coll), ∃ (g : GroupRec), ∃ (rank : Nat), ∃ (r : CtlRec), r = ctlOfBytes p.data ∧ bitAt p.h.offset 63 = true ∧ CollArrives s arr p x c k g rank ∧ r.kind = 1 ∧ k.d.op = 7 ∧ k.st = .running ∧ s.b.allIn k (k.entry.set rank r.tide) = true ∧ s.b.due (topTide (k.entry.set rank r.tide) + 2) 1 = true) ∧
    (∃ (s : State), ∃ (arr : Arrival), ∃ (p : Packet), ∃ (x : RxStream), ∃ (c : Nat), ∃ (k : Coll), ∃ (g : GroupRec), ∃ (rank : Nat), ∃ (r : CtlRec), r = ctlOfBytes p.data ∧ bitAt p.h.offset 63 = true ∧ CollArrives s arr p x c k g rank ∧ r.kind = 2 ∧ k.d.op = 6 ∧ k.st = .reported ∧ s.b.allIn k (k.report.set rank r.tide) = true ∧ s.b.due (topTide (k.report.set rank r.tide) + 2) 1 = true) ∧
    (∃ (s : State), ∃ (arr : Arrival), ∃ (p : Packet), ∃ (x : RxStream), ∃ (c : Nat), ∃ (k : Coll), ∃ (g : GroupRec), ∃ (rank : Nat), ∃ (r : CtlRec), r = ctlOfBytes p.data ∧ bitAt p.h.offset 63 = true ∧ CollArrives s arr p x c k g rank ∧ r.kind = 2 ∧ k.d.op = 6 ∧ (k.st = .reported → s.b.allIn k (k.report.set rank r.tide) = true → s.b.due (topTide (k.report.set rank r.tide) + 2) 1 = false)) ∧
    (∃ (s : State), ∃ (arr : Arrival), ∃ (p : Packet), ∃ (x : RxStream), ∃ (c : Nat), ∃ (k : Coll), ∃ (g : GroupRec), ∃ (rank : Nat), ∃ (r : CtlRec), r = ctlOfBytes p.data ∧ bitAt p.h.offset 63 = true ∧ CollArrives s arr p x c k g rank ∧ r.kind = 3 ∧ k.st ≠ .aborted) ∧
    (∃ (s : State), ∃ (arr : Arrival), ∃ (p : Packet), ∃ (x : RxStream), ∃ (c : Nat), ∃ (k : Coll), ∃ (g : GroupRec), ∃ (rank : Nat), ∃ (r : CtlRec), r = ctlOfBytes p.data ∧ bitAt p.h.offset 63 = true ∧ CollArrives s arr p x c k g rank ∧ r.kind = 4 ∧ (∀ y ∈ s.b.colls, y.ctx = c → y.d.op = 8 → y.d.queue = k.d.queue → y.sent = true)) :=
  ⟨⟨wKs [wK 7 id], (wArrOf (wCtl { kind := 1, rank := 1, tide := 44 } 3)), wCtl { kind := 1, rank := 1, tide := 44 } 3, wRx wWin, 7, wK 7 id, wGrp, 1, ctlOfBytes (wCtl { kind := 1, rank := 1, tide := 44 } 3).data, wJ2 (by decide +kernel) ⟨(by constructor <;> first | decide +kernel | (constructor <;> decide +kernel)), wJ2 (by decide +kernel) (fun _ h => absurd h (by decide +kernel))⟩⟩,
   ⟨wLate7, (wArrOf (wCtl { kind := 1, rank := 1, tide := 2 } 3)), wCtl { kind := 1, rank := 1, tide := 2 } 3, wRx wWin, 7, wK 7 fun k => { k with entry := [(0, 1)] }, wGrp, 1, ctlOfBytes (wCtl { kind := 1, rank := 1, tide := 2 } 3).data, wJ2 (by decide +kernel) ⟨(by constructor <;> first | decide +kernel | (constructor <;> decide +kernel)), by decide +kernel⟩⟩,
   ⟨wLate6, (wArrOf (wCtl { kind := 2, rank := 1, tide := 2 } 3)), wCtl { kind := 2, rank := 1, tide := 2 } 3, wRx wWin, 7, wRep6, wGrp, 1, ctlOfBytes (wCtl { kind := 2, rank := 1, tide := 2 } 3).data, wJ2 (by decide +kernel) ⟨(by constructor <;> first | decide +kernel | (constructor <;> decide +kernel)), by decide +kernel⟩⟩,
   ⟨wKs [wRep6], (wArrOf (wCtl { kind := 2, rank := 1, tide := 44 } 3)), wCtl { kind := 2, rank := 1, tide := 44 } 3, wRx wWin, 7, wRep6, wGrp, 1, ctlOfBytes (wCtl { kind := 2, rank := 1, tide := 44 } 3).data, wJ2 (by decide +kernel) ⟨(by constructor <;> first | decide +kernel | (constructor <;> decide +kernel)), wJ2 (by decide +kernel) (fun _ _ => by decide +kernel)⟩⟩,
   ⟨wKs [wRd3], (wArrOf (wCtl { kind := 3, rank := 1, reason := 2 } 3)), wCtl { kind := 3, rank := 1, reason := 2 } 3, wRx wWin, 7, wRd3, wGrp, 1, ctlOfBytes (wCtl { kind := 3, rank := 1, reason := 2 } 3).data, wJ2 (by decide +kernel) ⟨(by constructor <;> first | decide +kernel | (constructor <;> decide +kernel)), by decide +kernel⟩⟩,
   ⟨wKs [{ wK8 with sent := true }], (wArrOf (wCtl wCr 3)), wCtl wCr 3, wRx wWin, 7, { wK8 with sent := true }, wGrp, 1, ctlOfBytes (wCtl wCr 3).data, wJ2 (by decide +kernel) ⟨(by constructor <;> first | decide +kernel | (constructor <;> decide +kernel)), by decide +kernel⟩⟩⟩

theorem test_meets_ControlRecords_2 :
    (∃ (s : State), ∃ (arr : Arrival), ∃ (p : Packet), ∃ (x : RxStream), ∃ (c : Nat), ∃ (k : Coll), ∃ (g : GroupRec), ∃ (rank : Nat), ∃ (r : CtlRec), r = ctlOfBytes p.data ∧ bitAt p.h.offset 63 = true ∧ CollArrives s arr p x c k g rank ∧ r.kind = 4 ∧ 1 ≤ r.credits ∧ s.b.colls = [k] ∧ k.d.op = 8 ∧ k.st = .running ∧ k.sent = false ∧ k.waitAt = none) ∧
    (∃ (s : State), ∃ (arr : Arrival), ∃ (p : Packet), ∃ (x : RxStream), ∃ (c : Nat), ∃ (k : Coll), ∃ (g : GroupRec), ∃ (rank : Nat), ∃ (r : CtlRec), ∃ z, ∃ m, ∃ n, r = ctlOfBytes p.data ∧ bitAt p.h.offset 63 = true ∧ CollArrives s arr p x c k g rank ∧ r.kind = 5 ∧ k.kept = [z] ∧ z.rank = rank ∧ r.value < z.off + z.bytes.length ∧ z.off < r.value + r.len ∧ g.members[rank]? = some m ∧ s.b.memberStream c m = some n) ∧
    (∃ (s : State), ∃ (arr : Arrival), ∃ (p : Packet), ∃ (x : RxStream), ∃ (c : Nat), ∃ (g : GroupRec), ∃ (rank : Nat), ∃ (r : CtlRec), r = ctlOfBytes p.data ∧ bitAt p.h.offset 63 = true ∧ Arrives s arr p x ∧ (p.h.typ = tReduce ∨ p.h.typ = tPermute) ∧ x.owner = some c ∧ s.b.psnRule (s.b.strmOf p.h.stream) p.h = (.new, false) ∧ bits p.h.offset 40 23 = seqRestore ∧ s.b.findColl c p.h.winId seqRestore = none ∧ s.b.step8 p.h = true ∧ s.b.groupOf p.h.winId = some g ∧ (g.members.findIdx fun m => m.addr = arr.src) = rank ∧ rank < g.members.length ∧ s.b.spare.groupsLeft = false ∧ r.kind = 6) ∧
    (∃ (s : State), ∃ (arr : Arrival), ∃ (p : Packet), ∃ (x : RxStream), ∃ (c : Nat), ∃ (g : GroupRec), ∃ (rank : Nat), ∃ (r : CtlRec), r = ctlOfBytes p.data ∧ bitAt p.h.offset 63 = true ∧ Arrives s arr p x ∧ (p.h.typ = tReduce ∨ p.h.typ = tPermute) ∧ x.owner = some c ∧ s.b.psnRule (s.b.strmOf p.h.stream) p.h = (.new, false) ∧ bits p.h.offset 40 23 = seqRestore ∧ s.b.findColl c p.h.winId seqRestore = none ∧ s.b.step8 p.h = true ∧ s.b.groupOf p.h.winId = some g ∧ (g.members.findIdx fun m => m.addr = arr.src) = rank ∧ rank < g.members.length ∧ s.b.spare.groupsLeft = false ∧ r.kind = 7) :=
  ⟨⟨wKs [wK8], (wArrOf (wCtl wCr 3)), wCtl wCr 3, wRx wWin, 7, wK8, wGrp, 1, ctlOfBytes (wCtl wCr 3).data, wJ2 (by decide +kernel) ⟨(by constructor <;> first | decide +kernel | (constructor <;> decide +kernel)), by decide +kernel⟩⟩,
   ⟨wKs [wK 3 fun k => { k with kept := [{ rank := 1, off := 0, bytes := List.replicate 64 9 }] }], (wArrOf (wCtl { kind := 5, rank := 1, value := 63, len := 1 } 3)), wCtl { kind := 5, rank := 1, value := 63, len := 1 } 3, wRx wWin, 7, wK 3 fun k => { k with kept := [{ rank := 1, off := 0, bytes := List.replicate 64 9 }] }, wGrp, 1, ctlOfBytes (wCtl { kind := 5, rank := 1, value := 63, len := 1 } 3).data, { rank := 1, off := 0, bytes := List.replicate 64 9 }, { position := 2, addr := 99 }, 3, wJ2 (by decide +kernel) ⟨(by constructor <;> first | decide +kernel | (constructor <;> decide +kernel)), by decide +kernel⟩⟩,
   ⟨wKs [], (wArrOf (wRestP { kind := 6, rank := 1, value := 12 })), wRestP { kind := 6, rank := 1, value := 12 }, wRx wWin, 7, wGrp, 1, ctlOfBytes (wRestP { kind := 6, rank := 1, value := 12 }).data, wJ2 (by decide +kernel) ⟨(by constructor <;> decide +kernel), by decide +kernel⟩⟩,
   ⟨wKs [], (wArrOf (wRestP { kind := 7, rank := 1, tide := 12 })), wRestP { kind := 7, rank := 1, tide := 12 }, wRx wWin, 7, wGrp, 1, ctlOfBytes (wRestP { kind := 7, rank := 1, tide := 12 }).data, wJ2 (by decide +kernel) ⟨(by constructor <;> decide +kernel), by decide +kernel⟩⟩⟩

theorem test_meets_CollectiveStart :
    (∃ (s : State), ∃ (e : Nat), ∃ (ctx : Nat), ∃ (group : Nat), ∃ (seq : Nat), ∃ (k : Coll), ∃ (i : Instr), s.b.findColl ctx group seq = some k ∧ k.d.op ≤ 9 ∧ s.b.heldData k = [] ∧ s.ownReady k = true ∧ (s.b.ctx ctx).hrv.cap = none ∧ s.b.collMe k < s.b.collN k ∧ (k.d.op ≠ 6 → k.st = .waiting ∧ i = .collectiveStart e ∧ e < 8 ∧ s.b.ceFree e = true ∧ (∃ r a, arbGrant false s.b.cfg.qos.weight (s.b.arbOf (.colls (dLD0 + e / 4))) ((s.b.arbOf (.colls (dLD0 + e / 4))).waiting.filter fun r => match r.what with | .coll c g q => (match s.b.findColl c g q with | some k => k.st = .waiting && s.ownReady k | none => false) | _ => false) = (some r, a) ∧ r.what = .coll ctx group seq)) ∧ (k.d.op = 6 → k.st = .reported ∧ i = .permuteStart ctx group seq ∧ s.b.due (topTide k.report + 2) 0 = true ∧ s.b.allIn k k.report = true ∧ (k.die = dLD0 ∨ k.die = dLD1) ∧ (s.b.arbOf (.colls k.die)).waiting = [] ∧ (s.b.ctx ctx).qos < 8 ∧ (((List.range 4).map fun i => 4 * (k.die - dLD0) + i).find? s.b.ceFree) = some e)) :=
  ⟨wGo, 0, 7, 1, 3, wWait, Instr.collectiveStart 0, wJ5 (by decide +kernel) ⟨by decide +kernel, (fun _ => ⟨by decide, rfl, by decide, by decide +kernel, by refine ⟨{ cls := 0, ctx := 7, cost := 1, what := .coll 7 1 3 }, _, Prod.ext_iff.mpr ⟨?_, rfl⟩, rfl⟩; decide +kernel⟩), (fun h => absurd h (by decide))⟩⟩

theorem test_meets_CollectiveWaits :
    (∃ (s : State), ∃ (ctx : Nat), ∃ (group : Nat), ∃ (seq : Nat), ∃ (k : Coll), ∃ (g : GroupRec), ∃ (r : Nat), s.b.findColl ctx group seq = some k ∧ s.b.collGroup k = some g ∧ s.b.lacks k = some r ∧ k.waitAt = none) ∧
    (∃ (s : State), ∃ (ctx : Nat), ∃ (group : Nat), ∃ (seq : Nat), ∃ (k : Coll), ∃ (g : GroupRec), ∃ (r : Nat), ∃ (off : Nat), ∃ (len : Nat), ∃ m, ∃ e, ∃ w, s.b.findColl ctx group seq = some k ∧ s.b.collGroup k = some g ∧ s.b.missing k = some (r, off, len) ∧ k.waitTide = some w ∧ k.st = .running ∧ k.rereqTide + g.shardTo ≤ s.b.tide.num ∧ g.members[r]? = some m ∧ k.engine = some e) ∧
    (∃ (s : State), ∃ (ctx : Nat), ∃ (group : Nat), ∃ (seq : Nat), ∃ (k : Coll), ∃ (g : GroupRec), ∃ (r : Nat), ∃ (off : Nat), ∃ (len : Nat), ∃ w, s.b.findColl ctx group seq = some k ∧ s.b.collGroup k = some g ∧ s.b.missing k = some (r, off, len) ∧ k.waitTide = some w ∧ k.st = .running ∧ w + g.abortTo ≤ s.b.tide.num ∧ (s.b.ctx ctx).st = .active) ∧
    (∃ (s : State), ∃ (ctx : Nat), ∃ (group : Nat), ∃ (seq : Nat), ∃ (k : Coll), ∃ (g : GroupRec), s.b.findColl ctx group seq = some k ∧ s.b.collGroup k = some g ∧ k.d.op = 6 ∧ s.b.allIn k k.report = false) ∧
    (∃ (s : State), ∃ (ctx : Nat), ∃ (group : Nat), ∃ (seq : Nat), ∃ (k : Coll), ∃ (g : GroupRec), s.b.findColl ctx group seq = some k ∧ s.b.collGroup k = some g ∧ k.d.op = 6 ∧ k.st = .reported ∧ s.b.due (topTide k.report + 2) 0 = true ∧ s.b.allIn k k.report = true ∧ (∀ i, i < 4 → s.b.ceFree (4 * (k.die - dLD0) + i) = false)) ∧
    (∃ (s : State), ∃ (ctx : Nat), ∃ (group : Nat), ∃ (seq : Nat), ∃ (k : Coll), ∃ (g : GroupRec), ∃ w, s.b.findColl ctx group seq = some k ∧ s.b.collGroup k = some g ∧ k.keptUntil = some w ∧ w ≤ s.b.tide.num) :=
  ⟨⟨wKs [wRd3], 7, 1, 3, wRd3, wGrp, 1, by decide +kernel⟩,
   ⟨wGs wLack, 7, 1, 3, wLack, wG5, 1, 0, 64, { position := 2, addr := 99 }, 0, 0, by decide +kernel⟩,
   ⟨wGs wLack, 7, 1, 3, wLack, wG5, 1, 0, 64, 0, by decide +kernel⟩,
   ⟨wKs [wRep], 7, 1, 3, wRep, wGrp, by decide +kernel⟩,
   ⟨wTideS 40 wRep2, 7, 1, 3, wRep2, wGrp, by decide +kernel⟩,
   ⟨wKs [{ wRd3 with st := .done, keptUntil := some 5 }], 7, 1, 3, { wRd3 with st := .done, keptUntil := some 5 }, wGrp, 5, by decide +kernel⟩⟩

theorem test_meets_CollectiveEnds :
    (∃ (s : State), ∃ (ctx : Nat), ∃ (group : Nat), ∃ (seq : Nat), ∃ (k : Coll), ∃ (g : GroupRec), ∃ (i : Instr), s.b.findColl ctx group seq = some k ∧ s.b.collGroup k = some g ∧ k.st = .running ∧ k.group < 2 ^ 16 ∧ k.seq < 2 ^ 23 ∧ (i = .collectiveDone ctx group seq ∧ (collReduces k = true → k.summed = true) ∧ s.b.collComplete k = true ∨ i = .barrierRelease ctx group seq ∧ k.d.op = 7 ∧ hubBarrier k = false ∧ s.b.due (topTide k.entry + 2) 0 = true ∧ s.b.allIn k k.entry = true ∨ i = .epochAdvance ctx group seq ∧ k.d.op = 6 ∧ k.d.inBytes ≤ gotBytes k ∧ s.b.collAcked k = true)) ∧
    (∃ (s : State), ∃ (ctx : Nat), ∃ (group : Nat), ∃ (seq : Nat), ∃ (k : Coll), ∃ (g : GroupRec), s.b.findColl ctx group seq = some k ∧ s.b.collGroup k = some g ∧ k.st = .running ∧ k.group < 2 ^ 16 ∧ k.seq < 2 ^ 23 ∧ k.d.op = 7 ∧ s.b.allIn k k.entry = false) ∧
    (∃ (s : State), ∃ (ctx : Nat), ∃ (group : Nat), ∃ (seq : Nat), ∃ (k : Coll), ∃ (g : GroupRec), s.b.findColl ctx group seq = some k ∧ s.b.collGroup k = some g ∧ k.st = .running ∧ k.group < 2 ^ 16 ∧ k.seq < 2 ^ 23 ∧ k.d.op = 2 ∧ k.summed = false ∧ s.b.inputsIn k = true ∧ (chunkOf k.d.count (s.b.collN k) (s.b.collMe k)).2 ≠ 0 ∧ s.collMayPlace k k.d.dst ((chunkOf k.d.count (s.b.collN k) (s.b.collMe k)).2 * redSize k.d) = true ∧ (s.b.ctx ctx).hrv.cap = none) :=
  ⟨⟨wKs [wK 3 fun k => { k with got := [{ rank := 1, off := 0, bytes := List.replicate 64 1 }] }], 7, 1, 3, wK 3 fun k => { k with got := [{ rank := 1, off := 0, bytes := List.replicate 64 1 }] }, wGrp, Instr.collectiveDone 7 1 3, wJ5 (by decide +kernel) (Or.inl ⟨rfl, by decide +kernel⟩)⟩,
   ⟨wKs [wK 7 fun k => { k with entry := [(0, 3)] }], 7, 1, 3, wK 7 fun k => { k with entry := [(0, 3)] }, wGrp, by decide +kernel⟩,
   ⟨wKs [wK 2 fun k => { k with got := [{ rank := 1, off := 0, bytes := List.replicate 128 0x40 }], kept := [{ rank := 0, off := 0, bytes := List.replicate 128 0x40 }] }], 7, 1, 3, wK 2 fun k => { k with got := [{ rank := 1, off := 0, bytes := List.replicate 128 0x40 }], kept := [{ rank := 0, off := 0, bytes := List.replicate 128 0x40 }] }, wGrp, by decide +kernel⟩⟩

theorem test_meets_Captures :
    (∃ (s : State), ∃ (ctx : Nat), ∃ (c : Ctx), ∃ (rs : List RegionRec), ∃ (hs : List RegionRec), ∃ (ls : List RegionRec), c = s.b.ctx ctx ∧ ctx ≠ moduleCtx ∧ rs = savedRegions c (currentBuf c) ∧ hs = rs.filter (byHarvest c s.b.cfg.hrv.pct) ∧ ls = (rs.filter fun r => !byHarvest c s.b.cfg.hrv.pct r) ∧ c.st = .active ∧ c.rec_.sched = none ∧ c.hrv.cap = none ∧ c.hrv.lastAt + s.b.cfg.hrv.nsEvery ≤ s.b.tide.num) ∧
    (∃ (s : State), ∃ (ctx : Nat), ∃ (c : Ctx), ∃ (rs : List RegionRec), ∃ (hs : List RegionRec), ∃ (ls : List RegionRec), ∃ k, c = s.b.ctx ctx ∧ ctx ≠ moduleCtx ∧ rs = savedRegions c (currentBuf c) ∧ hs = rs.filter (byHarvest c s.b.cfg.hrv.pct) ∧ ls = (rs.filter fun r => !byHarvest c s.b.cfg.hrv.pct r) ∧ c.hrv.cap = some k ∧ (∀ d ∈ k.drains, d.done = true)) ∧
    (∃ (s : State), ∃ (ctx : Nat), ∃ (c : Ctx), ∃ (rs : List RegionRec), ∃ (hs : List RegionRec), ∃ (ls : List RegionRec), ∃ k, ∃ d, c = s.b.ctx ctx ∧ ctx ≠ moduleCtx ∧ rs = savedRegions c (currentBuf c) ∧ hs = rs.filter (byHarvest c s.b.cfg.hrv.pct) ∧ ls = (rs.filter fun r => !byHarvest c s.b.cfg.hrv.pct r) ∧ c.hrv.cap = some k ∧ (k.drains.find? fun d => !d.done) = some d ∧ d.since + 8 ≤ s.b.tide.num ∧ (k.drains.map (·.dest)).Nodup) :=
  ⟨⟨wHs wNc, 7, wNc, savedRegions wNc (currentBuf wNc), (savedRegions wNc (currentBuf wNc)).filter (byHarvest wNc wHrv.pct), (savedRegions wNc (currentBuf wNc)).filter fun r => !byHarvest wNc wHrv.pct r, by decide +kernel⟩,
   ⟨wHs (wHc wCapDone), 7, wHc wCapDone, savedRegions (wHc wCapDone) 0, (savedRegions (wHc wCapDone) 0).filter (byHarvest (wHc wCapDone) wHrv.pct), (savedRegions (wHc wCapDone) 0).filter fun r => !byHarvest (wHc wCapDone) wHrv.pct r, wCapDone, by decide +kernel⟩,
   ⟨(wHs (wHc wCap)) |> fun s => s.setB { s.b with tide := { s.b.tide with num := 8 } }, 7, wHc wCap, savedRegions (wHc wCap) 0, (savedRegions (wHc wCap) 0).filter (byHarvest (wHc wCap) wHrv.pct), (savedRegions (wHc wCap) 0).filter fun r => !byHarvest (wHc wCap) wHrv.pct r, wCap, { dest := 0, since := 0 }, by decide +kernel⟩⟩

theorem test_meets_Restores :
    (∃ (s : State), ∃ (ctx : Nat), ∃ (c : Ctx), c = s.b.ctx ctx ∧ c.st = .restoring ∧ ctx ≠ moduleCtx ∧ c.hrv.halt = 0 ∧ c.hrv.installed = false ∧ c.loads = [] ∧ 3 ≤ c.hrv.restoreStep ∧ s.b.restoreStepS ctx = some none) ∧
    (∃ (s : State), ∃ (ctx : Nat), ∃ (c : Ctx), ∃ (copies : List Copy), ∃ (step : Nat), c = s.b.ctx ctx ∧ c.st = .restoring ∧ ctx ≠ moduleCtx ∧ c.hrv.halt = 0 ∧ c.hrv.installed = false ∧ c.loads = [] ∧ 3 ≤ c.hrv.restoreStep ∧ s.b.restoreStepS ctx = some (some step) ∧ (∀ x ∈ copies, x.tensor ≠ scalarId)) ∧
    (∃ (s : State), ∃ (ctx : Nat), ∃ (c : Ctx), ∃ (copies : List Copy), ∃ (scalar : ScalarRec), ∃ (r : RegionRec), ∃ (k : Copy), ∃ (ks : Copy), ∃ (step : Nat), c = s.b.ctx ctx ∧ c.st = .restoring ∧ ctx ≠ moduleCtx ∧ c.hrv.halt = 0 ∧ c.hrv.installed = false ∧ c.loads = [] ∧ 3 ≤ c.hrv.restoreStep ∧ s.b.restoreStepS ctx = some (some step) ∧ ks.tensor = scalarId ∧ copyIntact ks = true ∧ ks.bytes ≠ [] ∧ scalar = scalarAt c ks.bytes ∧ savedRegions c scalar.curBuf = [r] ∧ tensorRegion c r.tensorId = some r ∧ r.tensorId ≠ scalarId ∧ c.hrv.cap = none ∧ copies = [k, ks] ∧ k.tensor = r.tensorId ∧ copyIntact k = true ∧ k.bytes ≠ [] ∧ s.b.scalarSkew ctx step scalar = none) :=
  ⟨⟨wHs (wRc fun h => { h with m := some none }), 7, wRc fun h => { h with m := some none }, by decide +kernel⟩,
   ⟨wHs (wRc id), 7, wRc id, [wCopy], 12, by decide +kernel⟩,
   ⟨wHs (wRc id), 7, wRc id, [wCopy, wScalar], scalarAt (wRc id) wScalar.bytes, wReg, wCopy, wScalar, 12, wJ5 (by decide +kernel) (wJ4 (by decide +kernel) ⟨(wScalOf_ok _), (wScalOf_bytes _), by decide +kernel⟩)⟩⟩

theorem test_meets_Restores_2 :
    (∃ (s : State), ∃ (ctx : Nat), ∃ (c : Ctx), ∃ (copies : List Copy), ∃ (scalar : ScalarRec), ∃ (r : RegionRec), ∃ (k : Copy), ∃ (ks : Copy), ∃ (step : Nat), ∃ d, c = s.b.ctx ctx ∧ c.st = .restoring ∧ ctx ≠ moduleCtx ∧ c.hrv.halt = 0 ∧ c.hrv.installed = false ∧ c.loads = [] ∧ 3 ≤ c.hrv.restoreStep ∧ s.b.restoreStepS ctx = some (some step) ∧ ks.tensor = scalarId ∧ copyIntact ks = true ∧ ks.bytes ≠ [] ∧ scalar = scalarAt c ks.bytes ∧ savedRegions c scalar.curBuf = [r] ∧ tensorRegion c r.tensorId = some r ∧ r.tensorId ≠ scalarId ∧ c.hrv.cap = none ∧ copies = [k, ks] ∧ k.tensor = r.tensorId ∧ copyIntact k = true ∧ s.b.scalarSkew ctx step scalar = some d) ∧
    (∃ (s : State), ∃ (ctx : Nat), ∃ (c : Ctx), ∃ (copies : List Copy), ∃ (scalar : ScalarRec), ∃ (r : RegionRec), ∃ (k : Copy), ∃ (k' : Copy), ∃ (ks : Copy), ∃ (step : Nat), c = s.b.ctx ctx ∧ c.st = .restoring ∧ ctx ≠ moduleCtx ∧ c.hrv.halt = 0 ∧ c.hrv.installed = false ∧ c.loads = [] ∧ 3 ≤ c.hrv.restoreStep ∧ s.b.restoreStepS ctx = some (some step) ∧ ks.tensor = scalarId ∧ copyIntact ks = true ∧ ks.bytes ≠ [] ∧ scalar = scalarAt c ks.bytes ∧ savedRegions c scalar.curBuf = [r] ∧ tensorRegion c r.tensorId = some r ∧ r.tensorId ≠ scalarId ∧ c.hrv.cap = none ∧ copies = [k, k', ks] ∧ k.tensor = r.tensorId ∧ k'.tensor = r.tensorId ∧ copyIntact k = true ∧ copyIntact k' = true ∧ k.carried ≠ k'.carried) ∧
    (∃ (s : State), ∃ (ctx : Nat), ∃ (c : Ctx), ∃ (copies : List Copy), ∃ (scalar : ScalarRec), ∃ (r : RegionRec), ∃ (ks : Copy), ∃ (step : Nat), c = s.b.ctx ctx ∧ c.st = .restoring ∧ ctx ≠ moduleCtx ∧ c.hrv.halt = 0 ∧ c.hrv.installed = false ∧ c.loads = [] ∧ 3 ≤ c.hrv.restoreStep ∧ s.b.restoreStepS ctx = some (some step) ∧ ks.tensor = scalarId ∧ copyIntact ks = true ∧ ks.bytes ≠ [] ∧ scalar = scalarAt c ks.bytes ∧ savedRegions c scalar.curBuf = [r] ∧ tensorRegion c r.tensorId = some r ∧ r.tensorId ≠ scalarId ∧ c.hrv.cap = none ∧ copies = [ks]) :=
  ⟨⟨wHs (wRc id), 7, wRc id, [wCopy, wScalOf { wScal with step := 13 }], scalarAt (wRc id) (wScalOf { wScal with step := 13 }).bytes, wReg, wCopy, wScalOf { wScal with step := 13 }, 12, 1, wJ5 (by decide +kernel) (wJ4 (by decide +kernel) ⟨(wScalOf_ok _), (wScalOf_bytes _), by decide +kernel⟩)⟩,
   ⟨wHs (wRc id), 7, wRc id, [wCopy, { wCopy with sha := 4, carried := 4, bytes := [] }, wScalar], scalarAt (wRc id) wScalar.bytes, wReg, wCopy, { wCopy with sha := 4, carried := 4, bytes := [] }, wScalar, 12, wJ5 (by decide +kernel) (wJ4 (by decide +kernel) ⟨(wScalOf_ok _), (wScalOf_bytes _), by decide +kernel⟩)⟩,
   ⟨wHs (wRc id), 7, wRc id, [wScalar], scalarAt (wRc id) wScalar.bytes, wReg, wScalar, 12, wJ5 (by decide +kernel) (wJ4 (by decide +kernel) ⟨(wScalOf_ok _), (wScalOf_bytes _), by decide +kernel⟩)⟩⟩

theorem test_meets_Restores_3 :
    (∃ (s : State), ∃ (ctx : Nat), ∃ (c : Ctx), ∃ b, c = s.b.ctx ctx ∧ c.st = .restoring ∧ ctx ≠ moduleCtx ∧ s.b.resumeTide ctx = some b ∧ c.hrv.installed = true ∧ s.b.due b 0 = true) :=
  ⟨wHs (wRc fun h => { h with installed := true }), 7, wRc fun h => { h with installed := true }, ((wHs (wRc fun h => { h with installed := true })).b.resumeTide 7).getD 9, by decide +kernel⟩

/-! ### What is well-formed: an operand of each kind at the end of its range, and one just beyond it -/

def wOwn (o : LineOwner) (sym : Nat) : Instr := .memLineRead wMcp 0 [sym] o none
theorem test_wellformed_pans :
    ((Instr.xingRecordDeliver (mePan 31) []).wellFormed, (Instr.xingRecordDeliver 0x42FF00 []).wellFormed) = (true, false) ∧
    ((Instr.unitReset modulePan .service).wellFormed, (Instr.unitReset 0x042F0500 .service).wellFormed) = (true, false) ∧
    ((Instr.rakePeriodEnd wFlash).wellFormed, (Instr.rakePeriodEnd (mePan 0)).wellFormed) = (true, false) ∧
    ((wOwn .free 34).wellFormed, (wOwn .free 35).wellFormed) = (true, false) ∧
    ((wOwn (.context 1023) 0).wellFormed, (wOwn (.context 1024) 0).wellFormed) = (true, false) := by decide +kernel
theorem test_wellformed_units :
    ((Instr.init 31).wellFormed, (Instr.init 32).wellFormed) = (true, false) ∧ ((Instr.add 15).wellFormed, (Instr.add 16).wellFormed) = (true, false) ∧
    ((Instr.fence 63 0).wellFormed, (Instr.fence 64 0).wellFormed) = (true, false) ∧ ((Instr.collectiveStart 7).wellFormed, (Instr.collectiveStart 8).wellFormed) = (true, false) ∧
    ((Instr.hubCoreStandby 1).wellFormed, (Instr.hubCoreStandby 2).wellFormed) = (true, false) ∧ ((Instr.pauseFrame 6).wellFormed, (Instr.pauseFrame 7).wellFormed) = (true, false) ∧
    ((Instr.stageDone 0 0 3).wellFormed, (Instr.stageDone 0 0 4).wellFormed) = (true, false) ∧ ((Instr.holdBufferPlace dLD1).wellFormed, (Instr.holdBufferPlace 0).wellFormed) = (true, false) ∧
    ((Instr.arbiterGrant (.egress 6) []).wellFormed, (Instr.arbiterGrant (.egress 7) []).wellFormed) = (true, false) := by decide +kernel
theorem test_wellformed_numbers :
    ((Instr.ctxCreate 1023).wellFormed, (Instr.ctxCreate 1024).wellFormed) = (true, false) ∧
    ((Instr.moveSwitch 0 (2 ^ 43 - 1)).wellFormed, (Instr.moveSwitch 0 (2 ^ 43)).wellFormed) = (true, false) ∧
    ((Instr.ackTimer 16383).wellFormed, (Instr.ackTimer 16384).wellFormed) = (true, false) ∧ ((Instr.spareClaim 71).wellFormed, (Instr.spareClaim 72).wellFormed) = (true, false) ∧
    ((Instr.qtest 0 31 0 0).wellFormed, (Instr.qtest 0 32 0 0).wellFormed) = (true, false) ∧
    ((Instr.destFailTimeout 0 2).wellFormed, (Instr.destFailTimeout 0 3).wellFormed) = (true, false) ∧
    ((Instr.rkContextAccess 0 0 0 (.lr 8 1)).wellFormed, (Instr.rkContextAccess 0 0 0 (.lr 2 1)).wellFormed) = (true, false) ∧
    ((Instr.exit 0 (2 ^ 64 - 1) 0).wellFormed, (Instr.exit 0 (2 ^ 64) 0).wellFormed) = (true, false) ∧
    ((Instr.bootReady (2 ^ 256 - 1)).wellFormed, (Instr.bootReady (2 ^ 256)).wellFormed) = (true, false) := by decide +kernel

/-! ### The table gives no row any bits -/

theorem test_no_word_spells : decodeTableWord 16 0x1234 = none ∧ State.reset.withFetchWord 16 0x1234 = State.reset := ⟨rfl, rfl⟩

/-! ### The spec's worked examples -/

/-- The table of R63's worked example (03): FP32 to E4M3. -/
def wE4 (subn ovfm : Bool) (c : Nat) : Nat × NumFlags := convertCode .fp32 .e4m3 subn ovfm c
theorem test_convert_overflow :
    wE4 false false 0x43E80000 = (0x7E, noFlags) ∧ wE4 false false 0x43EB0000 = (0x7E, flValOvf) ∧ wE4 false true 0x43EB0000 = (0x7F, flValOvf) ∧
    wE4 false false 0xC4160000 = (0xFE, flValOvf) ∧ wE4 false true 0xC4160000 = (0x7F, flValOvf) ∧ wE4 false false 0xFF800000 = (0xFE, flValOvf) ∧
    wE4 false false 0xFFC12345 = (0x7F, noFlags) ∧ wE4 false false 0x7F800001 = (0x7F, flValInv) := by decide +kernel
theorem test_convert_tiny :
    wE4 false false 0x3B000000 = (0x01, noFlags) ∧ (wE4 true false 0x3B000000).1 = 0 ∧ (wE4 true false 0x3B000000).2 ≠ noFlags ∧
    wE4 false false 0x3C700000 = (0x08, noFlags) ∧ (wE4 true false 0x3C700000).1 = 0 ∧ wE4 false false 0x3A000000 = (0, noFlags) ∧
    (wE4 true false 0x3A000000).2 = (wE4 true false 0x3B000000).2 := by decide +kernel

/-- Three passes on one FP32 product (04). -/
def wSquare (passes : Nat) : Terms :=
  { fmt := .fp32, passes := passes, bigK := 1, subn := false, a := fun _ => 0x3F810101, b := fun _ => 0x3F810101, sa := fun _ => 0, sb := fun _ => 0, present := fun _ => true }
theorem test_three_passes :
    (mmaElement (wSquare 1) none).1 = some 0x3FF0404000000000 ∧ (mmaElement (wSquare 2) none).1 = some 0x3FF0408080000000 ∧
    (mmaElement (wSquare 3) none).1 = some 0x3FF04080C0C00000 ∧ closeConvert .fp32 false false (some 0x3FF04080C0C00000) = (0x3F820406, noFlags) := by decide +kernel

/-- An overflowing product and a NaN (04). -/
def wScore (a40 b40 : Nat) : Terms :=
  { fmt := .bf16, passes := 1, bigK := 64, subn := false, a := fun k => if k = 5 then 0x7F00 else if k = 40 then a40 else 0x3F80
    b := fun k => if k = 5 then 0x4200 else if k = 40 then b40 else 0x4000, sa := fun _ => 0, sb := fun _ => 0, present := fun _ => true }
theorem test_overflow_and_nan :
    (mmaElement (wScore 0x7FC1 0x4000) none).1 = some 0x7FF8000000000000 ∧ (mmaElement (wScore 0x3F80 0x4000) none).1 = some 0x7FF0000000000000 ∧
    (closeConvert .fp32 false false (mmaElement (wScore 0xFF00 0x4200) none).1).1 = 0x7FC00000 ∧
    (closeConvert .e4m3 false false (mmaElement (wScore 0x3F80 0x4000) none).1).1 = 0x7E ∧ (mmaElement (wScore 0x3F80 0x4000) none).2 = flAccOvf := by decide +kernel

/-- Block scales beyond every output range (04), with and without the middle block. -/
def wBlocks (mid : Bool) : Terms :=
  { fmt := .mxE4m3, passes := 1, bigK := 96, subn := false, a := fun _ => 0x38
    b := fun k => if k < 32 then 0x38 else if k < 64 then 0xB8 else if k < 76 then 0x38 else if k = 76 then 0x28 else 0
    sa := fun r => if r < 2 then 0xF0 else 0x7F, sb := fun r => if r < 2 then 0xF0 else 0x7F, present := fun k => mid || k < 32 || 64 ≤ k }
theorem test_block_scales :
    mmaElement (wBlocks true) none = (some 0x4028800000000000, noFlags) ∧ (mmaElement (wBlocks false) none).1 = some 0x4E60000000000000 ∧
    closeConvert .bf16 false false (some 0x4028800000000000) = (0x4144, noFlags) ∧
    closeConvert .bf16 false false (some 0x4E60000000000000) = (0x7F7F, flAccOvf) ∧ closeConvert .bf16 false true (some 0x4E60000000000000) = (0x7F80, flAccOvf) := by decide +kernel

/-- The encoding example of R110 (06). -/
theorem test_vector_fields :
    veIns 0x1201054002000000 = { op := oFma, fmt := 0, vd := 2, vs1 := 1, vs2 := 10, vs3 := 0, mask := 0, mpol := false, subn := false, ovfm := false, lo := 0x2000000 } ∧
    veIns 0x1501010001400000 = { op := oCmp, fmt := 0, vd := 2, vs1 := 0, vs2 := 8, vs3 := 0, mask := 0, mpol := false, subn := false, ovfm := false, lo := 0x1400000 } ∧
    veIns 0x11018CA050000000 = { op := oMul, fmt := 0, vd := 3, vs1 := 3, vs2 := 5, vs3 := 0, mask := 2, mpol := true, subn := false, ovfm := false, lo := 0 } ∧
    predOf (veIns 0x1501010001400000) = 2 ∧ invOf (veIns 0x1501010001400000) = true := by decide +kernel

/-- Reductions over eight BF16 elements (06). -/
def wRed (m : Nat) : Ve := { vl := 8, m := [(3, m)], v := [(1, 0x4040 + 0x40A0 * 2 ^ 16 + 0xC0A0 * 2 ^ 32 + 0x40A0 * 2 ^ 48 + 0x8000 * 2 ^ 80 + 0x7FC0 * 2 ^ 96 + 0x40A0 * 2 ^ 112)] }
def wRedI (op : Nat) : VeIns := veIns (wEnc op 1 4 1 0 0 3 (6 * 2 ^ 21))
theorem test_reductions :
    getElem (vExt false (wRed 0xBF) (wRedI oRmax)).1.v 4 16 1 0 = 0x40A0 ∧ getElem (vExt false (wRed 0xBF) (wRedI oRmax)).1.v (viOf (wRedI oRmax)) 32 1 0 = 1 ∧
    getElem (vExt true (wRed 0xBF) (wRedI oRmin)).1.v 4 16 1 0 = 0xC0A0 ∧ getElem (vExt true (wRed 0xBF) (wRedI oRmin)).1.v (viOf (wRedI oRmin)) 32 1 0 = 2 ∧
    getElem (vSum (wRed 0xBF) (wRedI oRsum)).1.v 4 32 1 0 = 0x41500000 ∧ getElem (vSum (wRed 0xFF) (wRedI oRsum)).1.v 4 32 1 0 = 0x7FC00000 ∧
    getElem (vExt false (wRed 0xFF) (wRedI oRmax)).1.v (viOf (wRedI oRmax)) 32 1 0 = 6 ∧ getElem (vExt false (wRed 0) (wRedI oRmax)).1.v (viOf (wRedI oRmax)) 32 1 0 = 0xFFFFFFFF := by decide +kernel

/-- One element of a master weight (10): both draws of the example. -/
theorem test_update :
    (updElem 0x3F80 0x3480 0xB8800000 0x9C3A false false).1 = 0x3F80 ∧ (updElem 0x3F80 0x3480 0xB8800000 0x9C3A false false).2.1 = 0xB87F ∧
    (updElem 0x3F80 0x3480 0xB8800000 0xFE10 false false).1 = 0x3F7F ∧ (updElem 0x3F80 0x3480 0xB8800000 0xFE10 false false).2.1 = 0x3B7C := by decide +kernel

/-- One element, two chunks (16, R304): the order of the sum decides. -/
theorem test_reduction_order :
    reduceElem {} [0x4B800000, 0x3F800000, 0xCB800000, 0x3F800000] = (0x3F800000, noFlags) ∧
    reduceElem {} [0xCB800000, 0x3F800000, 0x4B800000, 0x3F800000] = (0x40000000, noFlags) := by decide +kernel

/-- A CLOSE that is done with its own output the only write held: the last clause of Matrix. -/
theorem test_meets_Matrix_output : ∃ (s : State), ∃ (me lane : Nat), ∃ (c : TileCmd), ∃ (w : Pend), (∀ e ∈ s.b.ctxs, ∀ h ∈ e.2.handles, h.2.held = []) ∧
    runningCmd (s.b.meOf me) opClose lane = some c ∧ s.b.pend = [w] ∧ w.who = .close me lane ∧ w.lost = [] :=
  ⟨let s := wMe (wCmd opClose true) []
   s.setB { s.b with pend := [{ who := .close 0 0, ctx := 7, bytes := [(64, 5)] }] }, 0, 0, wCmd opClose true, { who := .close 0 0, ctx := 7, bytes := [(64, 5)] },
   wNoHeld (by decide +kernel), by decide +kernel⟩

/-- Of a line that two drains write, the one that is placed later leaves out what the other's outlasts (R99). -/
theorem test_placed_once : placedBytes { who := .close 0 1, ctx := 7, bytes := [(64, 5), (128, 6)], lost := [64] } = [(128, 6)] := by decide +kernel

/-- A PERMUTE that starts: the second form of CollectiveStart. -/
def wGo6 : State := let s := wTideS 40 wRep2; s.setB (s.b.setSts [cePan 0] .ready)
theorem test_meets_CollectiveStart_permute : ∃ (s : State) (k : Coll), s.b.findColl 7 1 3 = some k ∧ k.d.op = 6 ∧ s.b.heldData k = [] ∧ s.ownReady k = true ∧
    (s.b.ctx 7).hrv.cap = none ∧ s.b.collMe k < s.b.collN k ∧ k.st = .reported ∧ s.b.due (topTide k.report + 2) 0 = true ∧ s.b.allIn k k.report = true ∧
    (k.die = dLD0 ∨ k.die = dLD1) ∧ (s.b.arbOf (.colls k.die)).waiting = [] ∧ (s.b.ctx 7).qos < 8 ∧
    ((List.range 4).map fun i => 4 * (k.die - dLD0) + i).find? s.b.ceFree = some 0 := ⟨wGo6, wRep2, by decide +kernel⟩

/-- The header of R254 in its 48 bytes, as they stand on the wire, and read back. -/
def wHdr : SkyHdr := { typ := 3, solicit := true, ctx := 0x207, stream := 0x1234, winId := 0x0102, winGen := 5, length := 64, psn := 0x0A0B0C0D, msgId := 7, msgLen := 4096, offset := 0x8000000000000040, ts := 9 }
theorem test_header_bytes :
    (hdrBytes 1 0 wHdr).take 18 = [0x13, 2, 2, 7, 0x12, 0x34, 1, 2, 0, 5, 0, 64, 10, 11, 12, 13, 0, 0] ∧ (hdrBytes 1 0 wHdr).length = 48 ∧
    hdrAt (hdrBytes 1 0 wHdr) = wHdr ∧ hdrVer (hdrBytes 1 5 wHdr) = 1 ∧ hdrRsv (hdrBytes 1 5 wHdr) = 5 := by decide +kernel

/-- The published check value of CRC-32C. -/
theorem test_crc_check : crc32c [0x31, 0x32, 0x33, 0x34, 0x35, 0x36, 0x37, 0x38, 0x39] = 0xE3069283 := by decide +kernel

/-- The published check value of the frame check sequence's CRC-32. -/
theorem test_fcs_check : fcsOf [0x31, 0x32, 0x33, 0x34, 0x35, 0x36, 0x37, 0x38, 0x39] = [0x26, 0x39, 0xF4, 0xCB] := by decide +kernel

/-- A claim's payload as R393 lays it out, and the frame read back. -/
theorem test_claim_bytes :
    mgtBytes (.claim 66 1 0x0102030405060708 0x0A0B0C0D0E0F 63 0x0A0B0C0D0E11) =
      [3, 1, 66, 1, 1, 2, 3, 4, 5, 6, 7, 8, 10, 11, 12, 13, 14, 15, 63, 0, 10, 11, 12, 13, 14, 17] ∧
    wOn.b.busIn (wFr (.claim 66 1 5 7 63 9)) = .frame (.claim 66 1 5 7 63 9) ∧ wOn.b.busIn ((wFr (.claim 66 1 5 7 63 9)).set 20 1) = .fcsBad := by decide +kernel

end Sys2Proof.Tests
end

/-! PROOF. Clock crossings (R39 to R42): the rules of a crossing's queue and of a stopped sender, and the obligation O11 from them. -/
namespace Sys2Proof.Machine
open Sys2Proof

/-! ### The rules of a crossing's queue (R40) -/

section Queue
variable (x : Crossing) (r : Nat × Pan)

theorem xingArrive_of_room (room : x.queue.length < xingDepth) : xingArrive x r = { x with queue := x.queue ++ [r] } :=
  if_pos room

theorem xingArrive_of_full_equal (full : xingDepth ≤ x.queue.length) (equal : x.queue.contains r = true) :
    xingArrive x r = { x with mergeCnt := satInc 16 x.mergeCnt } := by
  rw [xingArrive, if_neg (Nat.not_lt.mpr full), if_pos equal]

theorem xingArrive_of_full_unequal (full : xingDepth ≤ x.queue.length) (unequal : x.queue.contains r = false) :
    xingArrive x r = { x with waiting := x.waiting ++ [r] } := by
  rw [xingArrive, if_neg (Nat.not_lt.mpr full), if_neg (ne_true_of_eq_false unequal)]

theorem xingDeliver_of_none_waits (none_waits : x.waiting = []) : xingDeliver x = { x with queue := x.queue.drop 1 } := by
  rw [xingDeliver, none_waits]

theorem xingDeliver_of_waits {w : Nat × Pan} {ws : List (Nat × Pan)} (waits : x.waiting = w :: ws) :
    xingDeliver x = { x with queue := x.queue.drop 1 ++ [w], waiting := ws } := by
  rw [xingDeliver, waits]

/-- A delivery takes the oldest queued record and keeps all the others in their order, the waiting behind the queued. -/
theorem xingDeliver_records (queued : x.queue ≠ []) :
    (xingDeliver x).queue ++ (xingDeliver x).waiting = (x.queue ++ x.waiting).drop 1 := by
  rw [List.drop_append_of_le_length (List.length_pos_iff.mpr queued)]
  cases waits : x.waiting with
  | nil => simp [xingDeliver_of_none_waits x waits, waits]
  | cons w ws => simp [xingDeliver_of_waits x waits]

/-- A delivery changes nothing at a crossing but which records are queued and which wait. -/
theorem xingDeliver_frame : xingDeliver x = { x with queue := (xingDeliver x).queue, waiting := (xingDeliver x).waiting } := by
  cases waits : x.waiting with
  | nil => simp [xingDeliver_of_none_waits x waits, waits]
  | cons w ws => simp [xingDeliver_of_waits x waits]

@[simp] theorem xingDeliver_ovr : (xingDeliver x).ovr = x.ovr := by rw [xingDeliver_frame]
@[simp] theorem xingDeliver_flushCnt : (xingDeliver x).flushCnt = x.flushCnt := by rw [xingDeliver_frame]
@[simp] theorem xingDeliver_mergeCnt : (xingDeliver x).mergeCnt = x.mergeCnt := by rw [xingDeliver_frame]

end Queue

/-! ### XING_RECORD_DELIVER (R40) -/

section Deliver
variable (s : State) (leaf : Pan) (r : Nat × Pan)

/-- One record arrives and the oldest is delivered: only that leaf's crossing is written. -/
theorem exec_xingRecordDeliver_one : exec (.xingRecordDeliver leaf [r]) s =
    .next (s.setB { s.b with xing := s.b.xing.set leaf (xingDeliver (xingArrive (s.b.xingOf leaf) r)) }) := rfl

theorem exec_xingRecordDeliver_of_room (room : (s.b.xingOf leaf).queue.length < 8) (none_waits : (s.b.xingOf leaf).waiting = []) :
    exec (.xingRecordDeliver leaf [r]) s =
      .next (s.setB { s.b with xing := s.b.xing.set leaf { s.b.xingOf leaf with queue := ((s.b.xingOf leaf).queue ++ [r]).drop 1 } }) := by
  rw [exec_xingRecordDeliver_one, xingArrive_of_room _ _ room, xingDeliver_of_none_waits]
  exact none_waits

theorem exec_xingRecordDeliver_of_equal (full : 8 ≤ (s.b.xingOf leaf).queue.length) (equal : (s.b.xingOf leaf).queue.contains r = true)
    (none_waits : (s.b.xingOf leaf).waiting = []) :
    exec (.xingRecordDeliver leaf [r]) s =
      .next (s.setB { s.b with xing := s.b.xing.set leaf { s.b.xingOf leaf with
        queue := (s.b.xingOf leaf).queue.drop 1, mergeCnt := satInc 16 (s.b.xingOf leaf).mergeCnt } }) := by
  rw [exec_xingRecordDeliver_one, xingArrive_of_full_equal _ _ full equal, xingDeliver_of_none_waits]
  exact none_waits

/-- A record with no equal in a full queue is not dropped: the records held are those held before with it as the last, less the one delivered. -/
theorem exec_xingRecordDeliver_of_unequal (full : 8 ≤ (s.b.xingOf leaf).queue.length) (unequal : (s.b.xingOf leaf).queue.contains r = false) :
    ∃ x, exec (.xingRecordDeliver leaf [r]) s = .next (s.setB { s.b with xing := s.b.xing.set leaf x }) ∧ x.mergeCnt = (s.b.xingOf leaf).mergeCnt ∧
      x.queue ++ x.waiting = ((s.b.xingOf leaf).queue ++ (s.b.xingOf leaf).waiting ++ [r]).drop 1 ∧ x.ovr = (s.b.xingOf leaf).ovr ∧
      x.flushCnt = (s.b.xingOf leaf).flushCnt := by
  have arrived := xingArrive_of_full_unequal _ _ full unequal
  have queued : (xingArrive (s.b.xingOf leaf) r).queue ≠ [] := by
    rw [arrived]; exact List.ne_nil_of_length_pos (Nat.zero_lt_of_lt full)
  refine ⟨_, exec_xingRecordDeliver_one s leaf r, ?merged, ?records, ?overrun, ?flushed⟩
  case records => rw [xingDeliver_records _ queued, arrived, List.append_assoc]
  case merged => rw [xingDeliver_mergeCnt, arrived]
  case overrun => rw [xingDeliver_ovr, arrived]
  case flushed => rw [xingDeliver_flushCnt, arrived]

end Deliver

/-! ### XING_CLKSTOP (R41, R42) -/

section Stopped
variable (leaf : Pan) (k : Nat)

/-- The watch over a pan that is neither in RESET nor OFF, whose stopped clock is not yet known to the reset path. -/
theorem Blk.clkStop_of_watched (b : Blk) (not_reset : (b.panSt leaf).st ≠ .reset) (not_off : (b.panSt leaf).st ≠ .off)
    (unknown : b.rst.stopped.contains leaf = false) :
    b.clkStop leaf k = ((b.modXing leaf fun x => { xingFlush x k with clkStop := true }).raise 0xA001 moduleCtx hubPan (b.full leaf)).modRst
      fun r => { r with stopped := b.rst.stopped ++ [leaf] } := by
  have watched : ¬((b.panSt leaf).st = .reset ∨ (b.panSt leaf).st = .off) := not_or.mpr ⟨not_reset, not_off⟩
  simp only [Blk.clkStop, if_neg watched, Blk.modRst, Blk.raise_rst, Blk.modXing_rst, unknown]
  rfl

theorem exec_xingClkstop (s : State) : exec (.xingClkstop leaf k) s = .next (s.setB (s.b.clkStop leaf k)) := rfl

end Stopped

end Sys2Proof.Machine

namespace Sys2Proof.Proofs
open Sys2Proof Sys2Proof.Machine

/-- Settles O11: a record that finds room, an equal or neither (R40), and a sender whose clock has stopped (R42), each by its own rule. -/
theorem crossings : Obligations.Crossings := by
  unfold Obligations.Crossings
  intro s leaf r k
  refine ⟨?room, ?equal, ?unequal, ?stopped⟩
  case room => exact exec_xingRecordDeliver_of_room s leaf r
  case equal => exact fun full => exec_xingRecordDeliver_of_equal s leaf r (Nat.le_of_eq full.symm)
  case unequal => exact exec_xingRecordDeliver_of_unequal s leaf r
  case stopped =>
    intro not_reset not_off unknown
    rw [exec_xingClkstop, Blk.clkStop_of_watched leaf k s.b not_reset not_off unknown]
    rfl

end Sys2Proof.Proofs

/-! PROOF. Absent terms and empty elements (R68, R86): what one term, run, pass and command make of absent terms, which elements of a group a command
leaves, what CLOSE writes for an empty element, and the obligation O27 from them. -/
namespace Sys2Proof

/-- Where every step of a fold leaves the value it began with, so does the fold (the package's modules import no library lemma that says so). -/
theorem foldl_of_steps_leave {α β : Type} {f : α → β → α} {x : α} (leave : ∀ y, f x y = x) (l : List β) : l.foldl f x = x := by
  induction l with
  | nil => rfl
  | cons y ys ih => rw [List.foldl_cons, leave, ih]

/-- A table that lists each number of `l` with its value under `f`, read at one of them. -/
theorem Tbl.find_map_of_mem {α : Type} (f : Nat → α) {l : List Nat} {n : Nat} (listed : n ∈ l) : Tbl.find (l.map fun k => (k, f k)) n = some (f n) := by
  induction l with
  | nil => cases listed
  | cons k ks ih =>
    simp only [List.map_cons, Tbl.find]
    split
    case isTrue same => rw [same]
    case isFalse other => exact ih (List.mem_of_ne_of_mem (Ne.symm other) listed)

end Sys2Proof

namespace Sys2Proof.Machine
open Sys2Proof

/-! ### Operands at an absent k do not matter (R68) -/

section OperandsAtAbsentK
variable {t : Terms} {a b : Nat → Nat} (agree : ∀ k, t.present k = true → a k = t.a k ∧ b k = t.b k)
include agree

/-- A term reads its operands only where it is present; all else of a command's sum goes through its terms. -/
theorem termAt_congr (p q : Nat) : termAt { t with a := a, b := b } p q = termAt t p q := by
  cases here : t.present (passPosition p q).1 with
  | false => simp [termAt, here]
  | true =>
    obtain ⟨same_a, same_b⟩ := agree _ here
    simp only [termAt, same_a, same_b]

theorem runSum_congr (p r n : Nat) : runSum { t with a := a, b := b } p r n = runSum t p r n := by
  simp only [runSum, termAt_congr agree]

theorem runValue_congr (p r n : Nat) : runValue { t with a := a, b := b } p r n = runValue t p r n := by
  unfold runValue
  rw [runSum_congr agree]
  rfl

theorem passInto_congr (p : Nat) (tot : Total) : passInto { t with a := a, b := b } p tot = passInto t p tot := by
  simp only [passInto, runValue_congr agree]

theorem mmaElement_congr (tot : Total) : mmaElement { t with a := a, b := b } tot = mmaElement t tot := by
  simp only [mmaElement, passInto_congr agree]

end OperandsAtAbsentK

/-! ### With every term absent a total stays as it was (R68, R86) -/

section EveryTermAbsent
variable {t : Terms} (absent : ∀ k, t.present k = false)
include absent

theorem termAt_of_absent (p q : Nat) : termAt t p q = none := by
  simp [termAt, absent]

theorem runSum_of_absent (p r n : Nat) : runSum t p r n = none :=
  foldl_of_steps_leave (fun i => by rw [termAt_of_absent absent]) _

/-- A NaN scale forms no value either where the run holds no present term (R73). -/
theorem runValue_of_absent (p r n : Nat) : runValue t p r n = none := by
  have no_term : runPresent t p r n = false := by simp [runPresent, absent]
  simp [runValue, no_term, runSum_of_absent absent]

theorem passInto_of_absent (p : Nat) (tot : Total) : passInto t p tot = (tot, noFlags) :=
  foldl_of_steps_leave (fun r => by rw [runValue_of_absent absent]) _

theorem mmaElement_of_absent (tot : Total) : mmaElement t tot = (tot, noFlags) :=
  foldl_of_steps_leave (fun p => by rw [passInto_of_absent absent]; rfl) _

end EveryTermAbsent

/-! ### A row or column that the masks exclude receives nothing (R68, R92) -/

theorem mem_presentElems (r : TileRec) (e : Nat × Nat) :
    e ∈ presentElems r ↔ (e.1 < 64 ∧ bitAt r.rowMask e.1 = true) ∧ e.2 < 64 ∧ bitAt r.colMask e.2 = true := by
  obtain ⟨i, j⟩ := e
  simp [presentElems]

/-- An element's number gives back its row and column. -/
theorem elemNumber_inj {i j i' j' : Nat} (hj : j < 64) (hj' : j' < 64) (same : 64 * i + j = 64 * i' + j') : i = i' ∧ j = j' := by omega

/-- Group `h` holds for element `n` what group `g` holds for it. -/
def SameElem (n : Nat) (g h : Ag) : Prop := h.tot.find n = g.tot.find n ∧ h.mv.find n = g.mv.find n

section SameElem
variable {n m : Nat} {g h : Ag}

theorem SameElem.set_tot (same : SameElem n g h) (other : n ≠ m) (v : Nat) : SameElem n g { h with tot := h.tot.set m v } :=
  ⟨(Tbl.find_set_other h.tot m n v other).trans same.1, same.2⟩

theorem SameElem.set_mv (same : SameElem n g h) (other : n ≠ m) (v : MeanVar) : SameElem n g { h with mv := h.mv.set m v } :=
  ⟨same.1, (Tbl.find_set_other h.mv m n v other).trans same.2⟩

theorem SameElem.set_flushed (same : SameElem n g h) (f : Bool) : SameElem n g { h with flushed := f } := same

end SameElem

/-- An MMA writes, in each mode, only the elements that its masks leave present. -/
theorem mmaInto_sameElem (r : TileRec) (rd : Nat → Nat) (g : Ag) (n : Nat) (excluded : ∀ e ∈ presentElems r, n ≠ 64 * e.1 + e.2) :
    SameElem n g (mmaInto r rd g).1 := by
  unfold mmaInto
  apply SameElem.set_flushed
  refine List.foldlRecOn (motive := fun acc : Ag × NumFlags => SameElem n g acc.1) (presentElems r) _ ⟨rfl, rfl⟩ ?_
  intro acc same e present
  have other := excluded e present
  dsimp only
  split
  · exact same.set_mv other _
  · split
    · exact same.set_tot other _
    · exact same

theorem mmaInto_of_excluded (r : TileRec) (rd : Nat → Nat) (g : Ag) {i j : Nat} (hj : j < 64)
    (excluded : bitAt r.rowMask i = false ∨ bitAt r.colMask j = false) : SameElem (64 * i + j) g (mmaInto r rd g).1 := by
  refine mmaInto_sameElem r rd g _ fun e present same => ?_
  obtain ⟨⟨_, row⟩, hj', col⟩ := (mem_presentElems r e).mp present
  obtain ⟨rfl, rfl⟩ := elemNumber_inj hj hj' same
  simp [row, col] at excluded

/-! ### What CLOSE writes for an empty element (R86) -/

theorem find_loadTile (l : TileRec) (rd : Nat → Nat) {n : Nat} (hn : n < 4096) :
    (loadTile l rd).find n = some (elemAt rd (l.a0 + n / 64 * l.pitch0) 64 (n % 64)) :=
  Tbl.find_map_of_mem _ (List.mem_range.mpr hn)

section Close
variable (r : TileRec) (g : Ag) (n : Nat)

theorem closeElem_of_total (total : g.mode ≠ 2) :
    closeElem r g n = ((closeConvert (recFmt r) r.subn r.ovfm (g.tot.find n)).1, 0, (closeConvert (recFmt r) r.subn r.ovfm (g.tot.find n)).2) :=
  if_neg total

theorem closeElem_of_meanVar (meanVar : g.mode = 2) : closeElem r g n = meanVarClose (recFmt r) r.subn r.ovfm (g.mv.get {} n) :=
  if_pos meanVar

theorem closeElem_of_empty (total : g.mode ≠ 2) (empty : g.tot.find n = none) : closeElem r g n = (0, 0, noFlags) := by
  rw [closeElem_of_total r g n total, empty]
  rfl

theorem closeElem_of_loaded (l : TileRec) (rd : Nat → Nat) (total : g.mode ≠ 2) (hn : n < 4096) :
    closeElem r { g with tot := loadTile l rd } n =
      ((closeConvert (recFmt r) r.subn r.ovfm (some (elemAt rd (l.a0 + n / 64 * l.pitch0) 64 (n % 64)))).1, 0,
       (closeConvert (recFmt r) r.subn r.ovfm (some (elemAt rd (l.a0 + n / 64 * l.pitch0) 64 (n % 64)))).2) := by
  rw [closeElem_of_total r { g with tot := loadTile l rd } n total, find_loadTile l rd hn]

theorem closeElem_of_no_count (meanVar : g.mode = 2) (none_counted : (g.mv.get {} n).count = 0) :
    closeElem r g n = (canonicalNan (recFmt r), canonicalNan (recFmt r), noFlags) := by
  rw [closeElem_of_meanVar r g n meanVar, meanVarClose, if_pos none_counted]

end Close

end Sys2Proof.Machine

namespace Sys2Proof.Proofs
open Sys2Proof Sys2Proof.Machine

/-- Settles O27: an absent term is skipped wherever a command sums (R68), and CLOSE writes what R86 says for an element that nothing reached. -/
theorem absentTerms : Obligations.AbsentTerms := by
  unfold Obligations.AbsentTerms
  intro t a b tot r l rd g i j n
  refine ⟨?operands, ?all_absent, ?excluded, ?empty, ?loaded, ?meanVar⟩
  case operands => exact fun agree => mmaElement_congr agree tot
  case all_absent => exact fun absent => mmaElement_of_absent absent tot
  case excluded => exact fun _ hj => mmaInto_of_excluded r rd g hj
  case empty => exact closeElem_of_empty r g n
  case loaded => exact closeElem_of_loaded r g n l rd
  case meanVar => exact closeElem_of_no_count r g n

end Sys2Proof.Proofs

/-! PROOF. The comparison instruction (R56, R114): the order of values and its complement, the predicates, the bit of the mask register that CMP writes,
the rejection of PRED 7, and the obligation O33 from them. -/
namespace Sys2Proof

/-- A fold over the numbers below `k` makes `P` true of number `n` where `n`'s own step makes it so and every other step keeps it. -/
theorem foldl_range_of_own_step {α : Type} {f : α → Nat → α} {P : α → Prop} {n : Nat} (own : ∀ acc, P (f acc n))
    (others : ∀ acc m, m ≠ n → P acc → P (f acc m)) {k : Nat} (below : n < k) (start : α) : P ((List.range k).foldl f start) := by
  induction k with
  | zero => exact absurd below (Nat.not_lt_zero n)
  | succ k ih =>
    rw [List.range_succ, List.foldl_append, List.foldl_cons, List.foldl_nil]
    by_cases last : k = n
    · rw [last]; exact own _
    · exact others _ k last (ih (by omega))

end Sys2Proof

namespace Sys2Proof.Machine
open Sys2Proof

/-! ### The order of values (R56) -/

theorem magLt_asymm {m n : Nat} {e d : Int} (less : magLt m e n d = true) : magLt n d m e = false := by
  simp only [magLt, decide_eq_true_eq, decide_eq_false_iff_not, Int.min_comm d e] at less ⊢
  omega

theorem eqV_comm (a b : Val) : eqV a b = eqV b a := by
  cases a <;> cases b <;> simp only [eqV]
  case inf.inf n k => simp only [eq_comm]
  case fin.fin n m e k l d => simp only [eq_comm (a := n), Bool.and_comm (decide (m = 0)), Bool.and_right_comm _ (!magLt m e l d)]

/-- Of two finite values of one sign that are not equal, one magnitude is below the other. -/
theorem magLt_swap {n : Bool} {m l : Nat} {e d : Int} (unequal : eqV (.fin n m e) (.fin n l d) = false) : magLt l d m e = !magLt m e l d := by
  cases less : magLt m e l d with
  | true => exact magLt_asymm less
  | false =>
    obtain ⟨_, greater⟩ : (m = 0 → l ≠ 0) ∧ magLt l d m e = true := by simpa [eqV, less] using unequal
    exact greater

/-- Two values that are neither unordered nor equal stand in exactly one order. -/
theorem ltTotal_swap {a b : Val} (ordered : (isNanV a || isNanV b) = false) (unequal : eqV a b = false) : ltTotal b a = !ltTotal a b := by
  cases a with
  | nan s => cases ordered
  | inf n =>
    cases b with
    | nan t => cases ordered
    | inf k => revert n k; decide
    | fin k l d => rfl
  | fin n m e =>
    cases b with
    | nan t => cases ordered
    | inf k => exact (Bool.not_not k).symm
    | fin k l d =>
      cases n <;> cases k
      case false.true | true.false => rfl
      case false.false | true.true => simp [ltTotal, magLt_swap unequal]

theorem ltV_of_unordered {a b : Val} (unordered : (isNanV a || isNanV b) = true) : ltV a b = false := by
  have no_order : ltTotal a b = false := by
    cases a with
    | nan s => rfl
    | inf n | fin n m e =>
      cases b with
      | nan t => rfl
      | inf k | fin k l d => cases unordered
  rw [ltV, no_order, Bool.and_false]

/-- The NOT of LT holds where the first is greater or equal or the two are unordered (R114). -/
theorem not_ltV (a b : Val) : (!ltV a b) = (ltV b a || eqV a b || isNanV a || isNanV b) := by
  rw [Bool.or_assoc (ltV b a || eqV a b)]
  cases unordered : isNanV a || isNanV b with
  | true => rw [ltV_of_unordered unordered, Bool.or_true, Bool.not_false]
  | false =>
    cases equal : eqV a b with
    | true => simp [ltV, equal]
    | false => simp [ltV, equal, eqV_comm b a, ltTotal_swap unordered equal]

/-! ### The predicates (R114) -/

theorem predOf_lt (i : VeIns) : predOf i < 8 := Nat.mod_lt _ (by decide)

/-- A value that each code of R114 fixes is the predicate's: the codes 0 to 6 are all. -/
theorem eq_predV_of_codes {q : Nat} {x y : Val} {p : Bool} (q_le : q ≤ 6) (eq : q = 0 → p = eqV x y) (ne : q = 1 → p = !eqV x y) (lt : q = 2 → p = ltV x y)
    (le : q = 3 → p = (ltV x y || eqV x y)) (gt : q = 4 → p = ltV y x) (ge : q = 5 → p = (ltV y x || eqV x y))
    (un : q = 6 → p = (isNanV x || isNanV y)) : p = predV q x y :=
  match q with
  | 0 => eq rfl
  | 1 => ne rfl
  | 2 => lt rfl
  | 3 => le rfl
  | 4 => gt rfl
  | 5 => ge rfl
  | 6 => un rfl
  | _ + 7 => absurd q_le (by omega)

/-! ### The bits of a mask register (R106, R114) -/

theorem b2n_lt_two (v : Bool) : b2n v < 2 := by cases v <;> decide

/-- A one-bit element written, between the bits above it and those below. -/
theorem setBits_one (bs m : Nat) (v : Bool) : setBits bs 1 m (b2n v) = 2 ^ m * (2 * (bs / 2 ^ m / 2) + b2n v) + bs % 2 ^ m := by
  have bit : b2n v % 2 ^ 1 = b2n v := Nat.mod_eq_of_lt (b2n_lt_two v)
  have above : 2 ^ m * (bs / 2 ^ m) = 2 ^ m * (2 * (bs / 2 ^ m / 2)) + bs / 2 ^ m % 2 * 2 ^ m := by
    rw [Nat.mul_comm _ (2 ^ m), ← Nat.mul_add, Nat.div_add_mod]
  have whole := Nat.div_add_mod bs (2 ^ m)
  rw [setBits, bits, bit, Nat.one_mul, Nat.shiftRight_eq_div_pow, Nat.pow_one, Nat.mul_add, Nat.mul_comm (b2n v)]
  omega

/-- Writing a one-bit element replaces the bit of its number and no other. -/
theorem bitAt_setBits_one (bs n m : Nat) (v : Bool) : bitAt (setBits bs 1 m (b2n v)) n = if n = m then v else bitAt bs n := by
  have low : bs % 2 ^ m < 2 ^ m := Nat.mod_lt _ (Nat.two_pow_pos m)
  rw [bitAt, setBits_one, Nat.testBit_two_pow_mul_add _ low]
  rcases Nat.lt_trichotomy n m with below | rfl | above
  · rw [if_pos below, if_neg (Nat.ne_of_lt below), Nat.testBit_mod_two_pow, decide_eq_true below, Bool.true_and, bitAt]
  · rw [if_neg (Nat.lt_irrefl n), if_pos rfl, Nat.sub_self]
    cases v <;> simp [b2n, Nat.testBit_zero]
  · obtain ⟨k, rfl⟩ := Nat.exists_eq_add_of_lt above
    have same : (2 * (bs / 2 ^ m / 2) + b2n v) / 2 = bs / 2 ^ m / 2 := by
      have := b2n_lt_two v
      omega
    rw [if_neg (by omega), if_neg (by omega), show m + k + 1 - m = k + 1 by omega, Nat.testBit_succ, same, ← Nat.testBit_succ, bitAt,
      Nat.testBit_div_two_pow, show k + 1 + m = m + k + 1 by omega]

theorem bitAt_setBits_other (bs : Nat) {n m : Nat} (other : m ≠ n) (v : Bool) : bitAt (setBits bs 1 m (b2n v)) n = bitAt bs n := by
  rw [bitAt_setBits_one, if_neg (Ne.symm other)]

/-- The predicate of CMP, under INV, at each active element's bit. -/
theorem bitAt_vCmp {v : Ve} {i : VeIns} {n : Nat} (below : n < v.vl) (active : activeEl v i.mask n = true) :
    bitAt ((vCmp v i).1.m.get 0 i.vd) n = (predV (predOf i) (srcVal v i i.vs1 n).1 (srcVal v i i.vs2 n).1 != invOf i) := by
  simp only [vCmp, Tbl.get_set_same]
  refine foldl_range_of_own_step (P := fun acc : Nat × NumFlags => bitAt acc.1 n = _) ?own ?others below _
  case own =>
    intro acc
    rw [if_pos active, bitAt_setBits_one, if_pos rfl]
  case others =>
    intro acc m other kept
    split
    case isTrue => exact (bitAt_setBits_other _ other _).trans kept
    case isFalse =>
      split
      case isTrue => exact (bitAt_setBits_other _ other false).trans kept
      case isFalse => exact kept

/-! ### PRED 7 (R114) -/

theorem veCheck_cmp_of_pred7 {i : VeIns} (cmp : i.op = oCmp) (pred7 : predOf i = 7) (vl : Nat) : veCheck i vl = some cVeRsv := by
  have used : veUse i.op = some { lo := 0x3C00000, s2 := true, subn := true } := by rw [cmp]; rfl
  have reserved : veRsvOk i { lo := 0x3C00000, s2 := true, subn := true } = false := by simp [veRsvOk, cmp, pred7]
  simp [veCheck, used, reserved]

end Sys2Proof.Machine

namespace Sys2Proof.Proofs
open Sys2Proof Sys2Proof.Machine

/-- Settles O33: the bit that CMP writes for an active element, the complement of LT, and the rejection of PRED 7 (R114). -/
theorem vectorCompare : Obligations.VectorCompare := by
  unfold Obligations.VectorCompare
  intro v i n x y p cmp
  refine ⟨?written, not_ltV, fun vl pred7 => veCheck_cmp_of_pred7 cmp pred7 vl⟩
  case written =>
    intro below active hx hy eq ne lt le gt ge un not_pred7
    have pred_le : predOf i ≤ 6 := by have := predOf_lt i; omega
    rw [bitAt_vCmp below active, ← hx, ← hy, ← eq_predV_of_codes pred_le eq ne lt le gt ge un]

end Sys2Proof.Proofs

/-! PROOF. Test registers (R408, R413): what an accepted request leaves that is answered with a status alone, the ranges of the TST fields, the cases of a
write of a TST register, and the obligation O23 from them. -/
namespace Sys2Proof.Machine
open Sys2Proof

/-! ### A request accepted on a session and answered with a status alone (R378 to R382) -/

section Accepted
variable {s : State} {m : OmpReq} {x : Session} (ready : OmpReady s m x)
include ready

theorem OmpReady.not_displaced_and_up : s.b.spare.displaced = false ∧ (s.b.portOf 0).st = .up := by
  have here := ready.here
  simp only [Blk.ompHere, ready.net, Bool.false_eq_true, if_false, Bool.and_eq_true, Bool.not_eq_true', decide_eq_true_eq] at here
  obtain ⟨-, ⟨⟨-, not_displaced⟩, up⟩, -⟩ := here
  exact ⟨not_displaced, up⟩

/-- An action that writes no more than the TST registers, and answers with a status alone. -/
theorem omp_of_tst_status {f : Blk → Nat → Blk × OmpReply} {t : TstSt} {st : Nat}
    (acts : f (s.b.noted m) m.session = ({ s.b.noted m with tst := t }, { status := st })) :
    s.omp m m.req (onBlk f) = s.setB (Blk.replied { s.b with tst := t } m x st []) := by
  obtain ⟨not_displaced, up⟩ := ready.not_displaced_and_up
  have sent : ∀ o, Blk.emit { s.b.noted m with tst := t } 0 m.src o = Blk.left { s.b.noted m with tst := t } 0 o := fun o =>
    Blk.emit_near _ 0 m.src o ready.near up not_displaced
  have no_body : replyBody m.req { status := st } = [] := ite_self _
  have session : s.b.sec.sessions.get {} m.session = x := by rw [Tbl.get, ready.found, Option.getD_some]
  rw [State.omp_session s m x (onBlk f) ready]
  simp only [onBlk, State.setB_b, State.setB_setB, acts, no_body, sent, State.afterReply, Bool.false_eq_true, if_false]
  simp only [Blk.left, Blk.noted, Blk.modSession, Blk.modSec, Tbl.get_set_same, Tbl.set_set, session]
  rfl

end Accepted

/-! ### The ranges of the TST fields (R408, R413) -/

section Ranges
variable (b : Blk) (v : Nat)

theorem tstInRange_fabric_eq_false : b.tstInRange 0x28 v = false ↔ 10000 < v % 2 ^ 16 + v / 2 ^ 16 :=
  decide_eq_false_iff_not.trans Nat.not_le

theorem tstInRange_mem_eq_false : b.tstInRange 0x2C v = false ↔ 10000 < v % 2 ^ 16 :=
  decide_eq_false_iff_not.trans Nat.not_le

theorem tstInRange_port_eq_false : b.tstInRange 0x30 v = false ↔ 90 < bits v 16 8 ∨ v % 2 ^ 16 = 0 ∨ 10000 < v % 2 ^ 16 :=
  decide_eq_false_iff_not.trans (by omega)

theorem tstInRange_reord_eq_false : b.tstInRange 0x3C v = false ↔ v % 2 ^ 16 = 0 ∨ 1000 < v % 2 ^ 16 ∨ b.mpl ≤ v % 2 ^ 16 * 1000 * 2 :=
  decide_eq_false_iff_not.trans (by omega)

end Ranges

/-! ### REG_WRITE of a TST register (R408) -/

section Write
variable {b : Blk} {n a v off k : Nat} {pan : Pan} (names : regAddr a = .reg { block := .tst, pan := pan, off := off })
  (writable : rsvMask { block := .tst, pan := pan, off := off } = some k)
include names writable

theorem Blk.regWrite_tst_of_locked (locked : b.sec.unlock = 0) : b.regWrite n a v = (b, { status := stRefused }) := by
  simp [Blk.regWrite, names, writable, locked]

theorem Blk.regWrite_tst_of_unlocked (unlocked : b.sec.unlock ≠ 0) (reserved : v &&& k = 0) :
    b.regWrite n a v = ((b.tstWrite off v).1, { status := (b.tstWrite off v).2 }) := by
  have write : b.regSet n { block := .tst, pan := pan, off := off } v = b.tstWrite off v := rfl
  simp [Blk.regWrite, names, writable, unlocked, reserved, write]

theorem Blk.regWrite_tst_of_outOfRange (unlocked : b.sec.unlock ≠ 0) (reserved : v &&& k = 0) (out_of_range : b.tstInRange off v = false) :
    b.regWrite n a v = (b, { status := stRefused }) := by
  have refused : b.tstWrite off v = (b, stRefused) := if_pos (by simp [out_of_range])
  rw [Blk.regWrite_tst_of_unlocked names writable unlocked reserved, refused]

theorem Blk.regWrite_tst_of_inRange (unlocked : b.sec.unlock ≠ 0) (reserved : v &&& k = 0) (in_range : b.tstInRange off v = true) :
    b.regWrite n a v = ({ b with tst := tstSet b.tst off v }, { status := stOk }) := by
  have taken : b.tstWrite off v = ({ b with tst := tstSet b.tst off v }, stOk) := if_neg (by simp [unlocked, in_range])
  rw [Blk.regWrite_tst_of_unlocked names writable unlocked reserved, taken]

end Write

theorem exec_regWrite_of_tst_status {s : State} {m : OmpReq} {x : Session} {t : TstSt} {st : Nat} (ready : OmpReady s m x) (req : m.req = qRegWrite)
    (acts : (s.b.noted m).regWrite m.session (fieldAt m.body 0 4) (fieldAt m.body 4 4) = ({ s.b.noted m with tst := t }, { status := st })) :
    exec (.regWrite m) s = .next (s.setB (Blk.replied { s.b with tst := t } m x st [])) :=
  congrArg Host.Outcome.next (req ▸ omp_of_tst_status ready acts)

/-! ### MODULE_RESET (R348) -/

theorem exec_moduleReset_hubDie {s : State} (rails : s.b.pwr.rails = true) (rstN : s.b.pwr.rstN = true) :
    exec (.moduleReset 8) s = .next (s.moduleReset 8) :=
  if_pos (by simp [causeHubDie, Blk.powered, rails, rstN])

theorem State.moduleReset_tst (s : State) (cause : Nat) : (s.moduleReset cause).b.tst = {} := rfl

end Sys2Proof.Machine

namespace Sys2Proof.Proofs
open Sys2Proof Sys2Proof.Machine

/-- Settles O23: a write of a TST register by the unlock level and the value's range (R408), and the registers after a module reset. -/
theorem testRegisters : Obligations.TestRegisters := by
  unfold Obligations.TestRegisters
  intro s m x v off k ready
  refine ⟨?write, ?reset⟩
  case reset => exact fun rails rstN => ⟨_, exec_moduleReset_hubDie rails rstN, State.moduleReset_tst s 8⟩
  case write =>
    rintro req names writable rfl
    refine ⟨?locked, ?unlocked⟩
    case locked => exact fun locked => exec_regWrite_of_tst_status ready req (Blk.regWrite_tst_of_locked names writable locked)
    case unlocked =>
      intro unlocked reserved
      have refused : s.b.tstInRange off (fieldAt m.body 4 4) = false → exec (.regWrite m) s = .next (s.setB (s.b.replied m x stRefused [])) := fun out_of_range =>
        exec_regWrite_of_tst_status ready req (Blk.regWrite_tst_of_outOfRange names writable unlocked reserved out_of_range)
      refine ⟨?fabric, ?mem, ?port, ?reord, ?in_range⟩
      case fabric => rintro rfl out_of_range; exact refused ((tstInRange_fabric_eq_false _ _).mpr out_of_range)
      case mem => rintro rfl out_of_range; exact refused ((tstInRange_mem_eq_false _ _).mpr out_of_range)
      case port => rintro rfl out_of_range; exact refused ((tstInRange_port_eq_false _ _).mpr out_of_range)
      case reord => rintro rfl out_of_range; exact refused ((tstInRange_reord_eq_false _ _).mpr out_of_range)
      case in_range => exact fun in_range => exec_regWrite_of_tst_status ready req (Blk.regWrite_tst_of_inRange names writable unlocked reserved in_range)

end Sys2Proof.Proofs
